-- ==== Sys2Proof/Word.lean ====
section
/-! DEFINITION. Word types and the plainest bit-field arithmetic of the machine (R2, R17). -/
namespace Sys2Proof

/-- A 64-bit register. -/
abbrev Word := BitVec 64

/-- A byte of memory. -/
abbrev Byte := BitVec 8

/-- A set of lanes, bit `l` for lane `l` (R77, R237). -/
abbrev Lanes := BitVec 64

end Sys2Proof
end

