-- ==== Sys2Proof/Syntax.lean ====
section
/-!
DEFINITION. The syntax of the machine: operand records, type suffixes and the one inductive `Instr`, with one
constructor for each row of the opcode table (R47 and the module's events).
-/
namespace Sys2Proof

/-- Integer element types (R17). -/
inductive IntTy where
  | i8 | i16 | i32 | i64 | n8 | n16 | n32 | n64
deriving DecidableEq, Repr

/-- Floating-point element types of the vector arithmetic rows (R50). -/
inductive FTy where
  | f64 | f32 | f16 | bf16
deriving DecidableEq, Repr

/-- Signedness of an `.i64`/`.n64` form and of a mixed dot product's operand (R58). -/
inductive Sgn where
  | i | n
deriving DecidableEq, Repr

/-- The two natural widths of LDO, STO, CAS and A.LDX. -/
inductive NW where
  | n32 | n64
deriving DecidableEq, Repr

/-- The forms of ATOM.ADD (R218). -/
inductive AddTy where
  | n32 | n64 | f32
deriving DecidableEq, Repr

/-- Loaded element types (R211). -/
inductive MemTy where
  | n8 | i8 | n16 | i16 | n32 | i32 | n64
deriving DecidableEq, Repr

/-- Stored element types (R211). -/
inductive StTy where
  | n8 | n16 | n32 | n64
deriving DecidableEq, Repr

/-- The base of a global access: a vector register per lane, or one uniform register (R210). -/
inductive Base where
  | v | s
deriving DecidableEq, Repr

/-- Scopes of an ordered access (R107, R215). -/
inductive Scope where
  | wave | blk | dev | sys
deriving DecidableEq, Repr

/-- Orders of an ordered access (R106, R215). -/
inductive Order where
  | rlx | acq | rel | acqrel
deriving DecidableEq, Repr

/-- The CVT forms, written destination then source (R157). -/
inductive CvtForm where
  | f32f64 | f64f32 | f16f32 | bf16f32 | f32f16 | f32bf16 | e4m3f32 | e5m2f32 | e2m1f32
  | f32e4m3 | f32e5m2 | f32e2m1 | i32f32 | n32f32 | f32i32 | f32n32
  | i64f64 | n64f64 | f64i64 | f64n64
deriving DecidableEq, Repr

/-- The CVTS forms (R158). -/
inductive CvtsForm where
  | e4m3f32 | e5m2f32 | e2m1f32 | f32e4m3 | f32e5m2 | f32e2m1
deriving DecidableEq, Repr

/-- The floating DOT forms (R162). -/
inductive DotForm where
  | f16 | bf16 | e4m3 | e5m2 | e2m1 | kq8
deriving DecidableEq, Repr

/-- The REDUX forms (R165). -/
inductive ReduxOp where
  | addF32 | addI32 | maxF32 | minF32 | maxixF32
deriving DecidableEq, Repr

/-- The VOTE forms (R166). -/
inductive VoteOp where
  | any | all | bal
deriving DecidableEq, Repr

/-- The prefix word's fields (R36). -/
structure Pfx where
  mask   : BitVec 3
  zero   : Bool
  sat    : Bool
  rnd    : Bool
  rm     : BitVec 2
  fourth : BitVec 7
  has4   : Bool
deriving DecidableEq, Repr

/-- Operands of a VEC word: stall code, fields f1, f2, f3, literal and prefix (R32, R36). -/
structure OpsV where
  st  : BitVec 2
  d   : BitVec 7
  a   : BitVec 7
  b   : BitVec 7
  lit : Option (BitVec 32)
  pfx : Option Pfx
deriving DecidableEq, Repr

/-- Operands of an S, G or M word: stall code, fields f1, f2, f3 and literal (R32). -/
structure OpsG where
  st  : BitVec 2
  d   : BitVec 7
  a   : BitVec 7
  b   : BitVec 7
  lit : Option (BitVec 32)
deriving DecidableEq, Repr

/-- Operands of an AT word (R215); `res` is the reserved field [2:0]. -/
structure OpsAT where
  st    : BitVec 2
  d     : BitVec 7
  a     : BitVec 7
  scope : Scope
  order : Order
  res   : BitVec 3
deriving DecidableEq, Repr

/-- Operands of an F word (R32). -/
structure OpsF where
  st    : BitVec 2
  d     : BitVec 7
  level : BitVec 4
  off   : BitVec 10
  lit   : Option (BitVec 32)
deriving DecidableEq, Repr

/-- Operands of a B word. -/
structure OpsB where
  st  : BitVec 2
  off : BitVec 21
deriving DecidableEq, Repr

/-- Operands of a BP word. -/
structure OpsBP where
  st  : BitVec 2
  p   : BitVec 3
  off : BitVec 18
deriving DecidableEq, Repr

/-- Operands of a BS word. -/
structure OpsBS where
  st  : BitVec 2
  n   : BitVec 7
  off : BitVec 14
deriving DecidableEq, Repr

/-- Operands of a BJ word. -/
structure OpsBJ where
  st  : BitVec 2
  p   : BitVec 3
  j   : BitVec 3
  off : BitVec 15
deriving DecidableEq, Repr

/-- Operands of an AB word. -/
structure OpsAB where
  st  : BitVec 2
  a   : BitVec 5
  b   : BitVec 5
  off : BitVec 11
deriving DecidableEq, Repr

/-- Operands of an N word. -/
structure OpsN where
  st  : BitVec 2
  imm : BitVec 21
deriving DecidableEq, Repr

/-- A register that software writes: a dword of the module configuration page, or of a partition's register page,
by its byte offset (R360, R405, R413). -/
inductive RegAddr where
  | module (off : Nat)
  | page (part off : Nat)
deriving DecidableEq, Repr

/-- What an atomic does to its location (R218, R220, R342). -/
inductive AtomFn where
  | add | addF32 | minI | minN | maxI | maxN | and | or | xor | xchg | cas | addHalves
deriving DecidableEq, Repr

/-- What an incoming Cinch access does (R406): an atomic has its function, width, operand and, for CAS, new value. -/
inductive CinchOp where
  | load (n : Nat)
  | store (bytes : List (BitVec 8))
  | atom (f : AtomFn) (n : Nat) (x y : BitVec 64)
deriving DecidableEq, Repr

/-- The operands of an event: which agent, queue, record or address it concerns, and the data it brings. -/
inductive EvArg where
  | none
  /-- outcome of the firmware check and of memory training (R419) -/
  | boot (firmwareOk memoryOk : Bool)
  | part (p : Nat)
  | queue (p q : Nat)
  | tail (p q t : Nat)
  | seq (p n : Nat)
  | reg (r : RegAddr) (x : BitVec 64)
  | write (pa : Nat) (bytes : List (BitVec 8))
  | read (pa n : Nat)
  | cinch (m pa : Nat) (op : CinchOp)
  | port (n : Nat)
  /-- a die, with a sensor reading (R414) -/
  | die (d reading : Nat)
  | word (x : BitVec 64)
  | flow (n : Nat) (x : BitVec 64)
  | frame (port : Nat) (bytes : List (BitVec 8))
  | grid (g : Nat)
  | place (g idx core : Nat)
  | steal (g thief victim : Nat)
  | window (g w : Nat)
  | wave (w : Nat)
  | path (w p : Nat)
  | op (w id : Nat)
  /-- piece or lane `k` of a word's operation is served; `err` says that memory answers it with an uncorrectable
  error (R418) -/
  | service (w id k : Nat) (err : Bool)
  /-- the `i`-th ready continuation of a partition is placed on a core (R336) -/
  | resume (p i core : Nat)
  | line (core l : Nat)
  /-- the `i`-th write that a die's ports hold is delivered (R120) -/
  | delivery (d i : Nat)
  | core (c : Nat)
  | chan (c : Nat)
  /-- a debugger sets a breakpoint at a clause header of a partition, or deletes it (R262) -/
  | brk (p a : Nat) (set : Bool)
deriving DecidableEq, Repr

/-- Every row of the opcode table: first the words of waves and Awl engines, then the module's events. An event's
operands are the `EvArg` its turn brings with it. -/
inductive Instr where
  | add (t : IntTy) (o : OpsV)   -- ADD, R128
  | sub (t : IntTy) (o : OpsV)   -- SUB, R128
  | mul (t : IntTy) (o : OpsV)   -- MUL, R129
  | mulhi (t : IntTy) (o : OpsV)   -- MULHI, R129
  | min (t : IntTy) (o : OpsV)   -- MIN, R131
  | max (t : IntTy) (o : OpsV)   -- MAX, R131
  | mad (t : IntTy) (o : OpsV)   -- MAD, R130
  | and (o : OpsV)   -- AND, R132
  | or (o : OpsV)   -- OR, R132
  | xor (o : OpsV)   -- XOR, R132
  | andn (o : OpsV)   -- ANDN, R132
  | not (o : OpsV)   -- NOT, R132
  | popc (t : IntTy) (o : OpsV)   -- POPC, R133
  | clz (t : IntTy) (o : OpsV)   -- CLZ, R133
  | brev (t : IntTy) (o : OpsV)   -- BREV, R133
  | sel (o : OpsV)   -- SEL, R132
  | shl (t : IntTy) (o : OpsV)   -- SHL, R134
  | shr (t : IntTy) (o : OpsV)   -- SHR, R134
  | bfe (t : IntTy) (o : OpsV)   -- BFE, R135
  | bfi (t : IntTy) (o : OpsV)   -- BFI, R135
  | cmpEq (t : IntTy) (o : OpsV)   -- CMP_EQ, R136
  | cmpNe (t : IntTy) (o : OpsV)   -- CMP_NE, R136
  | cmpLt (t : IntTy) (o : OpsV)   -- CMP_LT, R136
  | cmpLe (t : IntTy) (o : OpsV)   -- CMP_LE, R136
  | pand (o : OpsV)   -- PAND, R137
  | por (o : OpsV)   -- POR, R137
  | pxor (o : OpsV)   -- PXOR, R137
  | pnot (o : OpsV)   -- PNOT, R137
  | mov (o : OpsV)   -- MOV, R138
  | movImm (o : OpsV)   -- MOV_IMM, R138
  | movs (o : OpsV)   -- MOVS, R138
  | lid (o : OpsV)   -- LID, R138
  | movp (o : OpsV)   -- MOVP, R137
  | ptst (o : OpsV)   -- PTST, R137
  | addc (o : OpsV)   -- ADDC, R139
  | subb (o : OpsV)   -- SUBB, R139
  | abs (t : IntTy) (o : OpsV)   -- ABS, R140
  | neg (t : IntTy) (o : OpsV)   -- NEG, R140
  | wid (t : IntTy) (o : OpsV)   -- WID, R141
  | nar (t : IntTy) (o : OpsV)   -- NAR, R142
  | lea (k : BitVec 2) (o : OpsV)   -- LEA, R143
  | fadd (t : FTy) (o : OpsV)   -- FADD, R150
  | fsub (t : FTy) (o : OpsV)   -- FSUB, R150
  | fmul (t : FTy) (o : OpsV)   -- FMUL, R150
  | fma (t : FTy) (o : OpsV)   -- FMA, R150
  | fmin (t : FTy) (o : OpsV)   -- FMIN, R151
  | fmax (t : FTy) (o : OpsV)   -- FMAX, R151
  | fmaxix (t : FTy) (o : OpsV)   -- FMAXIX, R152
  | frnd (t : FTy) (o : OpsV)   -- FRND, R153
  | fcmpEq (t : FTy) (o : OpsV)   -- FCMP_EQ, R154
  | fcmpNe (t : FTy) (o : OpsV)   -- FCMP_NE, R154
  | fcmpLt (t : FTy) (o : OpsV)   -- FCMP_LT, R154
  | fcmpLe (t : FTy) (o : OpsV)   -- FCMP_LE, R154
  | fcmpUn (t : FTy) (o : OpsV)   -- FCMP_UN, R154
  | fclass (t : FTy) (o : OpsV)   -- FCLASS, R155
  | frcp (t : FTy) (o : OpsV)   -- FRCP, R156
  | frsq (t : FTy) (o : OpsV)   -- FRSQ, R156
  | fsqrt (t : FTy) (o : OpsV)   -- FSQRT, R156
  | fdiv (t : FTy) (o : OpsV)   -- FDIV, R156
  | fexp2 (o : OpsV)   -- FEXP2, R156
  | flog2 (o : OpsV)   -- FLOG2, R156
  | fsin (o : OpsV)   -- FSIN, R156
  | fcos (o : OpsV)   -- FCOS, R156
  | ftanh (o : OpsV)   -- FTANH, R156
  | cvt (c : CvtForm) (o : OpsV)   -- CVT, R157
  | cvts (c : CvtsForm) (o : OpsV)   -- CVTS, R158
  | sclSc8F32 (o : OpsV)   -- SCL_SC8_F32, R159
  | kqdec (o : OpsV)   -- KQDEC, R160
  | dot (c : DotForm) (o : OpsV)   -- DOT, R162
  | dot8 (x y : Sgn) (o : OpsV)   -- DOT8, R162
  | dot4 (x y : Sgn) (o : OpsV)   -- DOT4, R162
  | shfl (o : OpsV)   -- SHFL, R164
  | shflX (o : OpsV)   -- SHFL_X, R164
  | shflUp (o : OpsV)   -- SHFL_UP, R164
  | shflDn (o : OpsV)   -- SHFL_DN, R164
  | bcast (o : OpsV)   -- BCAST, R164
  | redux (c : ReduxOp) (o : OpsV)   -- REDUX, R165
  | vote (c : VoteOp) (o : OpsV)   -- VOTE, R166
  | perm (o : OpsV)   -- PERM, R167
  | fctlRd (o : OpsV)   -- FCTL_RD, R168
  | fctlWr (o : OpsV)   -- FCTL_WR, R168
  | uadd (o : OpsG)   -- UADD, R145
  | usub (o : OpsG)   -- USUB, R145
  | umul (o : OpsG)   -- UMUL, R145
  | umulhi (t : Sgn) (o : OpsG)   -- UMULHI, R145
  | umin (t : Sgn) (o : OpsG)   -- UMIN, R145
  | umax (t : Sgn) (o : OpsG)   -- UMAX, R145
  | uand (o : OpsG)   -- UAND, R145
  | uor (o : OpsG)   -- UOR, R145
  | uxor (o : OpsG)   -- UXOR, R145
  | ushl (o : OpsG)   -- USHL, R145
  | ushr (t : Sgn) (o : OpsG)   -- USHR, R145
  | umov (o : OpsG)   -- UMOV, R145
  | umovImm (o : OpsG)   -- UMOV_IMM, R145
  | movl (o : OpsG)   -- MOVL, R146
  | ulane (o : OpsG)   -- ULANE, R147
  | ucmpEq (o : OpsG)   -- UCMP_EQ, R145
  | ucmpNe (o : OpsG)   -- UCMP_NE, R145
  | ucmpLt (t : Sgn) (o : OpsG)   -- UCMP_LT, R145
  | ucmpLe (t : Sgn) (o : OpsG)   -- UCMP_LE, R145
  | upopc (o : OpsG)   -- UPOPC, R145
  | uclz (o : OpsG)   -- UCLZ, R145
  | ldG (t : MemTy) (b : Base) (o : OpsG)   -- LD_G, R211
  | ldGN64X2 (b : Base) (o : OpsG)   -- LD_G_N64_X2, R212
  | stG (t : StTy) (b : Base) (o : OpsG)   -- ST_G, R211
  | stGN64X2 (b : Base) (o : OpsG)   -- ST_G_N64_X2, R212
  | ldo (t : NW) (o : OpsAT)   -- LDO, R216
  | sto (t : NW) (o : OpsAT)   -- STO, R216
  | fence (o : OpsN)   -- FENCE, R217
  | fenceScSys (o : OpsN)   -- FENCE_SC_SYS, R217
  | ldS (t : MemTy) (o : OpsG)   -- LD_S, R211
  | ldSN64X2 (o : OpsG)   -- LD_S_N64_X2, R212
  | stS (t : StTy) (o : OpsG)   -- ST_S, R211
  | stSN64X2 (o : OpsG)   -- ST_S_N64_X2, R212
  | ldRN64 (o : OpsG)   -- LD_R_N64, R211
  | ldRN64X2 (o : OpsG)   -- LD_R_N64_X2, R212
  | stRN64 (o : OpsG)   -- ST_R_N64, R211
  | stRN64X2 (o : OpsG)   -- ST_R_N64_X2, R212
  | atomAdd (t : AddTy) (o : OpsAT)   -- ATOM_ADD, R218
  | atomMin (t : Sgn) (o : OpsAT)   -- ATOM_MIN, R218
  | atomMax (t : Sgn) (o : OpsAT)   -- ATOM_MAX, R218
  | atomMaxix (o : OpsAT)   -- ATOM_MAXIX, R219
  | atomAnd (o : OpsAT)   -- ATOM_AND, R218
  | atomOr (o : OpsAT)   -- ATOM_OR, R218
  | atomXor (o : OpsAT)   -- ATOM_XOR, R218
  | atomXchg (o : OpsAT)   -- ATOM_XCHG, R218
  | cas (t : NW) (o : OpsAT)   -- CAS, R220
  | redAddF32 (o : OpsAT)   -- RED_ADD_F32, R223
  | redAddN64 (o : OpsAT)   -- RED_ADD_N64, R223
  | redFlush (o : OpsG)   -- RED_FLUSH, R224
  | ringClaim (o : OpsG)   -- RING_CLAIM, R227
  | ringPost (o : OpsG)   -- RING_POST, R228
  | ringAwait (o : OpsG)   -- RING_AWAIT, R229
  | ringRel (o : OpsG)   -- RING_REL, R230
  | send (o : OpsG)   -- SEND, R231
  | recv (o : OpsG)   -- RECV, R232
  | uld (o : OpsG)   -- ULD, R214
  | ust (o : OpsG)   -- UST, R214
  | bra (o : OpsB)   -- BRA, R170
  | braAny (o : OpsBP)   -- BRA_ANY, R170
  | braAll (o : OpsBP)   -- BRA_ALL, R170
  | braNz (o : OpsBS)   -- BRA_NZ, R170
  | braZ (o : OpsBS)   -- BRA_Z, R170
  | brx (o : OpsG)   -- BRX, R171
  | call (o : OpsB)   -- CALL, R172
  | callx (o : OpsG)   -- CALLX, R171
  | ret (o : OpsN)   -- RET, R173
  | fcall (o : OpsB)   -- FCALL, R203
  | fcallP (o : OpsBS)   -- FCALL_P, R203
  | split (o : OpsBJ)   -- SPLIT, R174
  | join (o : OpsG)   -- JOIN, R175
  | barSync (o : OpsN)   -- BAR_SYNC, R181
  | yield (o : OpsN)   -- YIELD, R179
  | exit (o : OpsN)   -- EXIT, R178
  | meet (o : OpsG)   -- MEET, R177
  | meetV (o : OpsG)   -- MEET_V, R177
  | barArrive (o : OpsG)   -- BAR_ARRIVE, R184
  | barWait (o : OpsG)   -- BAR_WAIT, R185
  | barExpect (o : OpsG)   -- BAR_EXPECT, R186
  | trap (o : OpsN)   -- TRAP, R180
  | brk (o : OpsN)   -- BRK, R180
  | rng (o : OpsG)   -- RNG, R188
  | icPf (o : OpsG)   -- IC_PF, R189
  | icPin (o : OpsG)   -- IC_PIN, R189
  | icUnpin (o : OpsG)   -- IC_UNPIN, R189
  | nop (o : OpsN)   -- NOP, R179
  | forkStat (o : OpsG)   -- FORK_STAT, R205
  | forkKill (o : OpsG)   -- FORK_KILL, R206
  | forkClr (o : OpsG)   -- FORK_CLR, R207
  | nlaunch (o : OpsG)   -- NLAUNCH, R341
  | nlaunchSeq (o : OpsG)   -- NLAUNCH_SEQ, R341
  | nlaunchDet (o : OpsG)   -- NLAUNCH_DET, R341
  | ldf (o : OpsF)   -- LDF, R342
  | stf (o : OpsF)   -- STF, R342
  | atomf (o : OpsF)   -- ATOMF, R342
  | movd (o : OpsG)   -- MOVD, R343
  | futNew (o : OpsG)   -- FUT_NEW, R344
  | futResolve (o : OpsG)   -- FUT_RESOLVE, R345
  | futAwait (o : OpsG)   -- FUT_AWAIT, R346
  | futPoll (o : OpsG)   -- FUT_POLL, R346
  | futFail (o : OpsG)   -- FUT_FAIL, R345
  | contSave (o : OpsG)   -- CONT_SAVE, R347
  | contWake (o : OpsG)   -- CONT_WAKE, R348
  | mxIssue (o : OpsG)   -- MX_ISSUE, R313
  | mxPop (o : OpsG)   -- MX_POP, R314
  | mxZero (o : OpsG)   -- MX_ZERO, R315
  | mxLoadacc (o : OpsG)   -- MX_LOADACC, R315
  | mxStacc (o : OpsG)   -- MX_STACC, R315
  | mxFreeze (o : OpsG)   -- MX_FREEZE, R316
  | mxThaw (o : OpsG)   -- MX_THAW, R316
  | mxDrain (o : OpsG)   -- MX_DRAIN, R316
  | mxRestore (o : OpsG)   -- MX_RESTORE, R316
  | mxFence (o : OpsG)   -- MX_FENCE, R317
  | mxStat (o : OpsG)   -- MX_STAT, R318
  | mxWait (o : OpsG)   -- MX_WAIT, R317
  | aAdd (o : OpsG)   -- A_ADD, R281
  | aSub (o : OpsG)   -- A_SUB, R281
  | aMul (o : OpsG)   -- A_MUL, R281
  | aAnd (o : OpsG)   -- A_AND, R281
  | aOr (o : OpsG)   -- A_OR, R281
  | aXor (o : OpsG)   -- A_XOR, R281
  | aShl (o : OpsG)   -- A_SHL, R281
  | aShr (o : OpsG)   -- A_SHR, R281
  | aSra (o : OpsG)   -- A_SRA, R281
  | aMin (o : OpsG)   -- A_MIN, R281
  | aMax (o : OpsG)   -- A_MAX, R281
  | aMov (o : OpsG)   -- A_MOV, R281
  | aMovImm (o : OpsG)   -- A_MOV_IMM, R281
  | aLdx (t : NW) (o : OpsG)   -- A_LDX, R283
  | aArg (o : OpsG)   -- A_ARG, R282
  | aNop (o : OpsG)   -- A_NOP, R281
  | aB (o : OpsB)   -- A_B, R284
  | aBeq (o : OpsAB)   -- A_BEQ, R284
  | aBne (o : OpsAB)   -- A_BNE, R284
  | aBlt (o : OpsAB)   -- A_BLT, R284
  | aBge (o : OpsAB)   -- A_BGE, R284
  | aLoop (o : OpsAB)   -- A_LOOP, R284
  | aWait (o : OpsN)   -- A_WAIT, R285
  | aHalt (o : OpsN)   -- A_HALT, R285
  | aTrap (o : OpsN)   -- A_TRAP, R285
  | tdSet (o : OpsG)   -- TD_SET, R287
  | tdDim (o : OpsG)   -- TD_DIM, R287
  | tdCoord (o : OpsG)   -- TD_COORD, R287
  | tdStep (o : OpsG)   -- TD_STEP, R287
  | tdClr (o : OpsG)   -- TD_CLR, R287
  | mvBytes (o : OpsG)   -- MV_BYTES, R290
  | mvTile (o : OpsG)   -- MV_TILE, R291
  | mvTilet (o : OpsG)   -- MV_TILET, R291
  | mvReblk (o : OpsG)   -- MV_REBLK, R292
  | mvMc (o : OpsG)   -- MV_MC, R293
  | aPost (o : OpsG)   -- A_POST, R294
  | aExpect (o : OpsG)   -- A_EXPECT, R295
  | aArrive (o : OpsG)   -- A_ARRIVE, R295
  | aResolve (o : OpsG)   -- A_RESOLVE, R296
  | awlGo (o : OpsG)   -- AWL_GO, R265
  | awlStat (o : OpsG)   -- AWL_STAT, R266
  | awlStop (o : OpsG)   -- AWL_STOP, R267
  | unassignedEntry (w : BitVec 32)   -- UNASSIGNED_ENTRY, R48
  | coldReset   -- COLD_RESET, R419
  | warmReset   -- WARM_RESET, R419
  | registerWrite   -- REGISTER_WRITE, R3
  | doorbellWrite   -- DOORBELL_WRITE, R374
  | queueEnable   -- QUEUE_ENABLE, R364
  | queueDisable   -- QUEUE_DISABLE, R364
  | queueReset   -- QUEUE_RESET, R364
  | verdictReplay   -- VERDICT_REPLAY, R243
  | verdictRefuse   -- VERDICT_REFUSE, R244
  | softPreemption   -- SOFT_PREEMPTION, R246
  | softStopComplete   -- SOFT_STOP_COMPLETE, R246
  | hardPreemption   -- HARD_PREEMPTION, R247
  | resume   -- RESUME, R383
  | saddlebagSave   -- SADDLEBAG_SAVE, R249
  | quantumExpiry   -- QUANTUM_EXPIRY, R375
  | partitionEnable   -- PARTITION_ENABLE, R401
  | partitionReset   -- PARTITION_RESET, R402
  | partitionDisable   -- PARTITION_DISABLE, R401
  | vectorMaskClear   -- VECTOR_MASK_CLEAR, R403
  | powerCapWrite   -- POWER_CAP_WRITE, R413
  | powerCapStep   -- POWER_CAP_STEP, R413
  | thermalWarning   -- THERMAL_WARNING, R414
  | voltageDroop   -- VOLTAGE_DROOP, R414
  | droopEnd   -- DROOP_END, R414
  | criticalTrip   -- CRITICAL_TRIP, R416
  | ptpPortWrite   -- PTP_PORT_WRITE, R408
  | ptpLock   -- PTP_LOCK, R408
  | ptpHoldover   -- PTP_HOLDOVER, R408
  | flowEnable   -- FLOW_ENABLE, R410
  | flowDisable   -- FLOW_DISABLE, R410
  | frameArrival   -- FRAME_ARRIVAL, R411
  | hostWrite   -- HOST_WRITE, R399
  | hostRead   -- HOST_READ, R418
  | cinchAccess   -- CINCH_ACCESS, R406
  | cinchPortFail   -- CINCH_PORT_FAIL, R405
  | launch   -- LAUNCH, R367
  | gang   -- GANG, R377
  | gangReserve   -- GANG_RESERVE, R377
  | seedPush   -- SEED_PUSH, R380
  | seedPop   -- SEED_POP, R380
  | seedFork   -- SEED_FORK, R369
  | tlbinv   -- TLBINV, R369
  | nopPacket   -- NOP_PACKET, R369
  | completionRecordWrite   -- COMPLETION_RECORD_WRITE, R372
  | gridCompletion   -- GRID_COMPLETION, R329
  | blockDispatch   -- BLOCK_DISPATCH, R88
  | stealRequest   -- STEAL_REQUEST, R381
  | watchdog   -- WATCHDOG, R245
  | drainWatchdog   -- DRAIN_WATCHDOG, R248
  | faultRecord   -- FAULT_RECORD, R241
  | blockRelaunch   -- BLOCK_RELAUNCH, R104
  | clauseFetch   -- CLAUSE_FETCH, R30
  | l1LineExpiry   -- L1_LINE_EXPIRY, R117
  | loadComplete   -- LOAD_COMPLETE, R97
  | variableLatencyCompletion   -- VARIABLE_LATENCY_COMPLETION, R43
  | storeQueueLeave   -- STORE_QUEUE_LEAVE, R111
  | homeSliceService   -- HOME_SLICE_SERVICE, R118
  | waiterResend   -- WAITER_RESEND, R397
  | meshRetry   -- MESH_RETRY, R417
  | injectionBar   -- INJECTION_BAR, R388
  | windowApply   -- WINDOW_APPLY, R394
  | forkResolution   -- FORK_RESOLUTION, R197
  | programFetch   -- PROGRAM_FETCH, R264
  | recordStart   -- RECORD_START, R269
  | lockEntry   -- LOCK_ENTRY, R270
  | recordComplete   -- RECORD_COMPLETE, R269
  | channelHalt   -- CHANNEL_HALT, R278
  | mcReserve   -- MC_RESERVE, R273
  | matrixOperationStart   -- MATRIX_OPERATION_START, R306
  | gateObserve   -- GATE_OBSERVE, R306
  | matrixLockEntry   -- MATRIX_LOCK_ENTRY, R306
  | kChunk   -- K_CHUNK, R304
  | matrixCompletion   -- MATRIX_COMPLETION, R306
  | matrixFreeze   -- MATRIX_FREEZE, R309
  | listWalk   -- LIST_WALK, R333
  | resumption   -- RESUMPTION, R336
  | debugRead   -- DEBUG_READ, R260
  | partitionResetComplete   -- PARTITION_RESET_COMPLETE, R402
  | writeDelivery   -- WRITE_DELIVERY, R120
  | thermalWarningEnd   -- THERMAL_WARNING_END, R414
deriving DecidableEq, Repr

end Sys2Proof
end

