-- ==== Sys2Proof/Machine/State.lean ====
section
/-!
DEFINITION. The state of the machine as plain data: everything the spec gives it, and the fields of the model's own
that INVENTORY.md names (the turn list, the cursor and two counters). Each field's docstring names its rule.
-/
namespace Sys2Proof.Machine

/-- Data by key: a list of pairs with keys strictly rising. -/
abbrev Assoc (α : Type) := List (Nat × α)

/-- Data by key with default 0: keys strictly rising, and no entry equal to 0, so equal contents are equal lists.
Memory and register files have this form. -/
abbrev Sparse (w : Nat) := List (Nat × BitVec w)

/-- A register a word may name, or read by what it does (R20, R44, R198). -/
inductive RegName where
  | v (n : Nat) | s (n : Nat) | p (n : Nat) | j (n : Nat) | fctl | mtg
deriving DecidableEq, Repr

/-- The fixed-latency result of a word whose latency has not passed: the register, the lanes written, their old values
and the first clock that reads new (R42, R43). A uniform register uses lane 0. -/
structure Late where
  reg    : RegName
  lanes  : Lanes
  old    : Sparse 64
  ends   : Nat
deriving DecidableEq, Repr

/-- Where bytes lie once an address has been checked: a physical address (R90), or a local scratchpad address of a core
(R100). -/
inductive Loc where
  | glob (pa : Nat)
  | scr (core a : Nat)
deriving DecidableEq, Repr

/-- An entry of a store queue: the store word it belongs to, the lane whose store it is, and the bytes it writes (R111).
`leaf` is the table entry whose accessed and dirty bits a twin's store has still to set (R92, R201); `spill` marks a
return-stack spill, which no other agent sees before the thread's next release (R22). -/
structure StoreEnt where
  op    : Nat
  lane  : Nat
  loc   : Loc
  bytes : List Byte
  leaf  : Option Nat
  spill : Bool
deriving DecidableEq, Repr

/-- A single-copy atomic piece of a lane's access: its offset in the access, its place, its length, and the bytes it
returned (R95, R109). -/
structure Piece where
  lane : Nat
  off  : Nat
  n    : Nat
  loc  : Loc
  data : Option (List Byte)
deriving DecidableEq, Repr

/-- One lane's step of an atomic or reduction: operand `x`, and for CAS the new value `y`. -/
structure AtomStep where
  lane : Nat
  loc  : Loc
  x    : Word
  y    : Word
deriving DecidableEq, Repr

/-- A register write owed by a word that has not completed (R43, R97). -/
structure RegWrite where
  reg  : RegName
  lane : Nat
  val  : Word
deriving DecidableEq, Repr

/-- What remains to be done before a variable-latency word completes. -/
inductive OpKind where
  /-- a load: sign extension, access size, destination registers, pieces still to serve or served, and whether it
  bypasses L1 -/
  | load (signed : Bool) (n : Nat) (dst : List RegName) (l1 : Bool) (pieces : List Piece)
  /-- a store: complete when no entry of the queue names it -/
  | store
  | atomic (f : AtomFn) (n : Nat) (dst : RegName) (todo : List AtomStep)
  /-- a reduction: `f32` or `n64`, and in strict mode its window and word count (R224) -/
  | red (f32 : Bool) (win : Option (Nat × Nat)) (todo : List AtomStep)
  | redFlush
  /-- an ordered store with release order (R216) -/
  | sto (n : Nat) (todo : List AtomStep)
  /-- a wait on a ring slot's state byte for full and phase, then the slot address in a uniform register -/
  | ring (pa : Nat) (full phase : Bool) (dst : RegName) (slot : Nat) (acq : Bool)
  /-- a SEND waiting for its slot: state byte, phase, slot place, message -/
  | send (pa : Nat) (phase : Bool) (slot : Nat) (msg : List Byte)
  /-- a RECV waiting for its slot -/
  | recv (pa : Nat) (phase : Bool) (slot : Nat) (dst : RegName)
  /-- BAR.WAIT on a counted barrier for the phase to differ from the token -/
  | barWait (pa : Nat) (tok : Bool)
  /-- FUT.AWAIT on a future word -/
  | futAwait (pa : Nat) (dst : RegName)
  /-- MX.FENCE and MX.WAIT on a completed ticket of a core's engine -/
  | ticket (core n : Nat)
  /-- MX.POP on a core's engine -/
  | pop (core : Nat) (dst : RegName)
  /-- a return stack's refill of entry `depth` of each lane listed, from its bytes at a place (R173) -/
  | refill (todo : List (Nat × Nat × List (Loc × Nat)))
  /-- MX.DRAIN on the delivery of its image by a die's ports (R316) -/
  | ports (die : Nat)
  /-- nothing but the owed writes -/
  | done
deriving DecidableEq, Repr

/-- Registers of lanes, as masks: what a twin has read or written, or a callee has written (R198), or what a race has
written (R43). A uniform register has lane 0 alone. -/
abbrev RegSet := List (RegName × Lanes)

/-- A variable-latency word that has issued and not completed (R23, R43): its counter, path and lanes, how it acquires (0
not, 1 at .wave, 2 at .blk or wider: R113, R117) and whether it waits for the wave's earlier stores, what remains to be done, the register
writes it owes by now, the registers it will write, those among them, lane by lane, that a later word has written
(a race), and whether it is a release that has still to publish: 1 any, 2 one at .dev or .sys (R112). -/
structure PendOp where
  id     : Nat
  ctr    : Option Nat
  path   : Nat
  lanes  : Lanes
  acq    : Nat
  drain  : Bool
  kind   : OpKind
  writes : List RegWrite
  owes   : List RegName
  raced  : RegSet
  rel    : Nat
deriving DecidableEq, Repr

/-- A clause that has been fetched and has passed checks 1 to 3 (R28 to R30, R40). -/
structure Clause where
  hdr   : BitVec 32
  words : List (BitVec 32)
deriving DecidableEq, Repr

/-- Why a path does not run (R74, R77 to R84, R94, R197, R239). -/
inductive PathSt where
  | run
  /-- at a JOIN of `j`, with the lanes it waits for -/
  | join (j : Nat) (m : Lanes)
  | meet
  | bar (b phase : Nat)
  | op (id : Nat)
  /-- parked on a page fault, with the sequence number of its fault record -/
  | parked (seq : Nat)
  /-- left handler mode at a BRX, until the wave leaves handler mode -/
  | left
  /-- waiting at the return point of a fork record -/
  | ret
deriving DecidableEq, Repr

/-- A path of a wave: its lanes, the clause header its lanes stand at, the index of the next word in the clause (0 at
the header), the clause once fetched, whether it is in handler mode, whether it has come to its clause at the header, where
a breakpoint stops it (R262), and one more than the clock at which it last took a turn (R76 to R81, R89, R239). -/
structure Path where
  id      : Nat
  lanes   : Lanes
  hdr     : Nat
  idx     : Nat
  clause  : Option Clause
  st      : PathSt
  handler : Bool
  head    : Bool
  turn    : Nat
deriving DecidableEq, Repr

/-- The trap registers, the latched handler entry and window, and the code that entered handler mode
(R237, R238, R240); `held` is the state of a path that a drain entry took out of a wait, and
`head` whether it had come to its clause and not begun it (R247, R248). -/
structure Trap where
  cause : Word
  pc    : Word
  lanes : Word
  addr  : Word
  entry : Nat
  base  : Nat
  size  : Nat
  first : Nat
  held  : PathSt
  head  : Bool
deriving DecidableEq, Repr

/-- A fault a twin holds until its record resolves (R196). -/
structure Held where
  code  : Nat
  lanes : Lanes
  addr  : Word
  pc    : Nat
  word  : Nat
  cls   : Nat
deriving DecidableEq, Repr

/-- A fork record (R190). `low` is, for each lane, the lowest entry of its return stack that has been spilled since the
fork, and so to the fork frame (R192). -/
structure ForkRec where
  site   : Nat
  ret    : Nat
  lanes  : Lanes
  depths : Assoc Nat
  vals   : Sparse 64
  twin   : Option Nat
  trains : Bool
  back   : Lanes
  wrote  : RegSet
  frame  : Nat
  low    : Assoc Nat
  clash  : Nat
deriving DecidableEq, Repr

/-- What a wave holds when it is a twin (R194 to R198); `outer` are the records of its caller that were open at the
fork, with the lanes of the twin that wait at their return points (R197). -/
structure Twin where
  parent : Nat
  start  : Sparse 64
  loads  : List Loc
  buf    : List StoreEnt
  held   : Option Held
  rd     : RegSet
  wr     : RegSet
  outer  : List ForkRec
deriving DecidableEq, Repr

/-- A wave (R20 to R26, R70 to R83). Registers of lanes are keyed `lane * 128 + n` for v registers, by `n` for uniform,
predicate (lane masks) and rejoin registers, and by lane for mtg, lk and fctl. `launch` holds s128 to s155 but s152,
which reads device time. `runPath` is the path that issued last, none once that has come to wait, and `pinned` that it goes on before another may
(R79, R81); `cause` the last resolved fork's squash cause (R205). `stack` holds each lane's return stack, top first, of which
the `spilled` bottom entries are not in the cache of 8 but stand in spill memory; `spills` are the spills that no other
agent sees yet (R22). `issued` is one more than the clock at which the wave last issued a word, 0 before (R75). -/
structure Wave where
  id      : Nat
  grid    : Nat
  block   : Nat
  sub     : Nat
  slot    : Nat
  vregs   : Nat
  sregs   : Nat
  rets    : Nat
  v       : Sparse 64
  s       : Sparse 64
  launch  : Sparse 64
  p       : Sparse 64
  j       : Sparse 64
  jp      : Sparse 64
  mtg     : Sparse 64
  lk      : Sparse 64
  fctl    : Sparse 64
  stack   : Assoc (List Word)
  spilled : Assoc Nat
  spills  : List StoreEnt
  dsp     : Sparse 64
  ctr     : List Nat
  trap    : Option Trap
  paths   : List Path
  runPath : Option Nat
  pinned  : Bool
  exited  : Lanes
  queue   : List StoreEnt
  ops     : List PendOp
  late    : List Late
  ready   : Nat
  issued  : Nat
  redGen  : Nat
  redCnt  : Nat
  forks   : List ForkRec
  cause   : Nat
  twin    : Option Twin
deriving DecidableEq, Repr

/-- A block barrier: its phase, and the waves arrived at this phase and at the next (R82). -/
structure Bar where
  phase : Nat
  cur   : List Nat
  next  : List Nat
deriving DecidableEq, Repr

/-- A block (R70, R71, R85, R100 to R104). `run` is the running wave's index in strict mode, and `owed` that the choice
of the next, at a switch point, waits for a wave that can issue; `cont` marks the one-wave
block of a resumption (R336), of which `first` is the wave as it started; `again` that it has been relaunched (R104); `winOut` that a window holding one of its
contributions has been applied (R395). -/
structure Block where
  id       : Nat
  grid     : Nat
  idx      : Nat
  cluster  : Nat
  cores    : List Nat
  sbase    : Nat
  part     : Nat
  size     : Nat
  nwaves   : Nat
  bars     : Assoc Bar
  run      : Nat
  owed     : Bool
  again    : Bool
  killed   : Bool
  spill    : Nat
  table    : Nat
  saved    : Bool
  resolved : Bool
  winOut   : Bool
  cont     : Bool
  first    : Option Wave
deriving DecidableEq, Repr

/-- An entry of a core's return-value predictor (R193). -/
structure PredEnt where
  conf   : Nat
  modes  : List Nat
  site   : Nat
  base   : List Word
  stride : List Word
deriving DecidableEq, Repr

/-- The operations of a matrix engine (R298, R313, R315). -/
inductive MxKind where
  /-- the eight dwords of the parameter block, with dA and dB added in, and the gate sequence -/
  | mul (blk : List Word) (k : Nat)
  | zero (t : Nat)
  | loadacc (t a : Nat)
  | stacc (t a : Nat)
deriving DecidableEq, Repr

/-- An accepted operation, its issuer (grid, block, index, partition, ring table, cores and window), the step of R306
it stands at, and the next chunk (R304, R306). -/
structure MxOp where
  ticket : Nat
  kind   : MxKind
  grid   : Nat
  block  : Nat
  bidx   : Nat
  part   : Nat
  table  : Nat
  cores  : List Nat
  base   : Nat
  size   : Nat
  step   : Nat
  chunk  : Nat
deriving DecidableEq, Repr

/-- A core's matrix engine (R298, R310, R420). `acc` is keyed `tile * 4096 + row * 64 + column`. -/
structure Matrix where
  owner     : Option Nat
  acc       : Sparse 32
  ops       : List MxOp
  pops      : List (Nat × Nat)
  accepted  : Nat
  completed : Nat
  frozen    : Bool
  parked    : Option Nat
  last      : Nat
deriving DecidableEq, Repr

/-- A core (R75, R190, R193, R205, R298). `ports` is keyed `3 * sub-core + port` and holds one more than the clock of the
port's last issue. -/
structure Core where
  pred      : Assoc PredEnt
  committed : Word
  squashed  : Word
  plain     : Word
  mx        : Matrix
  ports     : Assoc Nat
deriving DecidableEq, Repr

/-- A multicast binding: the descriptor, its eight dwords and the credit counters (R272, R273, R396). -/
structure Multicast where
  desc    : Nat
  dwords  : List Word
  credits : List Nat
deriving DecidableEq, Repr

/-- States of an Awl channel (R266). -/
inductive ChanSt where
  | idle | running | waiting | parked | faulted | stopped | frozen
deriving DecidableEq, Repr

/-- What a running channel is doing: reading its next record, waiting for lock entries, fetching or running the program,
finishing the record, or writing its own bit after the completion action (R269). -/
inductive ChanPh where
  | start | lock | run | finish | own
deriving DecidableEq, Repr

/-- Why a channel is to halt at its next instruction boundary (R278): its block was killed or its grid ended with a
code, its partition is reset, or it is frozen. -/
inductive Halt where
  | none | fault (code : Nat) | reset | freeze
deriving DecidableEq, Repr

/-- An Awl channel (R263, R266, R269, R273). `td` holds td0 to td3 as 256-bit values; `stash` is the state to return to
when a freeze ends; `issued` one more than the clock of its last instruction; `recd` is the record last started and
`nextRec` the one to read next; `bidx`, `base` and `size` are the starting block's index, s143 and S_c, kept beyond its
end. -/
structure Chan where
  x       : Sparse 64
  td      : Sparse 256
  st      : ChanSt
  stash   : ChanSt
  ph      : ChanPh
  code    : Nat
  recd    : Nat
  nextRec : Nat
  done    : BitVec 6
  fpc     : Nat
  faddr   : Word
  dwords  : List Word
  hdr     : Nat
  idx     : Nat
  clause  : Option Clause
  grid    : Nat
  block   : Nat
  bidx    : Nat
  core    : Nat
  part    : Nat
  base    : Nat
  size    : Nat
  table   : Nat
  mc      : Option Multicast
  stop    : Bool
  bytes   : Nat
  seq     : Nat
  gen     : Nat
  halt    : Halt
  issued  : Nat
deriving DecidableEq, Repr

/-- A range-lock entry: the table's core, the space, first byte (a virtual address, or a local scratchpad address),
length, and the owner: channel `c`, or engine of core `k` as `1152 + k` (R126, R270, R306). -/
structure Lock where
  core  : Nat
  scr   : Bool
  base  : Nat
  len   : Nat
  owner : Nat
deriving DecidableEq, Repr

/-- A line of a core's L1 data cache: physical line address, its 128 bytes and the clock it was filled (R99, R117). -/
structure L1Line where
  core  : Nat
  line  : Nat
  bytes : List Byte
  fill  : Nat
deriving DecidableEq, Repr

/-- A cached leaf translation of a partition: first byte and size of the page, and the leaf entry (R93). -/
structure TlbEnt where
  part  : Nat
  page  : Nat
  size  : Nat
  entry : Word
deriving DecidableEq, Repr

/-- A pinned block of a core's instruction cache, and the grid that pinned it (R46, R189). -/
structure Pin where
  core : Nat
  blk  : Nat
  grid : Nat
deriving DecidableEq, Repr

/-- A write a die's Latigo or Cinch port has taken in and not delivered (R120); `rel` marks a record or message that
publishes what the port took in before it (R9, R403), and the partition whose vector 2 a refusal raises (R406). -/
structure PortWrite where
  die   : Nat
  pa    : Nat
  bytes : List Byte
  rel   : Bool
  part  : Nat
deriving DecidableEq, Repr

/-- A strict-mode reduction contribution waiting for its window (R224, R394): location, width, value, its source
identifier, and the block's number in the model (R395). -/
structure Contrib where
  grid  : Nat
  win   : Nat
  pa    : Nat
  f32   : Bool
  x     : Word
  block : Nat
  wave  : Nat
  lane  : Nat
  q     : Nat
  bid   : Nat
deriving DecidableEq, Repr

/-- The parts of the memory system beside memory itself; `sent` gives the lanes of the message last sent into a channel's
slot, by the slot's address (R232). -/
structure MemSys where
  poison : List Nat
  eccBad : List Nat
  l1     : List L1Line
  tlb    : List TlbEnt
  pins   : List Pin
  ports  : List PortWrite
  locks  : List Lock
  contribs : List Contrib
  sent   : Assoc Nat
deriving DecidableEq, Repr

/-- A kernel descriptor and its declaration list, read (R368). -/
structure Kernel where
  entry   : Nat
  bx      : Nat
  by_     : Nat
  bz      : Nat
  width   : Nat
  vregs   : Nat
  sregs   : Nat
  level   : Nat
  idem    : Bool
  scheck  : Bool
  strict  : Bool
  scratch : Nat
  copy    : Nat
  matrix  : Nat
  vector  : Nat
  general : Nat
  frame   : Nat
  rets    : Nat
  decls   : List (Word × Word)
deriving DecidableEq, Repr

/-- A launch that has been decoded: a LAUNCH packet, a gang part or a launch descriptor (R325, R366, R376); `code` is
memory as it stood then (R45). -/
structure Launch where
  part     : Nat
  kern     : Kernel
  gx       : Nat
  gy       : Nat
  gz       : Nat
  args     : Word
  lrec     : Nat
  deadline : Word
  budget   : Nat
  maxblk   : Nat
  prio     : Nat
  strict   : Bool
  coop     : Bool
  place    : List Nat
  skew     : Nat
  seed     : Word × Word
  code     : Sparse 8
deriving DecidableEq, Repr

/-- States of a launch record (R371). -/
inductive GridSt where
  | queued | running | stopped | complete | faulted
deriving DecidableEq, Repr

/-- A grid and the contents of its frame header (R70, R322 to R330, R366 to R371). `next` is the next block of each
share (a die's, or in strict mode a cluster's; R381, R382); `fin` the finish times of a round; `after` the siblings an
NLAUNCH.SEQ waits for; `gfault` the first fault, or abort, among the parts of its gang (R378); `quiet` says that the
queue that is to record its gang has been aborted (R402); `saves` the live continuation records; `launcher` the grid
that launched it and `origin` its block (`parent` is none for a detached grid too); `up` is its header's launcher field; `qgen` the enabling of its queue that its
packet belongs to; `code` memory as it stood at the
launch and `own` the bytes that the grid itself has written since (R45); `within` the root of its launcher's fault
domain (R329). A grid whose work is over stays listed while its frame is held. -/
structure Grid where
  id      : Nat
  part    : Nat
  kern    : Kernel
  gx      : Nat
  gy      : Nat
  gz      : Nat
  args    : Word
  lrec    : Nat
  frame   : Nat
  die     : Nat
  dsp     : Sparse 64
  parent  : Option Nat
  launcher : Option Nat
  up      : Nat
  origin  : Option Nat
  within  : Option Nat
  root    : Bool
  detach  : Bool
  strict  : Bool
  coop    : Bool
  prio    : Nat
  budget  : Nat
  maxblk  : Nat
  used    : Nat
  blocks  : Nat
  kids    : Nat
  hold    : Nat
  cfut    : Nat
  qpart   : Nat
  queue   : Option Nat
  qgen    : Nat
  packet  : Nat
  tag     : Nat
  irq     : Bool
  gang    : Option Nat
  cls     : Nat
  deadline : Word
  seed    : Word × Word
  place   : List Nat
  skew    : Nat
  fin     : Assoc Word
  rings   : List Nat
  st      : GridSt
  next    : Assoc Nat
  done    : Nat
  tstart  : Word
  tend    : Word
  start   : Option Word
  fault   : Option (Nat × Word)
  gfault  : Option (Nat × Word)
  quiet   : Bool
  after   : List Nat
  saves   : List Nat
  applied : Nat
  code    : Option (Sparse 8)
  own     : List (Nat × Nat)
  ended   : Bool
deriving DecidableEq, Repr

/-- A completion record waiting to be written (R372), with the enabling of its queue that its packet belongs to; `after`
the words (by operation) whose accesses must be performed first (R369, TLBINV). -/
structure CRec where
  gen    : Nat
  packet : Nat
  tag    : Nat
  kind   : Nat
  status : Nat
  block  : Word
  aux    : Word
  offset : Nat
  irq    : Bool
  after  : List Nat
deriving DecidableEq, Repr

/-- What a queue left when it was parked (R364, R373): its enable, a decode, a completion record, or the launch record
of a grid. -/
inductive Left where
  | enable | decode | record | lrec (g : Nat)
deriving DecidableEq, Repr

/-- A pipe of a gang (R376). -/
structure Pipe where
  prod  : Nat
  cons  : Nat
  pipe  : Nat
  pbase : Nat
  cbase : Nat
deriving DecidableEq, Repr

/-- States of a queue (R363). -/
inductive QueueSt where
  | disabled | idle | active | parked | error | aborted
deriving DecidableEq, Repr

/-- A queue: its entry in the register page (R363), the copy of its descriptor (R362), its seed stack, top first
(R380), the index of its next completion record, the records waiting to be written, the packets whose record is still
owed, and a gang waiting for its reservations (R377). `mute` says that a record write was refused (R373), `off` that the
queue is to be DISABLED once the packet being decoded has been decoded (R364), `tag` and `irq` are those of the packet at
the head once its header has been read, 0 before, `lrecs` the grids whose launch record is to be written again, and `lseq`
and `rseq` the fault records, 0 none, that launch records and the next completion record wait for (R373). `gen` counts the
queue's enablings, whose packets are numbered from 0 each time. -/
structure Queue where
  tail   : Nat
  desc   : Word
  st     : QueueSt
  code   : Nat
  offset : Nat
  head   : Nat
  chead  : Nat
  kept   : List Word
  seeds  : List (Word × Word)
  index  : Nat
  recs   : List CRec
  owed   : List Nat
  left   : Left
  seq    : Nat
  gang   : List Launch
  pipes  : List Pipe
  mute   : Bool
  off    : Bool
  tag    : Nat
  irq    : Bool
  lrecs  : List Nat
  lseq   : Nat
  rseq   : Nat
  gen    : Nat
deriving DecidableEq, Repr

/-- Who waits on a fault record's verdict (R242, R276, R373, R420). -/
inductive FWho where
  | path (w p : Nat) | chan (c : Nat) | mx (core : Nat) | queue (q : Nat)
deriving DecidableEq, Repr

/-- A fault record that is outstanding, or waits for its slot (R241, R242), and a verdict that has still to take effect
(R250, R251). -/
structure FRec where
  seq     : Nat
  code    : Nat
  engine  : Nat
  access  : Nat
  core    : Nat
  addr    : Word
  lanes   : Lanes
  pc      : Nat
  written : Bool
  who     : FWho
  verdict : Option Bool
deriving DecidableEq, Repr

/-- Kinds of object in a cactus region (R321). -/
inductive AllocKind where
  | frame (g : Nat) | spill (b : Nat) | fork (w : Nat) | blockRing (g b : Nat) | gridRing (g : Nat)
deriving DecidableEq, Repr

/-- An object allocated from the cactus region of a die (R321). -/
structure Alloc where
  die  : Nat
  base : Nat
  len  : Nat
  kind : AllocKind
deriving DecidableEq, Repr

/-- What a continuation record keeps in the form that only resumption reads (R334, R336). -/
structure Saved where
  grid   : Nat
  width  : Nat
  launch : Sparse 64
  dsp    : Sparse 64
  gen    : Nat
  cnt    : Nat
deriving DecidableEq, Repr

/-- Stages of a partition under pre-emption (R246 to R250, R383). -/
inductive Stage where
  | run | soft | stopped | freeze | saved
deriving DecidableEq, Repr

/-- A partition: its entry in the configuration page (R400), its register page (R360, R361, R403), its queues, fault
records, cactus allocations, continuations (ready records, list walks, saved parts), pre-emption stage, pending
pre-emption request (`nextReq`) and resume (`resuming`), the start of its residence or of its drain (`since`), and what the Saddlebag holds of it:
scratchpad bytes, drained engines under their numbers, the owners of its engines, its locks and its channels (R249).
`drained` are the cores whose engines the freeze under way has frozen, `drains` the drain and restore entries, a wave and
its taddr, that wait until the wave leaves handler mode (R248). `toOff` says that a reset leaves it off (R401), `imageBad`
that the image holds an uncorrectable error (R417); `vdies` is the die that raised each vector last, and `breaks` the clause
headers at which a debugger holds a breakpoint (R262). -/
structure Part where
  entry  : Sparse 64
  ctx    : Sparse 64
  replay : Word
  preq   : Word
  vecs   : Sparse 64
  pend   : Nat
  queues : Assoc Queue
  seq    : Nat
  recs   : List FRec
  allocs : List Alloc
  ready  : List (Nat × Nat)
  walks  : List Nat
  saves  : Assoc Saved
  stage  : Stage
  nextReq : Nat
  resuming : Bool
  image  : Sparse 8
  imageMx : Assoc Matrix
  engines : Assoc Matrix
  locks   : List Lock
  chans   : Assoc Chan
  drained : List Nat
  drains  : List (Nat × Nat)
  since   : Word
  toOff   : Bool
  imageBad : Bool
  vdies  : Assoc Nat
  breaks : List Nat
deriving DecidableEq, Repr

/-- A die's monitor block (R414); `droop` is the elapsed time at its last droop. -/
structure Monitor where
  fstep   : Nat
  reason  : Nat
  temp    : Nat
  vcore   : Nat
  process : Nat
  trip    : Nat
  cerr    : Nat
  uaddr   : Nat
  droop   : Word
deriving DecidableEq, Repr

/-- The module's own registers (R405, R406, R410, R413, R414, R419): `imports` keyed by dword, `flows` keyed `8 * entry
+ dword` with the unmatched-frame counts at 0 and 1, `off` after a critical trip (R416), `robin` the round-robin
position of each firmware core and class (R375), `muted` the flows a partition reset has stopped (R402), `asks` the die
that each die's distributor asks next, and `stole` one more than the clock at which a die last gave a block away (R381).
-/
structure Module where
  num     : Nat
  ready   : Bool
  fwerr   : Bool
  memerr  : Bool
  cap     : Nat
  imports : Sparse 64
  failed  : List Nat
  flows   : Sparse 64
  muted   : List Nat
  mons    : Assoc Monitor
  off     : Bool
  robin   : Assoc Nat
  asks    : Assoc Nat
  stole   : Assoc Nat
deriving DecidableEq, Repr

/-- Device time, elapsed time, the parts of a nanosecond beyond them, the time status register, and the correction of
device time's rate in parts per billion (R408). -/
structure Time where
  dev     : Word
  elapsed : Word
  frac    : Nat
  devFrac : Nat
  rate    : Int
  status  : Word
deriving DecidableEq, Repr

/-- Who moves in a step: a path of a wave, an Awl channel, an event with its operands, or nobody while some clocks
pass. -/
inductive Turn where
  | issue (wave path : Nat)
  | chan (c : Nat)
  | event (i : Instr) (a : EvArg)
  | pass (clocks : Nat)
deriving DecidableEq, Repr

/-- The agent whose word or event is being run: a wave's path with its word's place in the clause (header address and
word, index of the first word, prefix included, index of the next word), a channel likewise, or an event's operands. -/
inductive Cursor where
  | none
  | wave (w p hdr : Nat) (hword : BitVec 32) (idx next : Nat)
  | chan (c hdr : Nat) (hword : BitVec 32) (idx next : Nat)
  | event (a : EvArg)
deriving DecidableEq, Repr

/-- The whole machine. `turns`, `cur`, `fresh` and `nextId` are the model's own (log entries 2 and 3, DESIGN CHOICE). -/
structure State where
  turns  : List Turn
  cur    : Cursor
  fresh  : Nat
  nextId : Nat
  clock  : Nat
  time   : Time
  mem    : Sparse 8
  scr    : Sparse 8
  msys   : MemSys
  hw     : Module
  parts  : Assoc Part
  grids  : Assoc Grid
  blocks : Assoc Block
  waves  : Assoc Wave
  cores  : Assoc Core
  chans  : Assoc Chan
deriving DecidableEq, Repr

/-- Why the machine stops. -/
inductive Fault where
  /-- An instruction is asked to run with no agent to run it: a word while the cursor names no agent of the kind that
  runs such words, an event while the cursor names no event. Raised by the wrappers of `exec` on such states alone,
  never by `step`, which sets the cursor first; safe. -/
  | noAgent
deriving DecidableEq, Repr

/-- Why an instruction has no meaning yet. -/
inductive Refusal where
  /-- The instruction has no meaning in this model; raised by `exec`; safe. -/
  | notModelled (mnemonic : String)
deriving DecidableEq, Repr

/-- A die's monitor at reset (R414; temp, vcore and process have no reset value: log entry 5, DESIGN CHOICE). -/
def Monitor.reset : Monitor :=
  { fstep := 33, reason := 0, temp := 0, vcore := 0, process := 0, trip := 0, cerr := 0, uaddr := 0
    droop := 0 }

/-- The module's registers at reset (R405, R413, R414, R419; log entry 5, DESIGN CHOICE). -/
def Module.reset : Module :=
  { num := 0, ready := false, fwerr := false, memerr := false, cap := 4800, imports := [], failed := [], flows := []
    muted := [], mons := (List.range 4).map fun d => (d, Monitor.reset), off := false, robin := []
    asks := [], stole := [] }

/-- A partition at reset (R400, R361, R403): every register 0 but the vectors' mask bits, fault records from number
1 (R242). -/
def Part.reset : Part :=
  { entry := [], ctx := [], replay := 0, preq := 0
    vecs := (List.range 4).map fun v => (2 * v + 1, 0x8000000000000000#64)
    pend := 0, queues := [], seq := 1, recs := [], allocs := [], ready := [], walks := [], saves := []
    stage := .run, nextReq := 0, resuming := false, image := [], imageMx := [], engines := [], locks := [], chans := []
    drained := [], drains := [], since := 0, toOff := false, imageBad := false, vdies := [], breaks := [] }

/-- A matrix engine with nothing in it (R20, R298). -/
def Matrix.reset : Matrix :=
  { owner := none, acc := [], ops := [], pops := [], accepted := 0, completed := 0, frozen := false, parked := none
    last := 0 }

/-- A core at reset: no valid predictor entry (R193), counters 0 (R205). -/
def Core.reset : Core := { pred := [], committed := 0, squashed := 0, plain := 0, mx := Matrix.reset, ports := [] }

/-- An Awl channel at reset (R263, R266). -/
def Chan.reset : Chan :=
  { x := [], td := [], st := .idle, stash := .idle, ph := .start, code := 0, recd := 0, nextRec := 0, done := 0, fpc := 0, faddr := 0
    dwords := [], hdr := 0, idx := 0, clause := none, grid := 0, block := 0, bidx := 0, core := 0, part := 0, base := 0, size := 0
    table := 0, mc := none, stop := false, bytes := 0, seq := 0, gen := 0, halt := .none, issued := 0 }

/-- A queue whose entry has its reset values (R363). -/
def Queue.reset : Queue :=
  { tail := 0, desc := 0, st := .disabled, code := 0, offset := 0, head := 0, chead := 0, kept := [], seeds := []
    index := 0, recs := [], owed := [], left := .decode, seq := 0, gang := [], pipes := [], mute := false, off := false
    tag := 0, irq := false, lrecs := [], lseq := 0, rseq := 0, gen := 0 }

/-- The memory system with nothing in it (log entry 1, DESIGN CHOICE). -/
def MemSys.reset : MemSys :=
  { poison := [], eccBad := [], l1 := [], tlb := [], pins := [], ports := [], locks := [], contribs := [], sent := [] }

/-- The machine right after power-on, before bring-up (R408, R419): every partition off, nothing in memory, no wave.
An absent partition, core or channel has its reset values. -/
def State.reset : State :=
  { turns := [], cur := .none, fresh := 0, nextId := 0, clock := 0
    time := { dev := 0, elapsed := 0, frac := 0, devFrac := 0, rate := 0, status := 0 }
    mem := [], scr := [], msys := MemSys.reset, hw := Module.reset
    parts := [], grids := [], blocks := [], waves := [], cores := [], chans := [] }

end Sys2Proof.Machine
end

