-- ==== Sys2Proof/Machine/Assoc.lean ====
section
/-!
DEFINITION. Operations on data by key: lookup, update that keeps keys strictly rising, and for `Sparse` the canonical
form in which no entry is 0.
-/
namespace Sys2Proof.Machine

/-- The entry at a key. -/
def aget {α : Type} : Assoc α → Nat → Option α
  | [], _ => none
  | (k', a) :: l, k => if k = k' then some a else aget l k

/-- Set the entry at a key, keeping keys strictly rising. -/
def aset {α : Type} : Assoc α → Nat → α → Assoc α
  | [], k, a => [(k, a)]
  | (k', a') :: l, k, a =>
    if k < k' then (k, a) :: (k', a') :: l
    else if k = k' then (k, a) :: l
    else (k', a') :: aset l k a

/-- Remove the entry at a key. -/
def aerase {α : Type} (l : Assoc α) (k : Nat) : Assoc α := l.filter fun e => decide (e.1 ≠ k)

/-- Apply a function to the entry at a key, if there is one. -/
def amod {α : Type} (l : Assoc α) (k : Nat) (f : α → α) : Assoc α := match aget l k with
  | some a => aset l k (f a)
  | none => l

/-- Read a key; an unlisted key reads 0. (Log entry 1, DESIGN CHOICE.) -/
def sget {w : Nat} : Sparse w → Nat → BitVec w
  | [], _ => 0
  | (k', a) :: l, k => if k = k' then a else sget l k

/-- Write a key; writing 0 removes the entry, so equal contents stay equal lists. (Log entry 1, DESIGN CHOICE.) -/
def sset {w : Nat} (l : Sparse w) (k : Nat) (a : BitVec w) : Sparse w :=
  if a = 0 then aerase l k else aset l k a

/-- Write consecutive keys. -/
def ssets {w : Nat} (l : Sparse w) (k : Nat) : List (BitVec w) → Sparse w
  | [] => l
  | a :: as => ssets (sset l k a) (k + 1) as

/-- Read consecutive keys. -/
def sgets {w : Nat} (l : Sparse w) (k n : Nat) : List (BitVec w) := (List.range n).map fun i => sget l (k + i)

/-- Keys strictly rising, all above a bound. -/
def keysFrom {α : Type} : Nat → Assoc α → Bool
  | _, [] => true
  | lo, (k, _) :: l => decide (lo ≤ k) && keysFrom (k + 1) l

/-- The canonical form of memory and register files: keys strictly rising and no entry 0. (Log entry 1, DESIGN CHOICE.) -/
def sparseWf {w : Nat} (l : Sparse w) : Bool := keysFrom 0 l && l.all fun e => decide (e.2 ≠ 0)

end Sys2Proof.Machine
end

