-- ==== Sys2Proof/Config.lean ====
section
/-!
DEFINITION. What an implementation fixes and what the spec leaves open. The free values are opaque: nothing can
evaluate them, so a statement that mentions one holds for every value of it (log entries 2 and 6).
-/
namespace Sys2Proof.Config

/-- A free choice between two allowed outcomes: of an early read (R43), of a race (R43), of a stale translation (R93)
or of a cached line (R117). The step supplies its counter and a key for the choice (log entry 2, DESIGN CHOICE). -/
opaque freeBit : Nat → Nat → Bool

/-- A free 64-bit value where the spec gives an effect but no value (log entry 2, DESIGN CHOICE). -/
opaque freeWord : Nat → Nat → BitVec 64

/-- The fixed hash that gives an address its slice within its home die (R98), and the bytes that one spilled contribution
takes of the 64 MiB area of R393. The spec gives neither; a slice is taken modulo 48 (log entry 31, DESIGN CHOICE). -/
opaque sliceOf : Nat → Nat
/-- Log entry 31, DESIGN CHOICE. -/
opaque spillBytes : Nat

/-- How far the nominal core supply lies above 1 mV (log entry 24, DESIGN CHOICE). -/
opaque vcoreAbove : Nat
/-- The nominal core supply in mV, which R414 names and gives no value; it is not 0 (log entry 24, DESIGN CHOICE). -/
def nominalVcore : Nat := vcoreAbove + 1

/-- The value within its bound that the implementation's FRSQ returns, as the destination pattern (R156). The first
argument is the source pattern, the second says whether the form is `.f64` (log entry 6, DESIGN CHOICE). -/
opaque frsq : BitVec 64 → Bool → BitVec 64
/-- The implementation's FEXP2, FLOG2, FSIN, FCOS and FTANH within their bounds (R156, log entry 6, DESIGN CHOICE). -/
opaque fexp2 : BitVec 32 → BitVec 32
/-- Log entry 6, DESIGN CHOICE. -/
opaque flog2 : BitVec 32 → BitVec 32
/-- Log entry 6, DESIGN CHOICE. -/
opaque fsin : BitVec 32 → BitVec 32
/-- Log entry 6, DESIGN CHOICE. -/
opaque fcos : BitVec 32 → BitVec 32
/-- Log entry 6, DESIGN CHOICE. -/
opaque ftanh : BitVec 32 → BitVec 32

end Sys2Proof.Config
end

