-- ==== Sys2Proof/Machine/Float.lean ====
section
/-!
DEFINITION. Number formats and their arithmetic (R50 to R69, R156): values are exact dyadic numbers, rounded once.
-/
namespace Sys2Proof.Machine

/-- A floating-point format (R50). `inf` says it has infinities; `nan` is its canonical NaN (R52), 0 for E2M1. -/
structure Fmt where
  w    : Nat
  frac : Nat
  bias : Nat
  inf  : Bool
  nan  : Nat
  /-- largest finite pattern -/
  max  : Nat
deriving DecidableEq, Repr

def fmtF64 : Fmt := ⟨64, 52, 1023, true, 0x7FF8000000000000, 0x7FEFFFFFFFFFFFFF⟩
def fmtF32 : Fmt := ⟨32, 23, 127, true, 0x7FC00000, 0x7F7FFFFF⟩
def fmtF16 : Fmt := ⟨16, 10, 15, true, 0x7E00, 0x7BFF⟩
def fmtBF16 : Fmt := ⟨16, 7, 127, true, 0x7FC0, 0x7F7F⟩
def fmtE5M2 : Fmt := ⟨8, 2, 15, true, 0x7E, 0x7B⟩
def fmtE4M3 : Fmt := ⟨8, 3, 7, false, 0x7F, 0x7E⟩
def fmtE2M1 : Fmt := ⟨4, 1, 1, false, 0, 7⟩

def fmtOf : FTy → Fmt
  | .f64 => fmtF64 | .f32 => fmtF32 | .f16 => fmtF16 | .bf16 => fmtBF16

/-- An exact value: NaN, an infinity, or sign, significand and power of two. -/
inductive FVal where
  | nan
  | inf (neg : Bool)
  | num (neg : Bool) (m : Nat) (e : Int)
deriving DecidableEq, Repr

/-- The value of a bit pattern (R51). -/
def fpDecode (f : Fmt) (x : Nat) : FVal :=
  let neg := decide (2 ^ (f.w - 1) ≤ x % 2 ^ f.w)
  let mag := x % 2 ^ (f.w - 1)
  let ex := mag / 2 ^ f.frac
  let fr := mag % 2 ^ f.frac
  if f.inf && decide (ex = 2 ^ (f.w - 1 - f.frac) - 1) then
    if fr = 0 then .inf neg else .nan
  else if f.w = 8 && !f.inf && decide (mag = 0x7F) then .nan
  else if ex = 0 then .num neg fr (1 - (f.bias : Int) - f.frac)
  else .num neg (2 ^ f.frac + fr) ((ex : Int) - f.bias - f.frac)

/-- A subnormal read as zero of its sign, when daz is set (R55). -/
def fpRead (f : Fmt) (daz : Bool) (x : Nat) : FVal :=
  let mag := x % 2 ^ (f.w - 1)
  if daz && decide (mag < 2 ^ f.frac) then .num (decide (2 ^ (f.w - 1) ≤ x % 2 ^ f.w)) 0 0 else fpDecode f x

def signBit (f : Fmt) (neg : Bool) : Nat := if neg then 2 ^ (f.w - 1) else 0

/-- What an overflow becomes (R54): mode `rm` as fctl.rm codes it, saturation, sign. -/
def fpOverflow (f : Fmt) (rm : Nat) (sat neg : Bool) : Nat :=
  let toInf := rm = 0 || (rm = 2 && neg) || (rm = 3 && !neg)
  if toInf && !sat then
    if f.inf then signBit f neg + (2 ^ (f.w - 1 - f.frac) - 1) * 2 ^ f.frac
    else if f.w = 8 then f.nan
    else signBit f neg + f.max
  else signBit f neg + f.max

/-- Does rounding the remainder `rem` of `2^d` (plus something below it when `sticky`) raise the kept `n`? -/
def fpIncrement (rm : Nat) (neg : Bool) (n rem half : Nat) (sticky : Bool) : Bool :=
  let any := decide (rem ≠ 0) || sticky
  if rm = 0 then
    decide (half < rem) || (decide (rem = half) && decide (half ≠ 0) && (sticky || decide (n % 2 = 1)))
  else if rm = 1 then false
  else if rm = 2 then neg && any
  else !neg && any

/-- Round the exact magnitude `m * 2^e` (with a nonzero part below it when `sticky`) into a format (R54). -/
def fpRound (f : Fmt) (rm : Nat) (sat neg : Bool) (m : Nat) (e : Int) (sticky : Bool) : Nat :=
  if m = 0 && !sticky then signBit f neg
  else
    let emin : Int := 1 - (f.bias : Int) - f.frac
    let q : Int := max (e + (Nat.log2 m + 1 : Nat) - (f.frac + 1 : Nat)) emin
    let n' : Nat :=
      if q ≤ e then
        let n := m * 2 ^ (e - q).toNat
        if fpIncrement rm neg n 0 0 sticky then n + 1 else n
      else
        let d := (q - e).toNat
        let n := m / 2 ^ d
        if fpIncrement rm neg n (m % 2 ^ d) (2 ^ (d - 1)) sticky then n + 1 else n
    let bits : Int := (q + f.frac + f.bias - 1) * (2 ^ f.frac : Nat) + n'
    if bits.toNat > f.max then fpOverflow f rm sat neg else signBit f neg + bits.toNat

/-- A nonzero subnormal result written as zero of its sign, when ftz is set (R55). -/
def fpFlush (f : Fmt) (ftz : Bool) (x : Nat) : Nat :=
  let mag := x % 2 ^ (f.w - 1)
  if ftz && decide (mag < 2 ^ f.frac) then x - mag else x

/-- The controls a rounding takes: mode, saturation, ftz, daz (R24, R54, R55). -/
structure FpCtl where
  rm  : Nat
  sat : Bool
  ftz : Bool
  daz : Bool
deriving DecidableEq, Repr

/-- Write an exact value in a format: NaN canonical, infinities kept (R52, R54). -/
def fpWrite (f : Fmt) (c : FpCtl) (x : FVal) : Nat :=
  match x with
  | .nan => f.nan
  | .inf neg =>
    if f.inf then signBit f neg + (2 ^ (f.w - 1 - f.frac) - 1) * 2 ^ f.frac
    else if f.w = 8 then (if c.sat then signBit f neg + f.max else f.nan)
    else signBit f neg + f.max
  | .num neg m e => fpFlush f c.ftz (fpRound f c.rm c.sat neg m e false)

/-- Narrow into a format, with E2M1's overflow rule that ignores mode and saturation (R56). -/
def fpNarrow (f : Fmt) (c : FpCtl) (x : FVal) : Nat :=
  if f.w = 4 then fpWrite f { c with sat := true } x else fpWrite f c x

def fpNeg : FVal → FVal
  | .nan => .nan
  | .inf s => .inf (!s)
  | .num s m e => .num (!s) m e

/-- The exact product (R61). -/
def fpMul : FVal → FVal → FVal
  | .nan, _ => .nan
  | _, .nan => .nan
  | .inf s, .inf t => .inf (s != t)
  | .inf s, .num t m _ => if m = 0 then .nan else .inf (s != t)
  | .num s m _, .inf t => if m = 0 then .nan else .inf (s != t)
  | .num s m e, .num t n g => .num (s != t) (m * n) (e + g)

/-- Multiply by a power of two, exactly (R59). -/
def fpScale (x : FVal) (k : Int) : FVal := match x with
  | .num s m e => .num s m (if m = 0 then e else e + k)
  | y => y

def fpIsNan : FVal → Bool
  | .nan => true | _ => false
def fpIsInf (neg : Bool) : FVal → Bool
  | .inf s => s == neg | _ => false
def fpIsNegZero : FVal → Bool
  | .num s m _ => s && m = 0 | _ => false
def fpIsPosZero : FVal → Bool
  | .num s m _ => !s && m = 0 | _ => false

/-- The least exponent among the nonzero finite terms. -/
def fpMinExp (l : List FVal) : Int :=
  (l.foldl (fun (a : Option Int) x => match x with
    | .num _ m e => if m = 0 then a else match a with
      | none => some e
      | some b => some (min b e)
    | _ => a) none).getD 0

/-- The signed value of a finite term in units of `2^e0`. -/
def fpUnits (e0 : Int) : FVal → Int
  | .num s m e => if m = 0 then 0 else
      let v : Int := (m * 2 ^ (e - e0).toNat : Nat)
      if s then -v else v
  | _ => 0

/-- The exact sum of terms (R54, R61, R63): an infinity of each sign or a NaN gives NaN; a zero total takes its sign
from R54, which names the mode. -/
def fpSum (rm : Nat) (l : List FVal) : FVal :=
  if l.any fpIsNan || (l.any (fpIsInf true) && l.any (fpIsInf false)) then .nan
  else if l.any (fpIsInf true) then .inf true
  else if l.any (fpIsInf false) then .inf false
  else
    let e0 := fpMinExp l
    let n := l.foldl (fun a x => a + fpUnits e0 x) 0
    if n = 0 then
      if l.all fpIsNegZero then .num true 0 0
      else if l.all fpIsPosZero then .num false 0 0
      else .num (rm = 2) 0 0
    else .num (decide (n < 0)) n.natAbs e0

/-- `fin(x, T)` of a sum of exact terms. -/
def fpSumWrite (f : Fmt) (c : FpCtl) (l : List FVal) : Nat := fpWrite f c (fpSum c.rm l)

/-- Integer square root by bits. -/
def isqrtBits (n : Nat) : Nat → Nat → Nat
  | 0, r => r
  | k + 1, r =>
    let r' := r + 2 ^ k
    isqrtBits n k (if r' * r' ≤ n then r' else r)

/-- Division, correctly rounded (R156). -/
def fpDiv (f : Fmt) (c : FpCtl) (a b : FVal) : Nat := match a, b with
  | .nan, _ => f.nan
  | _, .nan => f.nan
  | .inf _, .inf _ => f.nan
  | .inf s, .num t _ _ => fpWrite f c (.inf (s != t))
  | .num s _ _, .inf t => signBit f (s != t)
  | .num s m e, .num t n g =>
    if n = 0 then (if m = 0 then f.nan else fpWrite f c (.inf (s != t)))
    else if m = 0 then signBit f (s != t)
    else
      let k := f.frac + 4 + Nat.log2 n
      fpFlush f c.ftz (fpRound f c.rm c.sat (s != t) (m * 2 ^ k / n) (e - g - k) (decide (m * 2 ^ k % n ≠ 0)))

/-- Square root, correctly rounded (R156). -/
def fpSqrt (f : Fmt) (c : FpCtl) (a : FVal) : Nat := match a with
  | .nan => f.nan
  | .inf s => if s then f.nan else fpWrite f c (.inf false)
  | .num s m e =>
    if m = 0 then signBit f s
    else if s then f.nan
    else
      let k := f.frac + 4
      let odd := (e % 2).toNat
      let n := m * 2 ^ (2 * k + odd)
      let r := isqrtBits n (Nat.log2 n / 2 + 1) 0
      fpFlush f c.ftz (fpRound f c.rm c.sat false r ((e - odd) / 2 - k) (decide (r * r ≠ n)))

/-- Comparison of two values that are not NaN: the exact difference's sign, zeros equal. -/
def fpLt (a b : FVal) : Bool := match a, b with
  | .nan, _ => false
  | _, .nan => false
  | .inf s, .inf t => s && !t
  | .inf s, _ => s
  | _, .inf t => !t
  | x, y => let e0 := fpMinExp [x, y]; decide (fpUnits e0 x < fpUnits e0 y)
def fpEq (a b : FVal) : Bool := match a, b with
  | .nan, _ => false
  | _, .nan => false
  | x, y => !fpLt x y && !fpLt y x

def fpSign : FVal → Bool
  | .nan => false | .inf s => s | .num s _ _ => s

/-- Is `a` larger than `b` in the order of R66, with −0 below +0? Neither is NaN. -/
def fpAbove (a b : FVal) : Bool := fpLt b a || (fpEq a b && fpSign b && !fpSign a)

/-- FMAX and FMIN (R66), as values. -/
def fpMaxNum (a b : FVal) : FVal :=
  if fpIsNan a then b else if fpIsNan b then a else if fpAbove b a then b else a
def fpMinNum (a b : FVal) : FVal :=
  if fpIsNan a then b else if fpIsNan b then a else if fpAbove a b then b else a

/-- Write a value that is already in the format: no rounding occurs and no ftz (R151). -/
def fpExact (f : Fmt) (x : FVal) : Nat := fpWrite f ⟨0, false, false, false⟩ x

/-- A (value, index) pair under R67. -/
def pairBetter (a b : FVal × Nat) : FVal × Nat :=
  match fpIsNan a.1, fpIsNan b.1 with
  | true, true => (.nan, min a.2 b.2)
  | true, false => b
  | false, true => a
  | false, false =>
    if fpAbove a.1 b.1 then a else if fpAbove b.1 a.1 then b else (a.1, min a.2 b.2)

/-- Round to an integer in a mode: magnitude of `m * 2^e` (R153, R57). -/
def fpIntegral (rm : Nat) (neg : Bool) (m : Nat) (e : Int) : Nat :=
  if 0 ≤ e then m * 2 ^ e.toNat
  else
    let d := (-e).toNat
    let n := m / 2 ^ d
    if fpIncrement rm neg n (m % 2 ^ d) (2 ^ (d - 1)) false then n + 1 else n

/-- FRND (R153). -/
def fpRnd (f : Fmt) (c : FpCtl) (x : FVal) : Nat := match x with
  | .num s m e => if m = 0 then signBit f s else if 0 ≤ e then fpExact f x
      else fpExact f (.num s (fpIntegral c.rm s m e) 0)
  | y => fpExact f y

/-- Conversion to an integer type of width `w` (R57). -/
def fpToInt (c : FpCtl) (signed : Bool) (w : Nat) (x : FVal) : Int :=
  let hi : Int := if signed then 2 ^ (w - 1) - 1 else 2 ^ w - 1
  let lo : Int := if signed then -(2 ^ (w - 1)) else 0
  match x with
  | .nan => 0
  | .inf s => if s then lo else hi
  | .num s m e =>
    let n : Int := fpIntegral c.rm s m e
    max lo (min hi (if s then -n else n))

def fpOfInt (n : Int) : FVal := .num (decide (n < 0)) n.natAbs 0

/-- A scale byte's exponent, or none for the NaN scale 0xFF (R59). -/
def scaleExp (b : Nat) : Option Int := if b = 0xFF then none else some ((b : Int) - 127)

/-- An element under a scale byte (R59, R61). -/
def fpScaled (x : FVal) (b : Nat) : FVal := match scaleExp b with
  | none => .nan
  | some k => fpScale x k

/-- The eight weights of a KQ8 index, in halves (R62). -/
def kq8 (ix : Nat) : List FVal :=
  let bit (k : Nat) : Nat := ix / 2 ^ k % 2
  let half := bit 15
  let b := (List.range 7).map fun i => bit (8 + i)
  let b7 := b.sum % 2
  let s := (List.range 7).map bit
  let s7 := if half = 0 then bit 7 else s.sum % 2
  List.zipWith (fun m s => .num (s = 1 && m ≠ 0) m (-1))
    ((b ++ [b7]).map fun b => if half = 0 then 2 * b else 1 + 2 * b) (s ++ [s7])

/-! ### Bounded special functions (R156)

Each has a close approximation `c` by exact fixed-point sums; the implementation's own value (Config) is used whenever
it lies within the spec's bound of it, and the rounded `c` otherwise, so a result is always one the bound allows. -/

/-- Fixed-point unit: values are integers in units of `2^-fxP`. -/
def fxP : Nat := 256
/-- ln 2 and π in units of 2^-256. -/
def fxLn2 : Nat := 80260960185991308862233904206310070533990667611589946606122867505419956976171
def fxPi : Nat := 363771576891766324280234942777729862653393377328392429958772151117938894466185

def fxMul (a b : Nat) : Nat := a * b / 2 ^ fxP

/-- e^x − 1 for 0 ≤ x < 1 in units of 2^-256: x + x²/2! + … -/
def fxExpm1 (x : Nat) : Nat :=
  ((List.range 60).foldl (fun (st : Nat × Nat) k => let t := fxMul st.1 x / (k + 2); (t, st.2 + t)) (x, x)).2

/-- atanh z for 0 ≤ z ≤ 1/3: z + z³/3 + z⁵/5 + … -/
def fxAtanh (z : Nat) : Nat :=
  let z2 := fxMul z z
  ((List.range 82).foldl (fun (st : Nat × Nat) k => let t := fxMul st.1 z2; (t, st.2 + t / (2 * k + 3))) (z, z)).2

/-- sin and cos of 0 ≤ x ≤ 1 (radians) by their series. -/
def fxSin (x : Nat) : Nat :=
  let x2 := fxMul x x
  ((List.range 28).foldl (fun (st : Nat × Int) k =>
    let t := fxMul st.1 x2 / ((2 * k + 2) * (2 * k + 3)); (t, if k % 2 = 0 then st.2 - t else st.2 + t)) (x, (x : Int))).2.toNat
def fxCos (x : Nat) : Nat :=
  let x2 := fxMul x x
  ((List.range 28).foldl (fun (st : Nat × Int) k =>
    let t := fxMul st.1 x2 / ((2 * k + 1) * (2 * k + 2)); (t, if k % 2 = 0 then st.2 - t else st.2 + t))
    (2 ^ fxP, ((2 ^ fxP : Nat) : Int))).2.toNat

/-- The unit in the last place of binary32 (as an exponent) at a nonzero magnitude `m * 2^e`. -/
def ulpExp32 (m : Nat) (e : Int) : Int := max (e + (Nat.log2 m : Nat) - 23) (-149)

/-- |a − b| ≤ t, over exact finite values. -/
def fpNear (a b : FVal) (tm : Nat) (te : Int) : Bool := match a, b with
  | .num _ _ _, .num _ _ _ =>
    let e0 := fpMinExp [a, b, .num false tm te]
    decide ((fpUnits e0 a - fpUnits e0 b).natAbs ≤ (fpUnits e0 (.num false tm te)).toNat)
  | _, _ => false

/-- Choose the implementation's value if it lies within the bound of the approximation `c`, else `c` rounded.
(Log entry 6, DESIGN CHOICE.) -/
def fpBounded (y : Nat) (c : FVal) (tm : Nat) (te : Int) : Nat :=
  if fpNear (fpDecode fmtF32 y) c tm te then y else fpWrite fmtF32 ⟨0, false, false, false⟩ c

/-- 2 ulp of the approximation `m * 2^e`. (Log entry 6, DESIGN CHOICE.) -/
def fpBounded2ulp (y : Nat) (neg : Bool) (m : Nat) (e : Int) : Nat :=
  fpBounded y (.num neg m e) 2 (ulpExp32 m e)

/-- FRSQ: within 1 ulp of 1/√x (R156). The neighbours of the rounded root are tested against the bound exactly.
(Log entry 6, DESIGN CHOICE.) -/
def fpRsqrt (f : Fmt) (y : Nat) (a : FVal) : Nat := match a with
  | .nan => f.nan
  | .inf s => if s then f.nan else 0
  | .num s m e =>
    if m = 0 then fpWrite f ⟨0, false, false, false⟩ (.inf s)
    else if s then f.nan
    else
      -- 1/√(m·2^e) = √(2^(2k) / (m·2^odd)) · 2^(−k − (e−odd)/2)
      let odd := (e % 2).toNat
      let k := f.frac + 8 + Nat.log2 m
      let n := 2 ^ (2 * k) / (m * 2 ^ odd)
      let r := isqrtBits n (Nat.log2 n / 2 + 1) 0
      let g : Int := -(k : Int) - (e - odd) / 2
      let c := fpRound f 0 false false r g true
      let u : Int := g + (Nat.log2 r : Nat) - f.frac
      -- (y − u)² x ≤ 1 ≤ (y + u)² x
      let ok := match fpDecode f y with
        | .num false ym ye =>
          let e0 := min ye u
          let yv := ym * 2 ^ (ye - e0).toNat
          let uv := 2 ^ (u - e0).toNat
          let sq (v : Nat) : FVal := .num false (v * v * m) (2 * e0 + e)
          !fpLt (.num false 1 0) (sq (yv - uv)) && !fpLt (sq (yv + uv)) (.num false 1 0)
        | _ => false
      if ok && decide (y < 2 ^ f.w) then y else c

/-- FEXP2 (R156). (Log entry 6, DESIGN CHOICE.) -/
def fpExp2 (y : Nat) (sat : Bool) (a : FVal) : Nat := match a with
  | .nan => fmtF32.nan
  | .inf s => if s then 0 else fpExact fmtF32 (.inf false)
  | .num s m e =>
    if m = 0 then 0x3F800000
    else
      -- the integer and fraction parts of |x|, the fraction in units of 2^-256
      let ip : Nat := if 0 ≤ e then m * 2 ^ (min e.toNat 16) else m / 2 ^ (-e).toNat
      let fx : Nat := if 0 ≤ e then 0 else m % 2 ^ (-e).toNat * 2 ^ (256 - (-e).toNat)
      if !s && decide (128 ≤ ip) then fpOverflow fmtF32 0 sat false
      else if s && decide (200 ≤ ip) then fpBounded2ulp y false 1 (-200)
      else
        let k : Int := if s then (if fx = 0 then -(ip : Int) else -(ip : Int) - 1) else ip
        let f : Nat := if s && decide (fx ≠ 0) then 2 ^ fxP - fx else fx
        fpBounded2ulp y false (2 ^ fxP + fxExpm1 (fxMul f fxLn2)) (k - 256)

/-- FLOG2 (R156): only 1 has an exact result; on [0.5, 2] the bound is 2⁻²² in place of 2 ulp.
(Log entry 6, DESIGN CHOICE; log entry 39, DEDUCED.) -/
def fpLog2 (y : Nat) (a : FVal) : Nat := match a with
  | .nan => fmtF32.nan
  | .inf s => if s then fmtF32.nan else fpExact fmtF32 (.inf false)
  | .num s m e =>
    if m = 0 then fpExact fmtF32 (.inf true)
    else if s then fmtF32.nan
    else
      let k := Nat.log2 m
      if m = 2 ^ k && decide (e + k = 0) then 0
      else
        let z := (m - 2 ^ k) * 2 ^ fxP / (m + 2 ^ k)
        let l : Int := (e + k) * ((2 ^ fxP : Nat) : Int) + ((2 * fxAtanh z * 2 ^ fxP / fxLn2 : Nat) : Int)
        let near1 := decide (e + k = 0) || decide (e + k = -1)
        if near1 then fpBounded y (.num (decide (l < 0)) l.natAbs (-256)) 1 (-22)
        else fpBounded2ulp y (decide (l < 0)) l.natAbs (-256)

/-- The fraction of a turn of |x|, in units of 2^-256. -/
def fpTurn (m : Nat) (e : Int) : Nat :=
  if 0 ≤ e then 0 else m % 2 ^ (-e).toNat * 2 ^ (256 - (-e).toNat)

/-- FSIN and FCOS in turns (R156): quadrant `q` and angle `th` within it. (Log entry 6, DESIGN CHOICE.) -/
def fpSinCos (cosine : Bool) (y : Nat) (a : FVal) : Nat := match a with
  | .nan => fmtF32.nan
  | .inf _ => fmtF32.nan
  | .num s m e =>
    let r := fpTurn m e
    let q := 4 * r / 2 ^ fxP
    let t := 4 * r % 2 ^ fxP
    let q' := if cosine then (q + 1) % 4 else q
    let neg := (decide (2 ≤ q')) != (s && !cosine)
    if t = 0 then
      if q' % 2 = 0 then signBit fmtF32 (s && !cosine)
      else fpExact fmtF32 (.num neg 1 0)
    else
      let th := fxMul t fxPi / 2
      fpBounded y (.num neg (if q' % 2 = 0 then fxSin th else fxCos th) (-256)) 1 (-22)

/-- FTANH (R156). (Log entry 6, DESIGN CHOICE.) -/
def fpTanh (y : Nat) (a : FVal) : Nat := match a with
  | .nan => fmtF32.nan
  | .inf s => fpExact fmtF32 (.num s 1 0)
  | .num s m e =>
    if m = 0 then signBit fmtF32 s
    else if !fpLt (.num false m e) (.num false 16 0) then fpExact fmtF32 (.num s 1 0)
    else
      let t : Nat := m * 2 ^ (e + 257).toNat
      let k := t / fxLn2
      let em1 := if t < 2 ^ fxP then fxExpm1 t else 2 ^ k * (2 ^ fxP + fxExpm1 (t % fxLn2)) - 2 ^ fxP
      fpBounded2ulp y s (em1 * 2 ^ fxP / (em1 + 2 * 2 ^ fxP)) (-256)

end Sys2Proof.Machine
end

