-- ==== Sys2Proof/Machine/Table.lean ====
section
/-!
DEFINITION. The opcode map as one table (R47): for each instruction word its opcode, class, fields with their
register files, literal rule (R32, R34), accepted prefix fields (R127, R149), latency and occupancy (R41, R42) and
counter (R23). The encoder, the field checks of R40 and the issue of a word all read this one table.
-/
namespace Sys2Proof

/-- Clause classes (R28), and `eng` for the rows an Awl engine runs (R47, R49). -/
inductive Cls where
  | vec | uni | mem | mtx | awl | sys | eng
deriving DecidableEq, Repr

/-- What an operand field names (R32). -/
inductive FK where
  | zero | v | vpair | s | p | j | x | td | acc | dsp | imm
deriving DecidableEq, Repr

/-- One operand field: what it names, its value, and whether the word reads or writes the register. -/
structure Fld where
  kind : FK
  val  : Nat
  rd   : Bool
  wr   : Bool
deriving DecidableEq, Repr

/-- Literals an entry takes: none because its format has none, none because the entry takes none, one that replaces
f3 if present, or one that must be present (R32, R34). -/
inductive LitRule where
  | noFormat | noEntry | optional | mandatory
deriving DecidableEq, Repr

/-- The prefix fields an entry accepts (R127, R149). -/
structure PAcc where
  any : Bool
  zero : Bool
  sat : Bool
  rnd : Bool
  fourth : Bool
deriving DecidableEq, Repr

/-- One row of the table, filled in with an instruction's operands. -/
structure Sig where
  opc      : Nat
  cls      : Cls
  ctl      : Bool
  st       : BitVec 2
  bits     : BitVec 21
  flds     : List Fld
  extra    : List Fld
  lit      : Option (BitVec 32)
  litRule  : LitRule
  replZero : Bool
  pfx      : Option Pfx
  pacc     : PAcc
  ok       : Bool
  lat      : Nat
  occ      : Nat
  ctr      : Option Nat
deriving DecidableEq, Repr

namespace Table

def rV (n : BitVec 7) : Fld := ⟨.v, n.toNat, true, false⟩
def wV (n : BitVec 7) : Fld := ⟨.v, n.toNat, false, true⟩
def rwV (n : BitVec 7) : Fld := ⟨.v, n.toNat, true, true⟩
def rVP (n : BitVec 7) : Fld := ⟨.vpair, n.toNat, true, false⟩
def wVP (n : BitVec 7) : Fld := ⟨.vpair, n.toNat, false, true⟩
def rS (n : BitVec 7) : Fld := ⟨.s, n.toNat, true, false⟩
def wS (n : BitVec 7) : Fld := ⟨.s, n.toNat, false, true⟩
def rP (n : BitVec 7) : Fld := ⟨.p, n.toNat, true, false⟩
def wP (n : BitVec 7) : Fld := ⟨.p, n.toNat, false, true⟩
def wJ (n : BitVec 7) : Fld := ⟨.j, n.toNat, true, true⟩
def rX (n : BitVec 7) : Fld := ⟨.x, n.toNat, true, false⟩
def wX (n : BitVec 7) : Fld := ⟨.x, n.toNat, false, true⟩
def tD (n : BitVec 7) : Fld := ⟨.td, n.toNat, true, true⟩
def acc (n : BitVec 7) : Fld := ⟨.acc, n.toNat, true, true⟩
def imm (n : BitVec 7) : Fld := ⟨.imm, n.toNat, false, false⟩
def dsp (n : BitVec 7) : Fld := ⟨.dsp, n.toNat, true, false⟩
def z (n : BitVec 7) : Fld := ⟨.zero, n.toNat, false, false⟩

/-- f1, f2, f3 as the 21 operand bits. -/
def pack3 (d a b : BitVec 7) : BitVec 21 := d ++ a ++ b

/-- Prefix fields accepted: none. -/
def pNone : PAcc := ⟨false, false, false, false, false⟩
/-- `mask=` and `zero`. -/
def pM : PAcc := ⟨true, true, false, false, false⟩
def pS : PAcc := ⟨true, true, true, false, false⟩
def pR : PAcc := ⟨true, true, false, true, false⟩
def pRS : PAcc := ⟨true, true, true, true, false⟩
def p4 : PAcc := ⟨true, true, false, false, true⟩
def pS4 : PAcc := ⟨true, true, true, false, true⟩
def pRS4 : PAcc := ⟨true, true, true, true, true⟩

/-- A VEC row: destination, first source, and how f3 is read. -/
def vecRow (opc : Nat) (o : OpsV) (d a : Fld) (b : Fld) (rule : LitRule) (pacc : PAcc) (lat : Nat) : Sig where
  opc := opc
  cls := .vec
  ctl := false
  st := o.st
  bits := pack3 o.d o.a o.b
  flds := if rule = .optional ∧ o.lit.isSome then [d, a] else [d, a, b]
  extra := match o.pfx with
    | some p => (if p.mask = 0 then [] else [⟨.p, p.mask.toNat, true, false⟩])
        ++ (if p.has4 then [rV p.fourth] else [])
    | none => []
  lit := o.lit
  litRule := rule
  replZero := rule ≠ .optional || o.lit.isNone || o.b = 0
  pfx := o.pfx
  pacc := pacc
  ok := true
  lat := lat
  occ := 1
  ctr := none

/-- The third input: vd, when the prefix supplies no fourth register (R127, R148). -/
def third (o : OpsV) (g : Sig) : Sig :=
  if (o.pfx.map Pfx.has4).getD false then g else { g with extra := g.extra ++ [rV o.d] }

def v3 (opc : Nat) (o : OpsV) (pacc : PAcc) (lat : Nat) : Sig :=
  vecRow opc o (wV o.d) (rV o.a) (rV o.b) .optional pacc lat
def v2 (opc : Nat) (o : OpsV) (pacc : PAcc) (lat : Nat) : Sig :=
  vecRow opc o (wV o.d) (rV o.a) (z o.b) .noEntry pacc lat
def pcmp (opc : Nat) (o : OpsV) (lat : Nat) : Sig :=
  vecRow opc o (wP o.d) (rV o.a) (rV o.b) .optional pM lat
/-- PAND, POR and PXOR (R137): no entry for a literal, which gives ILLEGAL_OP. (Log entry 42, DEDUCED.) -/
def pred3 (opc : Nat) (o : OpsV) : Sig :=
  vecRow opc o (wP o.d) (rP o.a) (rP o.b) .noEntry pM 1

/-- A VC row: control word in a literal that must be present (R32). -/
def vc (opc : Nat) (o : OpsV) (b : Fld) (pacc : PAcc) : Sig :=
  vecRow opc o (wV o.d) (rV o.a) b .mandatory pacc 4

/-- A row outside VEC over f1, f2, f3. -/
def gRow (opc : Nat) (cls : Cls) (o : OpsG) (flds : List Fld) (rule : LitRule) (lat : Nat) (ctr : Option Nat) : Sig where
  opc := opc
  cls := cls
  ctl := false
  st := o.st
  bits := pack3 o.d o.a o.b
  flds := flds
  extra := []
  lit := o.lit
  litRule := rule
  replZero := rule ≠ .optional || o.lit.isNone || o.b = 0
  pfx := none
  pacc := pNone
  ok := true
  lat := lat
  occ := 1
  ctr := ctr

/-- f3 as a register, or the literal that replaces it. -/
def orLit (o : OpsG) (b : Fld) : List Fld := if o.lit.isSome then [] else [b]

def uni3 (opc : Nat) (o : OpsG) (lat : Nat) : Sig :=
  gRow opc .uni o ([wS o.d, rS o.a] ++ orLit o (rS o.b)) .optional lat none
def uni2 (opc : Nat) (o : OpsG) (lat : Nat) : Sig :=
  gRow opc .uni o [wS o.d, rS o.a, z o.b] .noEntry lat none

/-- An M row: data register, base and offset (R210). -/
def mRow (opc : Nat) (o : OpsG) (d base : Fld) (ctr : Nat) : Sig :=
  gRow opc .mem o [d, base, imm o.b] .optional 0 (some ctr)

def baseFld (b : Base) (o : OpsG) : Fld := match b with
  | .v => rV o.a
  | .s => rS o.a
def baseBit (b : Base) : Nat := match b with
  | .v => 0
  | .s => 1

def scopeBits : Scope → BitVec 2
  | .wave => 0 | .blk => 1 | .dev => 2 | .sys => 3
def orderBits : Order → BitVec 2
  | .rlx => 0 | .acq => 1 | .rel => 2 | .acqrel => 3
def scopeOf (b : BitVec 2) : Scope :=
  if b = 0 then .wave else if b = 1 then .blk else if b = 2 then .dev else .sys
def orderOf (b : BitVec 2) : Order :=
  if b = 0 then .rlx else if b = 1 then .acq else if b = 2 then .rel else .acqrel

/-- An AT row (R215). -/
def atRow (opc : Nat) (o : OpsAT) (d : Fld) (ctr : Nat) (ok : Bool) : Sig where
  opc := opc
  cls := .mem
  ctl := false
  st := o.st
  bits := o.d ++ o.a ++ scopeBits o.scope ++ orderBits o.order ++ o.res
  flds := [d, rV o.a]
  extra := []
  lit := none
  litRule := .noFormat
  replZero := true
  pfx := none
  pacc := pNone
  ok := decide (o.res = 0) && ok
  lat := 0
  occ := 1
  ctr := some ctr

/-- Any other row: operand bits, fields and checks given outright, with no literal. -/
def plain (opc : Nat) (cls : Cls) (ctl : Bool) (st : BitVec 2) (bits : BitVec 21) (flds : List Fld) (ok : Bool)
    (lat : Nat) (ctr : Option Nat) : Sig where
  opc := opc
  cls := cls
  ctl := ctl
  st := st
  bits := bits
  flds := flds
  extra := []
  lit := none
  litRule := .noFormat
  replZero := true
  pfx := none
  pacc := pNone
  ok := ok
  lat := lat
  occ := 1
  ctr := ctr

def nRow (opc : Nat) (cls : Cls) (ctl : Bool) (o : OpsN) (ok : Bool) (lat : Nat) : Sig :=
  plain opc cls ctl o.st o.imm [] ok lat none
def bRow (opc : Nat) (cls : Cls) (o : OpsB) : Sig :=
  plain opc cls true o.st o.off [] true 1 none
def bpRow (opc : Nat) (o : OpsBP) : Sig :=
  plain opc .sys true o.st (o.p ++ o.off) [⟨.p, o.p.toNat, true, false⟩] true 1 none
def bsRow (opc : Nat) (o : OpsBS) : Sig :=
  plain opc .sys true o.st (o.n ++ o.off) [rS o.n] true 1 none
def abRow (opc : Nat) (o : OpsAB) : Sig :=
  plain opc .eng true o.st (o.a ++ o.b ++ o.off)
    [⟨.x, o.a.toNat, true, true⟩, ⟨.x, o.b.toNat, true, false⟩] true 0 none
def fRow (opc : Nat) (o : OpsF) (d : Fld) : Sig where
  opc := opc
  cls := .sys
  ctl := false
  st := o.st
  bits := o.d ++ o.level ++ o.off
  flds := [d]
  extra := []
  lit := o.lit
  litRule := .optional
  replZero := o.lit.isNone || o.off = 0
  pfx := none
  pacc := pNone
  ok := true
  lat := 0
  occ := 1
  ctr := some 5

def sysRow (opc : Nat) (o : OpsG) (flds : List Fld) (lat : Nat) (ctr : Option Nat) : Sig :=
  gRow opc .sys o flds .noEntry lat ctr
def mtxRow (opc : Nat) (o : OpsG) (flds : List Fld) (ctr : Option Nat) : Sig :=
  gRow opc .mtx o flds .noEntry 0 ctr
def engRow (opc : Nat) (o : OpsG) (flds : List Fld) : Sig :=
  gRow opc .eng o flds .noEntry 0 none
def eng3 (opc : Nat) (o : OpsG) : Sig :=
  gRow opc .eng o ([wX o.d, rX o.a] ++ orLit o (rX o.b)) .optional 0 none

/-- A control transfer over G fields. -/
def ctlRow (opc : Nat) (o : OpsG) (flds : List Fld) (ok : Bool) : Sig :=
  { gRow opc .sys o flds .noEntry 1 none with ctl := true, ok := ok }

/-- Add an entry's own field check. -/
def chk (c : Bool) (g : Sig) : Sig := { g with ok := g.ok && c }
/-- Occupancy 2 (R41). -/
def occ2 (g : Sig) : Sig := { g with occ := 2 }
/-- Occupancy 2 for `.f64` forms only (R41). -/
def occF (t : FTy) (g : Sig) : Sig := if t = .f64 then { g with occ := 2 } else g

def tyI : IntTy → Nat
  | .i8 => 0 | .i16 => 1 | .i32 => 2 | .i64 => 3 | .n8 => 4 | .n16 => 5 | .n32 => 6 | .n64 => 7
def tyF : FTy → Nat
  | .f64 => 0 | .f32 => 1 | .f16 => 2 | .bf16 => 3
def tyFp : FTy → Nat
  | .f32 => 0 | .f64 => 1 | _ => 2
def tyS : Sgn → Nat
  | .i => 0 | .n => 1
def tyNW : NW → Nat
  | .n32 => 0 | .n64 => 1
def memTy : MemTy → Nat
  | .n8 => 0 | .i8 => 1 | .n16 => 2 | .i16 => 3 | .n32 => 4 | .i32 => 5 | .n64 => 6
def stTy : StTy → Nat
  | .n8 => 0 | .n16 => 1 | .n32 => 2 | .n64 => 3
def cvtTy : CvtForm → Nat
  | .f32f64 => 0 | .f64f32 => 1 | .f16f32 => 2 | .bf16f32 => 3 | .f32f16 => 4 | .f32bf16 => 5 | .e4m3f32 => 6
  | .e5m2f32 => 7 | .e2m1f32 => 8 | .f32e4m3 => 9 | .f32e5m2 => 10 | .f32e2m1 => 11 | .i32f32 => 12 | .n32f32 => 13
  | .f32i32 => 14 | .f32n32 => 15 | .i64f64 => 16 | .n64f64 => 17 | .f64i64 => 18 | .f64n64 => 19
def cvtsTy : CvtsForm → Nat
  | .e4m3f32 => 0 | .e5m2f32 => 1 | .e2m1f32 => 2 | .f32e4m3 => 3 | .f32e5m2 => 4 | .f32e2m1 => 5
def dotTy : DotForm → Nat
  | .f16 => 0 | .bf16 => 1 | .e4m3 => 2 | .e5m2 => 3 | .e2m1 => 4 | .kq8 => 13
def reduxTy : ReduxOp → Nat
  | .addF32 => 0 | .addI32 => 1 | .maxF32 => 2 | .minF32 => 3 | .maxixF32 => 4
def voteTy : VoteOp → Nat
  | .any => 0 | .all => 1 | .bal => 2

/-- Types of the forms listed `.i32 .i64 .n32 .n64`. -/
def isWide : IntTy → Bool
  | .i32 | .i64 | .n32 | .n64 => true
  | _ => false
/-- Position in the list `.i32 .i64 .n32 .n64` (R130, R136). -/
def tyW : IntTy → Nat
  | .i32 => 0 | .i64 => 1 | .n32 => 2 | .n64 => 3 | _ => 4
def isN : IntTy → Bool
  | .n8 | .n16 | .n32 | .n64 => true
  | _ => false

def narrowing : CvtForm → Bool
  | .f32f64 | .f16f32 | .bf16f32 | .e4m3f32 | .e5m2f32 | .e2m1f32 => true
  | _ => false
/-- The prefix fields of the CVT forms (R149). -/
def cvtPfx : CvtForm → PAcc
  | .f32f64 | .f16f32 | .bf16f32 | .e4m3f32 | .e5m2f32 | .e2m1f32 => pRS
  | .i32f32 | .n32f32 | .f32i32 | .f32n32 | .i64f64 | .n64f64 | .f64i64 | .f64n64 => pR
  | _ => pM

/-- The CVTS control word's reserved bits and part range (R158). -/
def cvtsOk (c : CvtsForm) (l : BitVec 32) : Bool :=
  decide (l.extractLsb 31 13 = 0) &&
  (let q := (l.extractLsb 12 10).toNat
   match c with
   | .e4m3f32 | .e5m2f32 => decide (q < 2)
   | .e2m1f32 => decide (q < 4)
   | .f32e4m3 | .f32e5m2 => decide (q < 4)
   | .f32e2m1 => decide (q < 8))
/-- A dot control word's reserved bits, and the scale fields an unscaled form leaves 0 (R161). -/
def dotOk (scaled : Bool) (l : BitVec 32) : Bool :=
  decide (l.extractLsb 31 21 = 0) && (scaled || decide (l.extractLsb 19 0 = 0))
def dotScaled : DotForm → Bool
  | .f16 | .bf16 => false
  | _ => true
/-- A shuffle literal: k in [6:0], g in [10:8], g not 7, the rest 0 (R164). -/
def shufOk (l : BitVec 32) : Bool :=
  decide (l.extractLsb 31 11 = 0) && decide (l.extractLsb 7 7 = 0) && decide (l.extractLsb 10 8 ≠ 7)
/-- An optional literal's own check. -/
def litOk (l : Option (BitVec 32)) (f : BitVec 32 → Bool) : Bool := match l with
  | some x => f x
  | none => true

/-- The registers a dot form names beside vd and va: vb to vb+3 for KQ8, and the scale registers. -/
def dotExtra (c : DotForm) (o : OpsV) : List Fld :=
  (if c = .kq8 then [⟨.v, o.b.toNat + 1, true, false⟩, ⟨.v, o.b.toNat + 2, true, false⟩, ⟨.v, o.b.toNat + 3, true, false⟩]
   else []) ++
  (match o.lit with
   | some l => if dotScaled c then [⟨.v, (l.extractLsb 6 0).toNat, true, false⟩, ⟨.v, (l.extractLsb 16 10).toNat, true, false⟩] else []
   | none => [])

def withExtra (e : List Fld) (g : Sig) : Sig := { g with extra := g.extra ++ e }

def fLat (t : FTy) : Nat := if t = .f64 then 8 else 4

def ringRow (opc : Nat) (o : OpsG) (flds : List Fld) : Sig :=
  chk (litOk o.lit fun l => decide (l.toNat ≤ 255)) (gRow opc .mem o flds .optional 0 (some 4))

end Table

open Table in
/-- The table's row of a word; `none` for the module's events, which have no word. -/
def Instr.sig : Instr → Option Sig
  | .add t o => some (v3 (0x000 + tyI t) o pS 1)
  | .sub t o => some (v3 (0x008 + tyI t) o pS 1)
  | .mul t o => some (v3 (0x010 + tyI t) o pS 4)
  | .mulhi t o => some (v3 (0x018 + tyI t) o pM 4)
  | .min t o => some (v3 (0x020 + tyI t) o pM 1)
  | .max t o => some (v3 (0x028 + tyI t) o pM 1)
  | .mad t o => some (chk (isWide t) (third o (v3 (0x030 + tyW t) o pS4 4)))
  | .and o => some (v3 0x034 o pM 1)
  | .or o => some (v3 0x035 o pM 1)
  | .xor o => some (v3 0x036 o pM 1)
  | .andn o => some (v3 0x037 o pM 1)
  | .not o => some (v2 0x038 o pM 1)
  | .popc t o => some (chk (t = .n32 || t = .n64) (v2 (0x039 + (if t = .n32 then 0 else 1)) o pM 2))
  | .clz t o => some (chk (t = .n32 || t = .n64) (v2 (0x03B + (if t = .n32 then 0 else 1)) o pM 2))
  | .brev t o => some (chk (t = .n32 || t = .n64) (v2 (0x03D + (if t = .n32 then 0 else 1)) o pM 2))
  | .sel o => some (third o (v3 0x03F o p4 1))
  | .shl t o => some (chk (isN t) (v3 (0x040 + (tyI t - 4)) o pM 1))
  | .shr t o => some (v3 (if isN t then 0x044 + (tyI t - 4) else 0x048 + tyI t) o pM 1)
  | .bfe t o => some (chk (isWide t)
      (v3 (0x04C + (match t with | .n32 => 0 | .i32 => 1 | .n64 => 2 | _ => 3)) o pM 2))
  | .bfi t o => some (chk (t = .n32 || t = .n64) (third o (v3 (0x050 + (if t = .n32 then 0 else 1)) o p4 2)))
  | .cmpEq t o => some (chk (t = .i32 || t = .i64) (pcmp (0x052 + (if t = .i32 then 0 else 1)) o 1))
  | .cmpNe t o => some (chk (t = .i32 || t = .i64) (pcmp (0x054 + (if t = .i32 then 0 else 1)) o 1))
  | .cmpLt t o => some (chk (isWide t) (pcmp (0x056 + tyW t) o 1))
  | .cmpLe t o => some (chk (isWide t) (pcmp (0x05A + tyW t) o 1))
  | .pand o => some (pred3 0x060 o)
  | .por o => some (pred3 0x061 o)
  | .pxor o => some (pred3 0x062 o)
  | .pnot o => some (vecRow 0x063 o (wP o.d) (rP o.a) (z o.b) .noEntry pM 1)
  | .mov o => some (chk o.lit.isNone (v2 0x064 o pM 1))
  | .movImm o => some (chk o.lit.isSome (vecRow 0x064 o (wV o.d) (z o.a) (z o.b) .optional pM 1))
  | .movs o => some (vecRow 0x065 o (wV o.d) (z o.a) (rS o.b) .optional pM 1)
  | .lid o => some (vecRow 0x066 o (wV o.d) (z o.a) (z o.b) .noEntry pM 1)
  | .movp o => some (vecRow 0x067 o (wV o.d) (rP o.a) (z o.b) .noEntry pM 1)
  | .ptst o => some (pcmp 0x068 o 1)
  | .addc o => some (v3 0x069 o p4 1)
  | .subb o => some (v3 0x06A o p4 1)
  | .abs t o => some (chk (t = .i32 || t = .i64) (v2 (0x06B + (if t = .i32 then 0 else 1)) o pS 1))
  | .neg t o => some (chk (t = .i32 || t = .i64) (v2 (0x06D + (if t = .i32 then 0 else 1)) o pS 1))
  | .wid t o => some (chk (t ≠ .i8 && t ≠ .n8) (v2 (0x070 + (if isN t then tyI t - 2 else tyI t - 1)) o pM 1))
  | .nar t o => some (chk (t ≠ .i64 && t ≠ .n64) (v3 (0x076 + (if isN t then tyI t - 1 else tyI t)) o pS 1))
  | .lea k o => some (v3 (0x07C + k.toNat) o pM 1)
  | .fadd t o => some (occ2 (v3 (0x080 + tyF t) o pRS (fLat t)))
  | .fsub t o => some (occ2 (v3 (0x084 + tyF t) o pRS (fLat t)))
  | .fmul t o => some (occ2 (v3 (0x088 + tyF t) o pRS (fLat t)))
  | .fma t o => some (occ2 (third o (v3 (0x08C + tyF t) o pRS4 (fLat t))))
  | .fmin t o => some (occF t (v3 (0x090 + tyF t) o pM (fLat t)))
  | .fmax t o => some (occF t (v3 (0x094 + tyF t) o pM (fLat t)))
  | .fmaxix t o => some (occF t (if t = .f64
      then vecRow 0x098 o (wVP o.d) (rVP o.a) (rVP o.b) .noEntry pM 8
      else vecRow (0x098 + tyF t) o (wV o.d) (rV o.a) (rV o.b) .noEntry pM 4))
  | .frnd t o => some (occF t (v2 (0x09C + tyF t) o pR (fLat t)))
  | .fcmpEq t o => some (chk (tyF t ≤ 1) (pcmp (0x0A0 + tyF t) o 4))
  | .fcmpNe t o => some (chk (tyF t ≤ 1) (pcmp (0x0A2 + tyF t) o 4))
  | .fcmpLt t o => some (chk (tyF t ≤ 1) (pcmp (0x0A4 + tyF t) o 4))
  | .fcmpLe t o => some (chk (tyF t ≤ 1) (pcmp (0x0A6 + tyF t) o 4))
  | .fcmpUn t o => some (chk (tyF t ≤ 1) (pcmp (0x0A8 + tyF t) o 4))
  | .fclass t o => some (chk (decide (tyF t ≤ 1) && decide (o.b.extractLsb 6 5 ≠ 3))
      (vecRow (0x0AA + tyF t) o (wP o.d) (rV o.a) (imm o.b) .noEntry pM 4))
  | .frcp t o => some (chk (tyF t ≤ 1) (occF t (v2 (0x0B0 + tyFp t) o pRS 8)))
  | .frsq t o => some (chk (tyF t ≤ 1) (occF t (v2 (0x0B2 + tyFp t) o pM 8)))
  | .fsqrt t o => some (chk (tyF t ≤ 1) (occF t (v2 (0x0B4 + tyFp t) o pRS 8)))
  | .fdiv t o => some (chk (tyF t ≤ 1) (occF t (v3 (0x0B6 + tyFp t) o pRS 8)))
  | .fexp2 o => some (v2 0x0B8 o pS 8)
  | .flog2 o => some (v2 0x0B9 o pM 8)
  | .fsin o => some (v2 0x0BA o pM 8)
  | .fcos o => some (v2 0x0BB o pM 8)
  | .ftanh o => some (v2 0x0BC o pM 8)
  | .cvt c o => some (if narrowing c then v3 (0x0C0 + cvtTy c) o (cvtPfx c) 4 else v2 (0x0C0 + cvtTy c) o (cvtPfx c) 4)
  | .cvts c o => some (chk (litOk o.lit (cvtsOk c)) (withExtra
      (match o.lit with
       | some l => ⟨.v, (l.extractLsb 6 0).toNat, true, false⟩ :: (if cvtsTy c < 3 then [rV o.d] else [])
       | none => [])
      (vc (0x0D4 + cvtsTy c) o (if cvtsTy c < 3 then rV o.b else z o.b) pRS)))
  | .sclSc8F32 o => some (v3 0x0DA o pM 4)
  | .kqdec o => some (v3 0x0DB o pM 4)
  | .dot c o => some (chk (litOk o.lit (dotOk (dotScaled c)) && (c ≠ .kq8 || decide (o.b.toNat + 3 ≤ 127)))
      (withExtra (rV o.d :: dotExtra c o) (vc (0x0E0 + dotTy c) o (rV o.b) pRS4)))
  | .dot8 x y o => some (chk (litOk o.lit (dotOk false))
      (withExtra [rV o.d] (vc (0x0E5 + 2 * tyS x + tyS y) o (rV o.b) pS4)))
  | .dot4 x y o => some (chk (litOk o.lit (dotOk false))
      (withExtra [rV o.d] (vc (0x0E9 + 2 * tyS x + tyS y) o (rV o.b) pS4)))
  | .shfl o => some (v3 0x0F0 o pM 8)
  | .shflX o => some (chk (litOk o.lit shufOk) (vecRow 0x0F1 o (wV o.d) (rV o.a) (imm o.b) .optional pM 8))
  | .shflUp o => some (chk (litOk o.lit shufOk) (vecRow 0x0F2 o (wV o.d) (rV o.a) (imm o.b) .optional pM 8))
  | .shflDn o => some (chk (litOk o.lit shufOk) (vecRow 0x0F3 o (wV o.d) (rV o.a) (imm o.b) .optional pM 8))
  | .bcast o => some (chk (litOk o.lit shufOk) (vecRow 0x0F4 o (wV o.d) (rV o.a) (imm o.b) .optional pM 8))
  | .redux c o => some (v2 (0x0F5 + reduxTy c) o (if c = .addF32 then pRS else pM) 8)
  | .vote c o => some (v2 (0x0FA + voteTy c) o pM 8)
  | .perm o => some (v3 0x0FD o pM 8)
  | .fctlRd o => some (vecRow 0x0FE o (wV o.d) (z o.a) (z o.b) .noEntry pM 1)
  | .fctlWr o => some (vecRow 0x0FF o (z o.d) (if o.lit.isSome then z o.a else rV o.a) (z o.b) .optional
      ⟨true, false, false, false, false⟩ 1)
  | .uadd o => some (uni3 0x100 o 1)
  | .usub o => some (uni3 0x101 o 1)
  | .umul o => some (uni3 0x102 o 4)
  | .umulhi t o => some (uni3 (0x103 + tyS t) o 4)
  | .umin t o => some (uni3 (0x105 + tyS t) o 1)
  | .umax t o => some (uni3 (0x107 + tyS t) o 1)
  | .uand o => some (uni3 0x109 o 1)
  | .uor o => some (uni3 0x10A o 1)
  | .uxor o => some (uni3 0x10B o 1)
  | .ushl o => some (uni3 0x10C o 1)
  | .ushr t o => some (uni3 (0x10D + (1 - tyS t)) o 1)
  | .umov o => some (chk o.lit.isNone (uni2 0x10F o 1))
  | .umovImm o => some (chk o.lit.isSome (gRow 0x10F .uni o ([wS o.d, z o.a] ++ orLit o (z o.b)) .optional 1 none))
  | .movl o => some (chk (decide (o.a.toNat < 32)) (gRow 0x110 .uni o [wS o.d, imm o.a, z o.b] .noEntry 1 none))
  | .ulane o => some (gRow 0x111 .uni o ([wS o.d, rV o.a] ++ orLit o (rS o.b)) .optional 4 none)
  | .ucmpEq o => some (uni3 0x112 o 1)
  | .ucmpNe o => some (uni3 0x113 o 1)
  | .ucmpLt t o => some (uni3 (0x114 + tyS t) o 1)
  | .ucmpLe t o => some (uni3 (0x116 + tyS t) o 1)
  | .upopc o => some (uni2 0x118 o 2)
  | .uclz o => some (uni2 0x119 o 2)
  | .ldG t b o => some (mRow (0x120 + 2 * memTy t + baseBit b) o (wV o.d) (baseFld b o) 0)
  | .ldGN64X2 b o => some (mRow (0x12E + baseBit b) o (wVP o.d) (baseFld b o) 0)
  | .stG t b o => some (mRow (0x130 + 2 * stTy t + baseBit b) o (rV o.d) (baseFld b o) 2)
  | .stGN64X2 b o => some (mRow (0x138 + baseBit b) o (rVP o.d) (baseFld b o) 2)
  | .ldo t o => some (atRow (0x13A + tyNW t) o (wV o.d) 0 (o.order = .rlx || o.order = .acq))
  | .sto t o => some (atRow (0x13C + tyNW t) o (rV o.d) 2 (o.order = .rlx || o.order = .rel))
  | .fence o => some (nRow 0x13E .mem false o (decide (o.imm.toNat < 15)) 0)
  | .fenceScSys o => some (nRow 0x13F .mem false o (decide (o.imm = 0)) 0)
  | .ldS t o => some (mRow (0x140 + memTy t) o (wV o.d) (rV o.a) 1)
  | .ldSN64X2 o => some (mRow 0x147 o (wVP o.d) (rV o.a) 1)
  | .stS t o => some (mRow (0x148 + stTy t) o (rV o.d) (rV o.a) 2)
  | .stSN64X2 o => some (mRow 0x14C o (rVP o.d) (rV o.a) 2)
  | .ldRN64 o => some (mRow 0x14D o (wV o.d) (rV o.a) 1)
  | .ldRN64X2 o => some (mRow 0x14E o (wVP o.d) (rV o.a) 1)
  | .stRN64 o => some (mRow 0x14F o (rV o.d) (rV o.a) 2)
  | .stRN64X2 o => some (mRow 0x169 o (rVP o.d) (rV o.a) 2)
  | .atomAdd t o => some (atRow (0x150 + (match t with | .n32 => 0 | .n64 => 1 | .f32 => 2)) o (rwV o.d) 2 true)
  | .atomMin t o => some (atRow (0x153 + tyS t) o (rwV o.d) 2 true)
  | .atomMax t o => some (atRow (0x155 + tyS t) o (rwV o.d) 2 true)
  | .atomMaxix o => some (atRow 0x157 o (rwV o.d) 2 true)
  | .atomAnd o => some (atRow 0x158 o (rwV o.d) 2 true)
  | .atomOr o => some (atRow 0x159 o (rwV o.d) 2 true)
  | .atomXor o => some (atRow 0x15A o (rwV o.d) 2 true)
  | .atomXchg o => some (atRow 0x15B o (rwV o.d) 2 true)
  | .cas t o => some (withExtra [wV o.d] (atRow (0x15C + tyNW t) o (rVP o.d) 2 true))
  | .redAddF32 o => some (atRow 0x15E o (rV o.d) 2 (o.scope = .dev && o.order = .rlx))
  | .redAddN64 o => some (atRow 0x15F o (rV o.d) 2 (o.scope = .dev && o.order = .rlx))
  | .redFlush o => some (gRow 0x160 .mem o [z o.d, z o.a, z o.b] .noEntry 0 (some 2))
  | .ringClaim o => some (ringRow 0x161 o [wS o.d, z o.a, imm o.b])
  | .ringPost o => some (ringRow 0x162 o [z o.d, rS o.a, imm o.b])
  | .ringAwait o => some (ringRow 0x163 o [wS o.d, rS o.a, imm o.b])
  | .ringRel o => some (ringRow 0x164 o [z o.d, rS o.a, imm o.b])
  | .send o => some (ringRow 0x165 o [z o.d, rV o.a, imm o.b])
  | .recv o => some (ringRow 0x166 o [wV o.d, z o.a, imm o.b])
  | .uld o => some (mRow 0x167 o (wS o.d) (rS o.a) 0)
  | .ust o => some (mRow 0x168 o (rS o.d) (rS o.a) 2)
  | .bra o => some (bRow 0x170 .sys o)
  | .braAny o => some (bpRow 0x171 o)
  | .braAll o => some (bpRow 0x172 o)
  | .braNz o => some (bsRow 0x173 o)
  | .braZ o => some (bsRow 0x174 o)
  | .brx o => some (ctlRow 0x175 o [z o.d, if o.b = 0 then rV o.a else if o.b = 1 then rS o.a else z o.a, imm o.b]
      (decide (o.b.toNat ≤ 2)))
  | .call o => some (bRow 0x176 .sys o)
  | .callx o => some (ctlRow 0x177 o [z o.d, if o.b = 0 then rV o.a else if o.b = 1 then rS o.a else z o.a, imm o.b]
      (decide (o.b.toNat ≤ 2)))
  | .ret o => some (nRow 0x178 .sys true o (decide (o.imm = 0)) 1)
  | .fcall o => some (bRow 0x179 .sys o)
  | .fcallP o => some (bsRow 0x17A o)
  | .split o => some (plain 0x17B .sys true o.st (o.p ++ o.j ++ o.off)
      [⟨.p, o.p.toNat, true, false⟩, ⟨.j, o.j.toNat, false, true⟩] true 1 none)
  | .join o => some (ctlRow 0x17C o [wJ o.d, z o.a, z o.b] true)
  | .barSync o => some (nRow 0x17D .sys true o (decide (o.imm.toNat < 16)) 1)
  | .yield o => some (nRow 0x17E .sys true o (decide (o.imm = 0)) 1)
  | .exit o => some (nRow 0x17F .sys true o (decide (o.imm = 0)) 1)
  | .meet o => some (chk o.lit.isSome (gRow 0x180 .sys o ([z o.d, z o.a] ++ orLit o (z o.b)) .optional 1 none))
  | .meetV o => some (chk o.lit.isNone (sysRow 0x180 o [z o.d, rV o.a, z o.b] 1 none))
  | .barArrive o => some (sysRow 0x181 o [wS o.d, rS o.a, z o.b] 0 (some 4))
  | .barWait o => some (sysRow 0x182 o [z o.d, rS o.a, rS o.b] 0 none)
  | .barExpect o => some (gRow 0x183 .sys o ([z o.d, rS o.a] ++ orLit o (rS o.b)) .optional 0 (some 4))
  | .trap o => some (nRow 0x184 .sys false o true 1)
  | .brk o => some (nRow 0x185 .sys false o true 1)
  | .rng o => some (sysRow 0x186 o [wV o.d, rV o.a, z o.b] 4 none)
  | .icPf o => some (chk (decide (o.b ≠ 0)) (sysRow 0x187 o [z o.d, rS o.a, imm o.b] 1 none))
  | .icPin o => some (chk (decide (o.b ≠ 0)) (sysRow 0x188 o [z o.d, rS o.a, imm o.b] 1 none))
  | .icUnpin o => some (chk (decide (o.b ≠ 0)) (sysRow 0x189 o [z o.d, rS o.a, imm o.b] 1 none))
  | .nop o => some (nRow 0x18A .sys false o (decide (o.imm = 0)) 1)
  | .forkStat o => some (chk (decide (o.b.toNat ≤ 3)) (sysRow 0x18B o [wS o.d, z o.a, imm o.b] 4 none))
  | .forkKill o => some (chk (decide (o.b.toNat ≤ 1)) (sysRow 0x18C o [z o.d, z o.a, imm o.b] 1 none))
  | .forkClr o => some (chk (decide (o.b.toNat ≤ 1))
      (sysRow 0x18D o [z o.d, if o.b = 1 then rS o.a else z o.a, imm o.b] 1 none))
  | .nlaunch o => some (sysRow 0x190 o [wS o.d, rS o.a, z o.b] 0 (some 5))
  | .nlaunchSeq o => some (sysRow 0x191 o [wS o.d, rS o.a, z o.b] 0 (some 5))
  | .nlaunchDet o => some (sysRow 0x192 o [wS o.d, rS o.a, z o.b] 0 (some 5))
  | .ldf o => some (fRow 0x193 o (wV o.d))
  | .stf o => some (fRow 0x194 o (rV o.d))
  | .atomf o => some (fRow 0x195 o (rwV o.d))
  | .movd o => some (sysRow 0x196 o [wS o.d, z o.a, dsp o.b] 4 none)
  | .futNew o => some (sysRow 0x197 o [z o.d, rS o.a, z o.b] 0 (some 5))
  | .futResolve o => some (gRow 0x198 .sys o ([z o.d, rS o.a] ++ orLit o (rS o.b)) .optional 0 (some 5))
  | .futAwait o => some (sysRow 0x199 o [wS o.d, rS o.a, z o.b] 0 (some 5))
  | .futPoll o => some (sysRow 0x19A o [wS o.d, rS o.a, z o.b] 0 (some 5))
  | .futFail o => some (gRow 0x19B .sys o ([z o.d, rS o.a] ++ orLit o (rS o.b)) .optional 0 (some 5))
  | .contSave o => some (sysRow 0x19C o [wS o.d, rS o.a, rS o.b] 0 (some 5))
  | .contWake o => some (sysRow 0x19D o [wS o.d, rS o.a, z o.b] 0 (some 5))
  | .mxIssue o => some (mtxRow 0x1A0 o [wS o.d, rS o.a, rS o.b] (some 3))
  | .mxPop o => some (mtxRow 0x1A1 o [wV o.d, z o.a, z o.b] (some 3))
  | .mxZero o => some (mtxRow 0x1A2 o [z o.d, z o.a, acc o.b] (some 3))
  | .mxLoadacc o => some (mtxRow 0x1A3 o [acc o.d, rS o.a, z o.b] (some 3))
  | .mxStacc o => some (mtxRow 0x1A4 o [acc o.d, rS o.a, z o.b] (some 3))
  | .mxFreeze o => some (mtxRow 0x1A5 o [z o.d, z o.a, z o.b] none)
  | .mxThaw o => some (mtxRow 0x1A6 o [z o.d, z o.a, z o.b] none)
  | .mxDrain o => some (mtxRow 0x1A7 o [z o.d, rS o.a, z o.b] none)
  | .mxRestore o => some (mtxRow 0x1A8 o [z o.d, rS o.a, z o.b] none)
  | .mxFence o => some (mtxRow 0x1A9 o [z o.d, z o.a, z o.b] none)
  | .mxStat o => some (chk (decide (o.b.toNat ≤ 3)) (mtxRow 0x1AA o [wS o.d, z o.a, imm o.b] (some 3)))
  | .mxWait o => some (mtxRow 0x1AB o [z o.d, rS o.a, z o.b] none)
  | .aAdd o => some (eng3 0x1B0 o)
  | .aSub o => some (eng3 0x1B1 o)
  | .aMul o => some (eng3 0x1B2 o)
  | .aAnd o => some (eng3 0x1B3 o)
  | .aOr o => some (eng3 0x1B4 o)
  | .aXor o => some (eng3 0x1B5 o)
  | .aShl o => some (eng3 0x1B6 o)
  | .aShr o => some (eng3 0x1B7 o)
  | .aSra o => some (eng3 0x1B8 o)
  | .aMin o => some (eng3 0x1B9 o)
  | .aMax o => some (eng3 0x1BA o)
  | .aMov o => some (chk o.lit.isNone (engRow 0x1BB o [wX o.d, rX o.a, z o.b]))
  | .aMovImm o => some (chk o.lit.isSome (gRow 0x1BB .eng o ([wX o.d, z o.a] ++ orLit o (z o.b)) .optional 0 none))
  | .aLdx t o => some (eng3 (0x1BC + tyNW t) o)
  | .aArg o => some (engRow 0x1BE o [wX o.d, z o.a, imm o.b])
  | .aNop o => some (engRow 0x1BF o [z o.d, z o.a, z o.b])
  | .aB o => some (bRow 0x1C0 .eng o)
  | .aBeq o => some (abRow 0x1C1 o)
  | .aBne o => some (abRow 0x1C2 o)
  | .aBlt o => some (abRow 0x1C3 o)
  | .aBge o => some (abRow 0x1C4 o)
  | .aLoop o => some (abRow 0x1C5 o)
  | .aWait o => some (nRow 0x1C6 .eng true o (decide (o.imm = 0)) 0)
  | .aHalt o => some (nRow 0x1C7 .eng true o (decide (o.imm = 0)) 0)
  | .aTrap o => some (nRow 0x1C8 .eng true o true 0)
  | .tdSet o => some (gRow 0x1D0 .eng o ([tD o.d, rX o.a] ++ orLit o (rX o.b)) .optional 0 none)
  | .tdDim o => some (engRow 0x1D1 o [tD o.d, rX o.a, z o.b])
  | .tdCoord o => some (gRow 0x1D2 .eng o ([tD o.d, rX o.a] ++ orLit o (rX o.b)) .optional 0 none)
  | .tdStep o => some (gRow 0x1D3 .eng o ([tD o.d, rX o.a] ++ orLit o (rX o.b)) .optional 0 none)
  | .tdClr o => some (engRow 0x1D4 o [tD o.d, z o.a, z o.b])
  | .mvBytes o => some (engRow 0x1D5 o [rX o.d, rX o.a, rX o.b])
  | .mvTile o => some (engRow 0x1D6 o [tD o.d, tD o.a, rX o.b])
  | .mvTilet o => some (engRow 0x1D7 o [tD o.d, tD o.a, rX o.b])
  | .mvReblk o => some (engRow 0x1D8 o [tD o.d, tD o.a, rX o.b])
  | .mvMc o => some (engRow 0x1D9 o [rX o.d, rX o.a, rX o.b])
  | .aPost o => some (chk (litOk o.lit fun l => decide (l.toNat ≤ 255))
      (gRow 0x1DA .eng o [z o.d, rX o.a, imm o.b] .optional 0 none))
  | .aExpect o => some (gRow 0x1DB .eng o ([z o.d, rX o.a] ++ orLit o (rX o.b)) .optional 0 none)
  | .aArrive o => some (engRow 0x1DC o [wX o.d, rX o.a, z o.b])
  | .aResolve o => some (engRow 0x1DD o [z o.d, rX o.a, rX o.b])
  | .awlGo o => some (chk (decide (o.b.toNat < 8)) (gRow 0x1E0 .awl o [wS o.d, rS o.a, imm o.b] .noEntry 0 (some 4)))
  | .awlStat o => some (chk (decide (o.a.toNat ≤ 2) && decide (o.b.toNat < 8))
      (gRow 0x1E1 .awl o [wS o.d, imm o.a, imm o.b] .noEntry 0 (some 4)))
  | .awlStop o => some (chk (decide (o.b.toNat < 8)) (gRow 0x1E2 .awl o [z o.d, z o.a, imm o.b] .noEntry 0 (some 4)))
  | .coldReset | .warmReset | .registerWrite | .doorbellWrite | .queueEnable | .queueDisable
  | .queueReset | .verdictReplay | .verdictRefuse | .softPreemption | .softStopComplete
  | .hardPreemption | .resume | .saddlebagSave | .quantumExpiry | .partitionEnable
  | .partitionReset | .partitionDisable | .vectorMaskClear | .powerCapWrite | .powerCapStep
  | .thermalWarning | .voltageDroop | .droopEnd | .criticalTrip | .ptpPortWrite | .ptpLock
  | .ptpHoldover | .flowEnable | .flowDisable | .frameArrival | .hostWrite | .hostRead
  | .cinchAccess | .cinchPortFail | .launch | .gang | .gangReserve | .seedPush | .seedPop
  | .seedFork | .tlbinv | .nopPacket | .completionRecordWrite | .gridCompletion
  | .blockDispatch | .stealRequest | .watchdog | .drainWatchdog | .faultRecord
  | .blockRelaunch | .clauseFetch | .l1LineExpiry | .loadComplete | .variableLatencyCompletion
  | .storeQueueLeave | .homeSliceService | .waiterResend | .meshRetry | .injectionBar
  | .windowApply | .forkResolution | .programFetch | .recordStart | .lockEntry
  | .recordComplete | .channelHalt | .mcReserve | .matrixOperationStart | .gateObserve
  | .matrixLockEntry | .kChunk | .matrixCompletion | .matrixFreeze | .listWalk | .resumption
  | .debugRead | .unassignedEntry _ | .partitionResetComplete | .writeDelivery
  | .thermalWarningEnd => none

end Sys2Proof
end

