-- ==== Sys2Proof/Machine/Operands.lean ====
section
/-!
DEFINITION. Operand forms: packed elements (R17), literals (R35), address offsets (R210), lane sets (R27).
-/
namespace Sys2Proof

def IntTy.width : IntTy → Nat
  | .i8 | .n8 => 8 | .i16 | .n16 => 16 | .i32 | .n32 => 32 | .i64 | .n64 => 64
def IntTy.signed : IntTy → Bool
  | .i8 | .i16 | .i32 | .i64 => true | _ => false
def FTy.width : FTy → Nat
  | .f64 => 64 | .f32 => 32 | .f16 => 16 | .bf16 => 16

def MemTy.bytes : MemTy → Nat
  | .n8 | .i8 => 1 | .n16 | .i16 => 2 | .n32 | .i32 => 4 | .n64 => 8
def MemTy.signed : MemTy → Bool
  | .i8 | .i16 | .i32 => true | _ => false
def StTy.bytes : StTy → Nat
  | .n8 => 1 | .n16 => 2 | .n32 => 4 | .n64 => 8
def NW.bytes : NW → Nat
  | .n32 => 4 | .n64 => 8

/-! Orders and scopes (R107, R215). -/

def Order.acquires : Order → Bool
  | .acq | .acqrel => true
  | _ => false
def Order.releases : Order → Bool
  | .rel | .acqrel => true
  | _ => false
/-- .blk or wider. -/
def Scope.atBlk : Scope → Bool
  | .wave => false
  | _ => true
/-- .dev or .sys. -/
def Scope.wide : Scope → Bool
  | .dev | .sys => true
  | _ => false

end Sys2Proof

namespace Sys2Proof.Machine

/-- Element `i` of width `w` (R17). -/
def elem (w : Nat) (x : Word) (i : Nat) : Nat := x.toNat / 2 ^ (i * w) % 2 ^ w

/-- All elements of a register, lowest first. -/
def elems (w : Nat) (x : Word) : List Nat := (List.range (64 / w)).map (elem w x)

/-- A register from its elements, lowest first; elements are taken modulo `2^w` and missing ones are 0. -/
def packElems (w : Nat) (l : List Nat) : Word := BitVec.ofNat 64 (l.foldr (fun e acc => e % 2 ^ w + 2 ^ w * acc) 0)

/-- Replace element `i`. -/
def setElem (w : Nat) (x : Word) (i e : Nat) : Word :=
  packElems w (((List.range (64 / w)).map fun k => if k = i then e else elem w x k))

/-- The integer an element stands for (R58). -/
def toI (signed : Bool) (w x : Nat) : Int := if signed && decide (2 ^ (w - 1) ≤ x) then (x : Int) - 2 ^ w else x

/-- A literal extended to 64 bits (R35). -/
def litSext (l : BitVec 32) : Word := l.signExtend 64
def litZext (l : BitVec 32) : Word := l.zeroExtend 64
def litExt (signed : Bool) (l : BitVec 32) : Word := if signed then litSext l else litZext l

/-- A literal as an integer operand of type `t`, standing for every element of width `w` (R35). -/
def litInt (signed : Bool) (w : Nat) (l : BitVec 32) : Word :=
  packElems w (List.replicate (64 / w) ((litExt signed l).toNat % 2 ^ w))

/-- A literal as a floating-point operand: the element's pattern, or a binary32 value widened for `.f64` (R35); bits
above a `.f16` or `.bf16` element, which R35 has 0, are ignored. (Log entry 36, DEDUCED.) -/
def litFloat (t : FTy) (l : BitVec 32) : Word := match t with
  | .f64 => BitVec.ofNat 64 (fpExact fmtF64 (fpDecode fmtF32 l.toNat))
  | t => packElems t.width (List.replicate (64 / t.width) (l.toNat % 2 ^ t.width))

/-- The integer `x` as an offset to a 64-bit address. -/
def addOff (a : Word) (off : Int) : Word := a + BitVec.ofInt 64 off

/-- The offset of an M-format word for an access of `n` bytes (R210). -/
def mOffset (o : OpsG) (n : Nat) : Int := match o.lit with
  | some l => l.toInt
  | none => o.b.toInt * n

/-- Lane `l` of a set. -/
def inLanes (m : Lanes) (l : Nat) : Bool := m.getLsbD l

/-- The lanes of a set in ascending order. -/
def laneList (m : Lanes) : List Nat := (List.range 64).filter (inLanes m)

def laneBit (l : Nat) : Lanes := BitVec.ofNat 64 (2 ^ l)

/-- The set of the listed lanes. -/
def lanesOf (l : List Nat) : Lanes := l.foldl (fun m i => m ||| laneBit i) 0

/-- Bytes of a value, lowest first (R2). -/
def bytesOf (n : Nat) (x : Nat) : List Byte := (List.range n).map fun i => BitVec.ofNat 8 (x / 2 ^ (8 * i))

/-- A value from its bytes (R2). -/
def ofBytes (l : List Byte) : Nat := l.foldr (fun b acc => b.toNat + 256 * acc) 0

/-- Bits [hi:lo] of a word as a number. -/
def bitsOf (x : Word) (hi lo : Nat) : Nat := x.toNat / 2 ^ lo % 2 ^ (hi - lo + 1)

end Sys2Proof.Machine
end

