-- ==== Sys2Proof/Machine/Flags.lean ====
section
/-!
DEFINITION. Values that instructions compute from their operands alone: wrapping and saturation, comparisons, carries,
bit counts and fields (R127 to R147), the FP controls and the packed floating-point operations (R148 to R162).
-/
namespace Sys2Proof.Machine

/-! ### Integers (R127 to R143) -/

/-- The exact integer modulo `2^w` (R127 `wrap`). -/
def wrapI (w : Nat) (x : Int) : Nat := (x % ((2 ^ w : Nat) : Int)).toNat

/-- Clamp into a type's range (`satur`). -/
def saturI (signed : Bool) (w : Nat) (x : Int) : Nat :=
  let hi : Int := if signed then 2 ^ (w - 1) - 1 else 2 ^ w - 1
  let lo : Int := if signed then -(2 ^ (w - 1)) else 0
  wrapI w (max lo (min hi x))

/-- `fin(x, T)` of R127. -/
def finI (t : IntTy) (sat : Bool) (x : Int) : Nat := if sat then saturI t.signed t.width x else wrapI t.width x

/-- Apply an exact integer function to matching elements and finish each (R128 to R131). -/
def map2I (t : IntTy) (sat : Bool) (f : Int → Int → Int) (a b : Word) : Word :=
  packElems t.width (List.zipWith (fun x y => finI t sat (f (toI t.signed t.width x) (toI t.signed t.width y)))
    (elems t.width a) (elems t.width b))

def map1I (t : IntTy) (sat : Bool) (f : Int → Int) (a : Word) : Word :=
  packElems t.width ((elems t.width a).map fun x => finI t sat (f (toI t.signed t.width x)))

/-- Bits [2w−1:w] of the exact product (R129). -/
def mulhiI (t : IntTy) (a b : Word) : Word := map2I t false (fun x y => x * y / ((2 ^ t.width : Nat) : Int)) a b

/-- MAD: `a * b + c`, finished once (R130). -/
def madI (t : IntTy) (sat : Bool) (a b c : Word) : Word :=
  packElems t.width ((List.range (64 / t.width)).map fun i =>
    finI t sat (toI t.signed t.width (elem t.width a i) * toI t.signed t.width (elem t.width b i)
      + toI t.signed t.width (elem t.width c i)))

/-- SEL bit by bit (R132). -/
def selW (a b c : Word) : Word := (a &&& c) ||| (b &&& ~~~c)

def popcN (w x : Nat) : Nat := ((List.range w).filter fun i => x / 2 ^ i % 2 = 1).length
def clzN (w x : Nat) : Nat := if x = 0 then w else w - 1 - Nat.log2 x
def brevN (w x : Nat) : Nat := (List.range w).foldl (fun r i => r + x / 2 ^ i % 2 * 2 ^ (w - 1 - i)) 0
def map1N (w : Nat) (f : Nat → Nat) (a : Word) : Word := packElems w ((elems w a).map f)
def map2N (w : Nat) (f : Nat → Nat → Nat) (a b : Word) : Word := packElems w (List.zipWith f (elems w a) (elems w b))

/-- Shifts by the matching element's unsigned value (R134). -/
def shlN (w x k : Nat) : Nat := if w ≤ k then 0 else x * 2 ^ k % 2 ^ w
def shrT (t : IntTy) (x k : Nat) : Nat :=
  wrapI t.width (toI t.signed t.width x / ((2 ^ (min k t.width) : Nat) : Int))

/-- The field a control element names: position and length, none when empty (R135). -/
def fieldOf (w c : Nat) : Option (Nat × Nat) :=
  let pos := c % 256
  let len := c / 256 % 256
  if len = 0 || w ≤ pos then none else some (pos, min len (w - pos))
def bfeN (t : IntTy) (a c : Nat) : Nat := match fieldOf t.width c with
  | none => 0
  | some (pos, n) => wrapI t.width (toI t.signed n (a / 2 ^ pos % 2 ^ n))
def bfiN (w a c d : Nat) : Nat := match fieldOf w c with
  | none => d
  | some (pos, n) => d - d / 2 ^ pos % 2 ^ n * 2 ^ pos + a % 2 ^ n * 2 ^ pos

/-- Integer relations on element 0 (R136). -/
def cmpEqI (t : IntTy) (a b : Word) : Bool := elem t.width a 0 = elem t.width b 0
def cmpLtI (t : IntTy) (a b : Word) : Bool :=
  decide (toI t.signed t.width (elem t.width a 0) < toI t.signed t.width (elem t.width b 0))
def cmpLeI (t : IntTy) (a b : Word) : Bool := !cmpLtI t b a

/-- Carry and borrow of a 64-bit sum and difference (R139). -/
def carryW (a b : Word) (cin : Nat) : Word := if 2 ^ 64 ≤ a.toNat + b.toNat + cin then 1 else 0
def borrowW (a b : Word) (cin : Nat) : Word := if a.toNat < b.toNat + cin then 1 else 0

/-- WID: the elements in bits [31:0], widened (R141). -/
def widW (t : IntTy) (a : Word) : Word :=
  let h := t.width / 2
  packElems t.width ((List.range (64 / t.width)).map fun i => wrapI t.width (toI t.signed h (elem h a i)))

/-- NAR: elements of width 2w of va then vb, narrowed (R142). -/
def narW (t : IntTy) (sat : Bool) (a b : Word) : Word :=
  let d := 2 * t.width
  packElems t.width ((elems d a ++ elems d b).map fun x => finI t sat (toI t.signed d x))

/-- LEA (R143). -/
def leaW (k : Nat) (a b : Word) : Word := a + b * BitVec.ofNat 64 (2 ^ k)

/-- High half of a 64-bit product (R145). -/
def umulhiW (t : Sgn) (a b : Word) : Word := match t with
  | .i => BitVec.ofInt 64 (a.toInt * b.toInt / ((2 ^ 64 : Nat) : Int))
  | .n => BitVec.ofNat 64 (a.toNat * b.toNat / 2 ^ 64)
def uminW (t : Sgn) (a b : Word) : Word := match t with
  | .i => if a.toInt ≤ b.toInt then a else b
  | .n => if a.toNat ≤ b.toNat then a else b
def umaxW (t : Sgn) (a b : Word) : Word := match t with
  | .i => if a.toInt ≤ b.toInt then b else a
  | .n => if a.toNat ≤ b.toNat then b else a
def ushrW (t : Sgn) (a b : Word) : Word := match t with
  | .i => a.sshiftRight (min b.toNat 64)
  | .n => if 64 ≤ b.toNat then 0 else a >>> b.toNat
def ushlW (a b : Word) : Word := if 64 ≤ b.toNat then 0 else a <<< b.toNat
def ultW (t : Sgn) (a b : Word) : Bool := match t with
  | .i => decide (a.toInt < b.toInt)
  | .n => decide (a.toNat < b.toNat)
def boolW (b : Bool) : Word := if b then 1 else 0

/-- PERM (R167). -/
def permW (a b : Word) : Word := packElems 8 ((elems 8 b).map fun k => elem 8 a (k % 8))

/-- RNG's mixer (R188). -/
def rngMix (z : Word) : Word :=
  let z := (z ^^^ (z >>> 29)) * 0x8F3A61C5D29B4E77#64
  let z := (z ^^^ (z >>> 31)) * 0xE4C137A95B06D8F3#64
  z ^^^ (z >>> 33)

/-! ### Floating point (R148 to R162) -/

/-- The controls of one lane's operation: fctl (R24), and the prefix's `rnd=` and `sat` (R54). -/
def fpCtl (fctl : Word) (p : Option Pfx) : FpCtl where
  rm  := match p with
    | some q => if q.rnd then q.rm.toNat else fctl.toNat % 4
    | none => fctl.toNat % 4
  sat := fctl.getLsbD 2 || (p.map Pfx.sat).getD false
  ftz := fctl.getLsbD 4
  daz := fctl.getLsbD 3

/-- An element read with daz (R148 `rd`). -/
def rdF (f : Fmt) (c : FpCtl) (x : Word) (i : Nat) : FVal := fpRead f c.daz (elem f.w x i)

/-- One exact result per element, rounded once (R150). -/
def mapF (f : Fmt) (g : Nat → Nat) : Word := packElems f.w ((List.range (64 / f.w)).map g)

def addF (f : Fmt) (c : FpCtl) (a b : Word) : Word := mapF f fun i => fpSumWrite f c [rdF f c a i, rdF f c b i]
def subF (f : Fmt) (c : FpCtl) (a b : Word) : Word := mapF f fun i => fpSumWrite f c [rdF f c a i, fpNeg (rdF f c b i)]
def mulF (f : Fmt) (c : FpCtl) (a b : Word) : Word := mapF f fun i => fpWrite f c (fpMul (rdF f c a i) (rdF f c b i))
def fmaF (f : Fmt) (c : FpCtl) (a b d : Word) : Word :=
  mapF f fun i => fpSumWrite f c [fpMul (rdF f c a i) (rdF f c b i), rdF f c d i]
def minF (f : Fmt) (c : FpCtl) (a b : Word) : Word := mapF f fun i => fpExact f (fpMinNum (rdF f c a i) (rdF f c b i))
def maxF (f : Fmt) (c : FpCtl) (a b : Word) : Word := mapF f fun i => fpExact f (fpMaxNum (rdF f c a i) (rdF f c b i))
def rndF (f : Fmt) (c : FpCtl) (a : Word) : Word := mapF f fun i => fpRnd f c (rdF f c a i)

/-- FMAXIX for the forms that keep pairs in one register (R152): value then index, each of half the pair. -/
def maxixF (f : Fmt) (c : FpCtl) (a b : Word) : Word :=
  let pair (x : Word) (k : Nat) : FVal × Nat := (fpRead f c.daz (elem f.w x (2 * k)), elem f.w x (2 * k + 1))
  packElems f.w (((List.range (32 / f.w)).map fun k =>
    let r := pairBetter (pair a k) (pair b k)
    [fpExact f r.1, r.2]).flatten)

/-- FMAXIX.F64: values in the even registers, indices in bits [31:0] of the odd ones (R152). -/
def maxixF64 (c : FpCtl) (a ai b bi : Word) : Word × Word :=
  let r := pairBetter (rdF fmtF64 c a 0, ai.toNat % 2 ^ 32) (rdF fmtF64 c b 0, bi.toNat % 2 ^ 32)
  (BitVec.ofNat 64 (fpExact fmtF64 r.1), BitVec.ofNat 64 r.2)

/-- FCLASS's test of the raw bits (R155). -/
def classF (f : Fmt) (x : Word) (mask : BitVec 7) : Bool :=
  let e := elem f.w x 0
  let mag := e % 2 ^ (f.w - 1)
  let neg := decide (2 ^ (f.w - 1) ≤ e)
  let top := 2 ^ (f.w - 1 - f.frac) - 1
  let cls := if mag / 2 ^ f.frac = top then (if mag % 2 ^ f.frac = 0 then 1 else 0)
    else if mag = 0 then 4 else if mag < 2 ^ f.frac then 3 else 2
  let sign := mask.toNat / 32
  mask.getLsbD cls && (sign = 0 || (sign = 1 && !neg) || (sign = 2 && neg))

def sqrtF (f : Fmt) (c : FpCtl) (a : Word) : Word := mapF f fun i => fpSqrt f c (rdF f c a i)
def divF (f : Fmt) (c : FpCtl) (a b : Word) : Word := mapF f fun i => fpDiv f c (rdF f c a i) (rdF f c b i)
def rcpF (f : Fmt) (c : FpCtl) (a : Word) : Word := mapF f fun i => fpDiv f c (.num false 1 0) (rdF f c a i)
def rsqF (f : Fmt) (c : FpCtl) (a : Word) : Word := mapF f fun i =>
  fpFlush f c.ftz (fpRsqrt f (Config.frsq (BitVec.ofNat 64 (elem f.w a i)) (f.w = 64)).toNat (rdF f c a i))

/-- A bounded binary32 function of each element (R156). -/
def bounded32 (c : FpCtl) (g : Nat → FVal → Nat) (y : BitVec 32 → BitVec 32) (a : Word) : Word :=
  mapF fmtF32 fun i => fpFlush fmtF32 c.ftz (g (y (BitVec.ofNat 32 (elem 32 a i))).toNat (rdF fmtF32 c a i))

/-! ### Conversions (R157 to R160) -/

/-- The formats that daz and ftz act on (R55). -/
def wideFmt (f : Fmt) : Bool := f.w = 64 || f.w = 32 || f.w = 16

def dazFor (f : Fmt) (c : FpCtl) : FpCtl := { c with daz := c.daz && wideFmt f }
def ftzFor (f : Fmt) (c : FpCtl) : FpCtl := { c with ftz := c.ftz && wideFmt f }

/-- A narrowing CVT: all elements of va, then of vb (R157). -/
def narrowF (src dst : Fmt) (c : FpCtl) (a b : Word) : Word :=
  packElems dst.w (((elems src.w a ++ elems src.w b).map fun x =>
    fpNarrow dst (ftzFor dst c) (fpRead src (dazFor src c).daz x)))

/-- A widening CVT: exact (R157); ftz acts on its result when subnormal. -/
def widenF (src dst : Fmt) (c : FpCtl) (a : Word) : Word :=
  packElems dst.w ((List.range (64 / dst.w)).map fun i =>
    fpWrite dst { ftzFor dst c with sat := false } (fpRead src (dazFor src c).daz (elem src.w a i)))

def toIntF (src : Fmt) (signed : Bool) (c : FpCtl) (a : Word) : Word :=
  packElems src.w ((elems src.w a).map fun x => wrapI src.w (fpToInt c signed src.w (fpRead src c.daz x)))
def ofIntF (dst : Fmt) (signed : Bool) (c : FpCtl) (a : Word) : Word :=
  packElems dst.w ((elems dst.w a).map fun x => fpWrite dst { c with sat := false } (fpOfInt (toI signed dst.w x)))

def cvtW (k : CvtForm) (c : FpCtl) (a b : Word) : Word := match k with
  | .f32f64 => narrowF fmtF64 fmtF32 c a b
  | .f16f32 => narrowF fmtF32 fmtF16 c a b
  | .bf16f32 => narrowF fmtF32 fmtBF16 c a b
  | .e4m3f32 => narrowF fmtF32 fmtE4M3 c a b
  | .e5m2f32 => narrowF fmtF32 fmtE5M2 c a b
  | .e2m1f32 => narrowF fmtF32 fmtE2M1 c a b
  | .f64f32 => widenF fmtF32 fmtF64 c a
  | .f32f16 => widenF fmtF16 fmtF32 c a
  | .f32bf16 => widenF fmtBF16 fmtF32 c a
  | .f32e4m3 => widenF fmtE4M3 fmtF32 c a
  | .f32e5m2 => widenF fmtE5M2 fmtF32 c a
  | .f32e2m1 => widenF fmtE2M1 fmtF32 c a
  | .i32f32 => toIntF fmtF32 true c a
  | .n32f32 => toIntF fmtF32 false c a
  | .i64f64 => toIntF fmtF64 true c a
  | .n64f64 => toIntF fmtF64 false c a
  | .f32i32 => ofIntF fmtF32 true c a
  | .f32n32 => ofIntF fmtF32 false c a
  | .f64i64 => ofIntF fmtF64 true c a
  | .f64n64 => ofIntF fmtF64 false c a

/-- The narrow format of a CVTS form, and whether it narrows (R158). -/
def cvtsFmt : CvtsForm → Fmt × Bool
  | .e4m3f32 => (fmtE4M3, true) | .e5m2f32 => (fmtE5M2, true) | .e2m1f32 => (fmtE2M1, true)
  | .f32e4m3 => (fmtE4M3, false) | .f32e5m2 => (fmtE5M2, false) | .f32e2m1 => (fmtE2M1, false)

/-- CVTS (R158): `ctl` is the control word, `sc` the scale register, `old` vd before. ftz never acts. -/
def cvtsW (k : CvtsForm) (c : FpCtl) (ctl : BitVec 32) (a b sc old : Word) : Word :=
  let f := (cvtsFmt k).1
  let q := (ctl.extractLsb 12 10).toNat
  let e := elem 8 sc (ctl.extractLsb 9 7).toNat
  let c := { c with ftz := false }
  if (cvtsFmt k).2 then
    (List.range 4).foldl (fun r j =>
      let x := rdF fmtF32 c (if j < 2 then a else b) (j % 2)
      let y := match scaleExp e with
        | none => .nan
        | some s => fpScale x (-s)
      setElem f.w r (4 * q + j) (fpNarrow f c y)) old
  else
    packElems 32 ((List.range 2).map fun j => fpWrite fmtF32 c (fpScaled (fpDecode f (elem f.w a (2 * q + j))) e))

/-- The smallest E in 0 to 254 with `m ≤ T × 2^(E−127)`, or 254 (R159). -/
def scaleSearch (m t : FVal) : Nat :=
  ((List.range 255).find? fun (e : Nat) => !fpLt (fpScale t ((e : Int) - 127)) m).getD 254

def fpAbs : FVal → FVal
  | .nan => .nan | .inf _ => .inf false | .num _ m e => .num false m e

/-- SCL's scale byte (R159): of a pair of which one is NaN the larger is taken to be NaN. (Log entry 40, DEDUCED.) -/
def sclW (c : FpCtl) (a b : Word) : Word :=
  let x := fpAbs (rdF fmtF32 c a 0)
  let y := fpAbs (rdF fmtF32 c a 1)
  let m := if fpIsNan x || fpIsNan y then FVal.nan else if fpLt x y then y else x
  let t := fpDecode fmtF32 (elem 32 b 0)
  let bad (v : FVal) : Bool := fpIsNan v || fpIsInf true v || fpIsInf false v
  let e := if bad m || bad t || !fpLt (.num false 0 0) t then 0xFF else scaleSearch m t
  packElems 8 (List.replicate 8 e)

/-- KQDEC (R160). -/
def kqdecW (a b : Word) : Word :=
  let ws := kq8 (elem 16 a (b.toNat % 4))
  packElems 16 (((if b.getLsbD 2 then ws.drop 4 else ws).take 4).map (fpExact fmtBF16))

/-! ### Dot products (R161, R162) -/

/-- Finish a floating dot: exact sum of products and accumulator element, rounded once. -/
def dotFinish (c : FpCtl) (ctl : BitVec 32) (prods : List FVal) (third old : Word) : Word :=
  let ae := if ctl.getLsbD 20 then 1 else 0
  setElem 32 old ae (fpSumWrite fmtF32 c (prods ++ [rdF fmtF32 c third ae]))

def dotFmt : DotForm → Fmt
  | .f16 => fmtF16 | .bf16 => fmtBF16 | .e4m3 => fmtE4M3 | .e5m2 => fmtE5M2 | .e2m1 => fmtE2M1 | .kq8 => fmtE4M3

/-- The scale bytes a control word selects from the two scale registers (R161). -/
def dotScales (ctl : BitVec 32) (sa sb : Word) : Nat × Nat :=
  (elem 8 sa (ctl.extractLsb 9 7).toNat, elem 8 sb (ctl.extractLsb 19 17).toNat)

/-- The exact products of a DOT form but KQ8 (R61, R162). -/
def dotProducts (k : DotForm) (c : FpCtl) (ctl : BitVec 32) (a b sa sb : Word) : List FVal :=
  let f := dotFmt k
  let c := dazFor f c
  (List.range (64 / f.w)).map fun i =>
    match k with
    | .f16 | .bf16 => fpMul (rdF f c a i) (rdF f c b i)
    | _ => fpMul (fpScaled (fpDecode f (elem f.w a i)) (dotScales ctl sa sb).1)
        (fpScaled (fpDecode f (elem f.w b i)) (dotScales ctl sa sb).2)

/-- The exact products of DOT.KQ8: weights of va's four indices with the E4M3 elements of vb to vb+3 (R162). -/
def dotKq8 (ctl : BitVec 32) (a : Word) (bs : List Word) (sa sb : Word) : List FVal :=
  ((List.zipWith (fun q b => List.zipWith (fun j w =>
      fpMul (fpScaled w (dotScales ctl sa sb).1) (fpScaled (fpDecode fmtE4M3 (elem 8 b j)) (dotScales ctl sa sb).2))
    (List.range 8) (kq8 (elem 16 a q))) (List.range 4) bs)).flatten

/-- DOT8 and DOT4: element width `w`, each operand extended by its own sign (R58, R162). -/
def dotInt (w : Nat) (x y : Sgn) (sat : Bool) (ctl : BitVec 32) (a b third old : Word) : Word :=
  let ae := if ctl.getLsbD 20 then 1 else 0
  let s : Int := (List.zipWith (fun p q => toI (x == .i) w p * toI (y == .i) w q) (elems w a) (elems w b)).foldl (· + ·) 0
  let r := s + toI true 32 (elem 32 third ae)
  setElem 32 old ae (if sat then saturI true 32 r else wrapI 32 r)

/-! ### Across lanes (R65, R164 to R166) -/

/-- The subgroup width of code `g` in a wave of width `W` (R164). -/
def subWidth (W g : Nat) : Nat := if g = 0 then W else min (2 ^ g) W

/-- Lane `l`'s subgroup base plus a position within the subgroup. -/
def subLane (S l : Nat) (k : Int) : Nat := l - l % S + (k % (S : Int)).toNat

/-- The fixed pairwise tree of R65: each pass pairs neighbours, the left partial first. `at` numbers the first leaf of
a partial, and `s` is the stride of the pass. -/
def treePass {α : Type} (op : Nat → α → α → α) (s : Nat) : Nat → List α → List α
  | p, a :: b :: l => op p a b :: treePass op s (p + 2 * s) l
  | _, l => l
def treeFold {α : Type} (op : Nat → α → α → α) : Nat → Nat → List α → List α
  | 0, _, l => l
  | n + 1, s, l => treeFold op n (2 * s) (treePass op s 0 l)
/-- The root of the tree over at most 128 leaves. -/
def treeRoot {α : Type} (op : Nat → α → α → α) (none_ : α) (l : List α) : α := (treeFold op 7 1 l).headD none_

/-- An operation in which an absent operand loses (R65). -/
def presentOp {α : Type} (f : α → α → α) : Option α → Option α → Option α
  | none, y => y
  | x, none => x
  | some x, some y => some (f x y)

/-- The leaves of a REDUX: for each lane of the wave its elements, or an identity when it is not active. -/
def reduxLeaves {α : Type} (W e : Nat) (act : Lanes) (leaf : Nat → Nat → α) (idle : α) : List α :=
  (List.range (W * e)).map fun p => if inLanes act (p / e) then leaf (p / e) (p % e) else idle

/-- REDUX's result (R165): `ctl` gives each lane's controls, `x` each lane's register. -/
def reduxW (k : ReduxOp) (W : Nat) (act : Lanes) (ctl : Nat → FpCtl) (x : Nat → Word) : Word :=
  let leafF (l e : Nat) : FVal := rdF fmtF32 (ctl l) (x l) e
  let both (r : Nat) : Word := packElems 32 [r, r]
  let pick (f : FVal → FVal → FVal) : Word :=
    let r := treeRoot (fun _ => presentOp f) none (reduxLeaves W 2 act (fun l e => some (leafF l e)) none)
    both (fpExact fmtF32 (r.getD .nan))
  match k with
  | .addF32 => both (fpExact fmtF32 (treeRoot
      (fun p a b => fpDecode fmtF32 (fpSumWrite fmtF32 (ctl (p / 2)) [a, b])) .nan
      (reduxLeaves W 2 act leafF (.num true 0 0))))
  | .addI32 => both (treeRoot (fun _ a b => (a + b) % 2 ^ 32) 0 (reduxLeaves W 2 act (fun l e => elem 32 (x l) e) 0))
  | .maxF32 => pick fpMaxNum
  | .minF32 => pick fpMinNum
  | .maxixF32 =>
    let r := (treeRoot (fun _ => presentOp pairBetter) none
      (reduxLeaves W 1 act (fun l _ => some (leafF l 0, elem 32 (x l) 1)) none)).getD (.nan, 0xFFFFFFFF)
    packElems 32 [fpExact fmtF32 r.1, r.2]

/-- VOTE's result (R166). -/
def voteW (k : VoteOp) (act : Lanes) (x : Nat → Word) : Word := match k with
  | .any => boolW ((laneList act).any fun l => x l ≠ 0)
  | .all => boolW ((laneList act).all fun l => x l ≠ 0)
  | .bal => lanesOf ((laneList act).filter fun l => x l ≠ 0)

end Sys2Proof.Machine
end

