-- ==== Sys2Proof/Machine/Wave.lean ====
section
/-!
DEFINITION. A wave's registers: launch registers, lanes, reads with their latencies (R42, R43), writes, paths.
-/
namespace Sys2Proof.Machine

/-! ### Launch registers (R25, R26) -/

def Wave.lreg (w : Wave) (n : Nat) : Word := sget w.launch n
def Wave.width (w : Wave) : Nat := (w.lreg 139).toNat
def Wave.idx (w : Wave) : Nat := (w.lreg 138).toNat
def Wave.level (w : Wave) : Nat := (w.lreg 140).toNat
def Wave.role (w : Wave) : Nat := (w.lreg 149).toNat % 4
def Wave.core (w : Wave) : Nat := (w.lreg 145).toNat
def Wave.cluster (w : Wave) : Nat := (w.lreg 146).toNat
def Wave.die (w : Wave) : Nat := (w.lreg 147).toNat
def Wave.part (w : Wave) : Nat := (w.lreg 148).toNat
def Wave.strict (w : Wave) : Bool := (w.lreg 153).getLsbD 0
def Wave.stallcheck (w : Wave) : Bool := (w.lreg 153).getLsbD 1
def Wave.rings (w : Wave) : Nat := (w.lreg 155).toNat

/-- The lanes a wave of a width has. -/
def widthMask (n : Nat) : Lanes := BitVec.ofNat 64 (2 ^ n - 1)

/-! ### Registers of lanes -/

/-- The value a register holds now (p0 is always true, R20). -/
def Wave.reg (w : Wave) (r : RegName) (l : Nat) : Word := match r with
  | .v n => sget w.v (l * 128 + n)
  | .s n => sget w.s n
  | .p n => if n = 0 then 1 else boolW (inLanes (sget w.p n) l)
  | .j n => sget w.j n
  | .fctl => sget w.fctl l
  | .mtg => sget w.mtg l

/-- Store a register's value. A write to p0 is discarded, rejoin bits at or above the width and fctl's reserved bits
are ignored (R21, R24). -/
def Wave.setReg (w : Wave) (r : RegName) (l : Nat) (x : Word) : Wave := match r with
  | .v n => { w with v := sset w.v (l * 128 + n) x }
  | .s n => { w with s := sset w.s n x }
  | .p n => if n = 0 then w else
      { w with p := sset w.p n (if x = 0 then sget w.p n &&& ~~~(laneBit l) else sget w.p n ||| laneBit l) }
  | .j n => { w with j := sset w.j n (x &&& widthMask w.width) }
  | .fctl => { w with fctl := sset w.fctl l (x &&& 0x1F) }
  | .mtg => { w with mtg := sset w.mtg l x }

def Wave.setRegs (w : Wave) (r : RegName) : List (Nat × Word) → Wave
  | [] => w
  | (l, x) :: rest => Wave.setRegs (w.setReg r l x) r rest

/-! ### Sets of registers of lanes -/

/-- The lanes of a register in a set. -/
def RegSet_at (m : RegSet) (r : RegName) : Lanes := ((m.find? fun e => e.1 = r).map Prod.snd).getD 0
/-- Add registers of lanes. -/
def RegSet_add (m : RegSet) : RegSet → RegSet
  | [] => m
  | (r, l) :: rest =>
    if l = 0 then RegSet_add m rest
    else if m.any fun e => e.1 = r then RegSet_add (m.map fun e => if e.1 = r then (r, e.2 ||| l) else e) rest
    else RegSet_add ((r, l) :: m) rest
/-- Registers of lanes not in another set. -/
def RegSet_minus (m n : RegSet) : RegSet := (m.map fun e => (e.1, e.2 &&& ~~~RegSet_at n e.1)).filter fun e => e.2 ≠ 0

/-- A register held once for the whole wave. -/
def RegName.uniform : RegName → Bool
  | .s _ | .j _ => true
  | _ => false
/-- A number for each register, for free choices. -/
def regKey (r : RegName) (l : Nat) : Nat := match r with
  | .v n => (n) * 64 + l
  | .s n => (128 + n) * 64 + l
  | .p n => (256 + n) * 64 + l
  | .j n => (264 + n) * 64 + l
  | .fctl => 272 * 64 + l
  | .mtg => 273 * 64 + l

/-- The old values a read at clock `t` may still return, latest first: those that fixed-latency writes replaced whose
latency has not passed (R42, R43). -/
def Wave.earlyOlds (w : Wave) (t : Nat) (r : RegName) (l : Nat) : List Word :=
  (w.late.filter fun e => e.reg = r && decide (t < e.ends) && inLanes e.lanes l).map fun e => sget e.old l

/-- The old value of the latest such write. -/
def Wave.earlyOld (w : Wave) (t : Nat) (r : RegName) (l : Nat) : Option Word := (w.earlyOlds t r l).head?

/-- One of some values, the first unless the free choices go on. (Log entry 2, DESIGN CHOICE.) -/
def freeOf (fresh key : Nat) (now : Word) : List Word → Word
  | [] => now
  | x :: rest => if Config.freeBit fresh key then now else freeOf fresh (key + 65536) x rest

/-- A register's value at a word's issue: an early read returns the new or an old value, freely (R43).
(Log entry 2, DESIGN CHOICE.) -/
def Wave.readAt (w : Wave) (t fresh : Nat) (r : RegName) (l : Nat) : Word :=
  freeOf fresh (regKey r l) (w.reg r l) (w.earlyOlds t r l)

/-- Is the register still owed a value at clock `t`: by a fixed latency, or by a word not yet complete? (R43) -/
def Wave.owed (w : Wave) (t : Nat) (r : RegName) : Bool :=
  (w.late.any fun e => e.reg = r && decide (t < e.ends)) || w.ops.any fun o => o.owes.contains r

/-! ### Paths -/

def Wave.path (w : Wave) (id : Nat) : Option Path := w.paths.find? fun p => p.id = id
def Wave.setPath (w : Wave) (p : Path) : Wave := { w with paths := w.paths.map (fun q => if q.id = p.id then p else q) }
def Wave.dropPath (w : Wave) (id : Nat) : Wave := { w with paths := w.paths.filter (fun q => decide (q.id ≠ id)) }

/-- Lanes parked on a page fault (R94). -/
def Wave.parked (w : Wave) : Lanes := w.paths.foldl (fun m p => match p.st with
  | .parked _ => m ||| p.lanes
  | _ => m) 0

/-- The address after a clause of `n` words at `h`: where the next header is looked for (R30). -/
def afterClause (h : Nat) (hword : BitVec 32) : Nat := h + 4 * ((hword.extractLsb 31 28).toNat + 1)

/-! ### The word being run -/

/-- What a word's meaning knows of its issue: the wave and path before it, the clock, the free-choice counter, the
clause header and the word's place in it, its prefix, latency and counter, and its active set (R27). -/
structure WCtx where
  w     : Wave
  p     : Path
  t     : Nat
  fresh : Nat
  hdr   : Nat
  hword : BitVec 32
  idx   : Nat
  next  : Nat
  pfx   : Option Pfx
  lat   : Nat
  ctr   : Option Nat
  act   : Lanes

/-- What a word's meaning answers: the state after it; a precise fault with its code, lanes and address, the state being
as before the word; a fault after part of the effect, which stands (R337); or that the word waits and is issued again. -/
inductive Res where
  | ok (s : State)
  | fault (code : Nat) (lanes : Lanes) (addr : Word)
  | faultIn (s : State) (code : Nat) (lanes : Lanes) (addr : Word)
  | hold

/-- Address of the word, or of its prefix when it has one (R40). -/
def WCtx.addr (c : WCtx) : Nat := c.hdr + 4 * c.idx
/-- The next clause header after this clause (R169). -/
def WCtx.after (c : WCtx) : Nat := afterClause c.hdr c.hword
def WCtx.lanes (c : WCtx) : List Nat := laneList c.act

/-- What a word that has not completed will write to a register: a load whose bytes for that register of the lane have
all returned (R97), or any other whose result is there. An early read may see it. -/
def PendOp.coming (o : PendOp) (r : RegName) (l : Nat) : Option Word := match o.kind with
  | .load signed n dst _ pieces =>
    match dst.findIdx? (· = r) with
    | none => none
    | some k =>
      let mine := pieces.filter fun p => p.lane = l
      let needed (p : Piece) : Bool := decide (dst.length = 1) || decide (p.off < 8 * k + 8) && decide (8 * k < p.off + p.n)
      if mine.isEmpty || mine.any (fun p => needed p && p.data.isNone) then none else
      let bs := (mine.map fun p => p.data.getD (List.replicate p.n 0)).flatten
      some (if dst.length = 1 then BitVec.ofInt 64 (toI signed (8 * n) (ofBytes bs))
        else BitVec.ofNat 64 (ofBytes ((bs.drop (8 * k)).take 8)))
  | _ => (o.writes.find? fun x => x.reg = r && x.lane = l).map RegWrite.val

/-- The value a load about to be written would give the register, if any. -/
def Wave.coming (w : Wave) (r : RegName) (l : Nat) : Option Word := w.ops.findSome? fun o => o.coming r l

/-- Read a register at the word's issue: an early read returns the old or the new value, freely (R43).
(Log entry 2, DESIGN CHOICE.) -/
def WCtx.rd (c : WCtx) (r : RegName) (l : Nat) : Word :=
  let now := c.w.readAt c.t c.fresh r l
  if c.w.ops.isEmpty then now else
  match c.w.coming r l with
  | none => now
  | some x => if Config.freeBit c.fresh (32768 + regKey r l) then x else now
def WCtx.v (c : WCtx) (l : Nat) (n : BitVec 7) : Word := c.rd (.v n.toNat) l
def WCtx.s (c : WCtx) (n : BitVec 7) : Word := c.rd (.s n.toNat) 0
def WCtx.pred (c : WCtx) (l : Nat) (n : Nat) : Bool := c.rd (.p n) l ≠ 0
def WCtx.fctl (c : WCtx) (l : Nat) : Word := c.rd .fctl l
/-- The FP controls of a lane (R54). -/
def WCtx.ctl (c : WCtx) (l : Nat) : FpCtl := fpCtl (c.fctl l) c.pfx
def WCtx.sat (c : WCtx) : Bool := (c.pfx.map Pfx.sat).getD false
/-- Lanes of the path outside the mask, which a `zero` prefix makes write 0 (R27, R36). R27 speaks of the lanes outside
the active set, R36 of the masked-off ones: lanes of the wave's other paths, waiting or parked, are not written.
(Log entry 35, DEDUCED.) -/
def WCtx.zeroed (c : WCtx) : Lanes := match c.pfx with
  | some p => if p.zero then c.p.lanes &&& ~~~c.act else 0
  | none => 0

/-- Writes take effect in issue order: what an earlier write of a register left to come ends, in some lanes, with a later
write, from clock `ends` on (R42). -/
def Late.limit (r : RegName) (m : Lanes) (ends : Nat) (e : Late) : List Late :=
  if e.reg ≠ r || e.lanes &&& m = 0 then [e] else
  [{ e with lanes := e.lanes &&& ~~~m }, { e with lanes := e.lanes &&& m, ends := min e.ends ends }]

/-- The operation races a write of a register in some lanes. -/
def PendOp.race (o : PendOp) (r : RegName) (m : Lanes) : PendOp :=
  if o.owes.contains r then { o with raced := RegSet_add o.raced [(r, m)] } else o

/-- Write a fixed-latency result: the register takes its new value, an early reader may still see an old one, and a
pending load of the register is raced in the lanes written (R42, R43). -/
def Wave.write (w : Wave) (t lat : Nat) (r : RegName) (vals : List (Nat × Word)) : Wave :=
  let w1 := w.setRegs r vals
  let lanes := lanesOf (vals.map Prod.fst)
  let old := vals.foldl (fun m e => sset m e.1 (w.reg r e.1)) []
  let before := if w1.late.isEmpty then [] else ((w1.late.map (Late.limit r lanes (t + lat))).flatten).filter fun e => e.lanes ≠ 0
  let w2 := { w1 with late := if lat ≤ 1 || vals.isEmpty then before else ⟨r, lanes, old, t + lat⟩ :: before }
  if w2.ops.any (fun o => o.owes.contains r) then { w2 with ops := w2.ops.map fun o => o.race r lanes } else w2

def State.setWave (s : State) (w : Wave) : State := { s with waves := aset s.waves w.id w }
def State.modWave (s : State) (id : Nat) (f : Wave → Wave) : State := { s with waves := amod s.waves id f }

/-- Write a vector register in the lanes listed, and 0 in lanes a `zero` prefix names (R27). -/
def vecWriteOn (c : WCtx) (ls : List Nat) (d : Nat) (f : Nat → Word) (s : State) : State :=
  s.modWave c.w.id fun w => w.write c.t c.lat (.v d)
    ((ls.map fun l => (l, f l)) ++ (laneList c.zeroed).map fun l => (l, 0))

/-- Write a vector register in every active lane. -/
def vecWrite (c : WCtx) (d : Nat) (f : Nat → Word) (s : State) : State := vecWriteOn c c.lanes d f s

/-- Write a predicate in every active lane, false in lanes a `zero` prefix names (R136). -/
def predWrite (c : WCtx) (d : Nat) (f : Nat → Bool) (s : State) : State :=
  s.modWave c.w.id fun w => w.write c.t c.lat (.p d)
    ((c.lanes.map fun l => (l, boolW (f l))) ++ (laneList c.zeroed).map fun l => (l, 0))

/-- Write a uniform register once (R144). -/
def uniWrite (c : WCtx) (d : Nat) (x : Word) (s : State) : State :=
  s.modWave c.w.id fun w => w.write c.t c.lat (.s d) [(0, x)]

end Sys2Proof.Machine
end

