-- ==== Sys2Proof/Machine/Mem.lean ====
section
/-!
DEFINITION. Memory: the physical address map (R90), translation and its checks (R91 to R93), bytes of memory and of
scratchpads (R100, R418), L1 data lines (R117), forwarding from store queues (R111, R194), range locks (R126).
-/
namespace Sys2Proof.Machine

/-! ### Setters of nested state -/

/-- `n` arithmetic clocks of 3.3 GHz pass: device time and elapsed time count nanoseconds, elapsed time at the
oscillator's rate, device time at that rate corrected by some parts per billion; the parts of a nanosecond are kept in
33rds and in 33rds of a billionth (R6, R408). (Log entry 4, DESIGN CHOICE.) (Log entry 7, DESIGN CHOICE.) -/
def State.pass (s : State) (n : Nat) : State :=
  let f := s.time.frac + 10 * n
  let g := s.time.devFrac + 10 * n * (1000000000 + s.time.rate).toNat
  { s with
    clock := s.clock + n
    time := { s.time with
      dev := s.time.dev + BitVec.ofNat 64 (g / 33000000000)
      devFrac := g % 33000000000
      elapsed := s.time.elapsed + BitVec.ofNat 64 (f / 33)
      frac := f % 33 } }

def State.setMsys (s : State) (m : MemSys) : State := { s with msys := m }
def State.part (s : State) (p : Nat) : Part := (aget s.parts p).getD Part.reset
def State.setPart (s : State) (p : Nat) (x : Part) : State := { s with parts := aset s.parts p x }
def State.modPart (s : State) (p : Nat) (f : Part → Part) : State := s.setPart p (f (s.part p))
def State.core (s : State) (c : Nat) : Core := (aget s.cores c).getD Core.reset
def State.setCore (s : State) (c : Nat) (x : Core) : State := { s with cores := aset s.cores c x }
def State.modCore (s : State) (c : Nat) (f : Core → Core) : State := s.setCore c (f (s.core c))
def State.chan (s : State) (c : Nat) : Chan := (aget s.chans c).getD Chan.reset
def State.setChan (s : State) (c : Nat) (x : Chan) : State := { s with chans := aset s.chans c x }
def State.modChan (s : State) (c : Nat) (f : Chan → Chan) : State := s.setChan c (f (s.chan c))
def State.modGrid (s : State) (g : Nat) (f : Grid → Grid) : State := { s with grids := amod s.grids g f }
def State.modBlock (s : State) (b : Nat) (f : Block → Block) : State := { s with blocks := amod s.blocks b f }

/-! ### Physical memory (R90) -/

/-- What lies at a physical address (R90). -/
inductive Region where
  | dram (die : Nat) | saddlebag (die : Nat) | lpddr | host | cinch (m a : Nat) | page (p off : Nat) | hole
deriving DecidableEq, Repr

def region (pa : Nat) : Region :=
  if pa < 0x8000000000 then
    let o := pa % 0x2000000000
    if o < 0x11E0000000 then .dram (pa / 0x2000000000)
    else if o < 0x1200000000 then .saddlebag (pa / 0x2000000000)
    else .hole
  else if 0x10000000000 ≤ pa ∧ pa < 0x30000000000 then .lpddr
  else if 0x30000000000 ≤ pa ∧ pa < 0x30000200000 then .page ((pa - 0x30000000000) / 0x10000) (pa % 0x10000)
  else if 0x100000000000 ≤ pa ∧ pa < 0x200000000000 then .host
  else if 0x4000000000000 ≤ pa ∧ pa < 0x8000000000000 then
    .cinch ((pa - 0x4000000000000) / 0x40000000000) (pa % 0x40000000000)
  else .hole

/-- Memory of this module: stacked DRAM or LPDDR. -/
def localMem (pa : Nat) : Bool := match region pa with
  | .dram _ | .lpddr => true
  | _ => false

/-- Memory reached through a Latigo or Cinch port (R120, R222). -/
def portMem (pa : Nat) : Bool := match region pa with
  | .host | .cinch _ _ => true
  | _ => false

/-- Place of a scratchpad byte in the one list that holds every core's scratchpad. -/
def scrKey (core a : Nat) : Nat := core * 0x80000 + a

/-- The bytes at a place. (Log entry 1, DESIGN CHOICE.) -/
def State.bytes (s : State) (loc : Loc) (n : Nat) : List Byte := match loc with
  | .glob pa => sgets s.mem pa n
  | .scr c a => sgets s.scr (scrKey c a) n

/-- 8 bytes of physical memory as a word (R2). -/
def State.dword (s : State) (pa : Nat) : Word := BitVec.ofNat 64 (ofBytes (s.bytes (.glob pa) 8))

/-- A poisoned sector stays so until a write replaces all its 32 bytes (R418). (Log entry 33, DEDUCED.) -/
def healed (poison : List Nat) (pa n : Nat) : List Nat :=
  if poison.isEmpty then poison else poison.filter fun q => !(decide (pa ≤ q * 32) && decide (q * 32 + 32 ≤ pa + n))

/-- An 8-byte scratchpad word in error stays so until a write replaces all its bytes (R103). (Log entry 33, DEDUCED.) -/
def corrected (bad : List Nat) (k n : Nat) : List Nat := bad.filter fun e => !(decide (k ≤ e * 8) && decide (e * 8 + 8 ≤ k + n))

/-- Write bytes at a place. (Log entry 1, DESIGN CHOICE.) -/
def State.setBytes (s : State) (loc : Loc) (bs : List Byte) : State := match loc with
  | .glob pa =>
    let s1 : State := { s with mem := ssets s.mem pa bs }
    if s1.msys.poison.isEmpty then s1 else s1.setMsys { s1.msys with poison := healed s1.msys.poison pa bs.length }
  | .scr c a =>
    let s1 : State := { s with scr := ssets s.scr (scrKey c a) bs }
    if s1.msys.eccBad.isEmpty then s1 else s1.setMsys { s1.msys with eccBad := corrected s1.msys.eccBad (scrKey c a) bs.length }

/-- Writes that together replace all bytes of a sector heal it (R418). (Log entry 33, DEDUCED.) -/
def State.healSector (s : State) (q : Nat) : State :=
  if s.msys.poison.contains q then s.setMsys { s.msys with poison := s.msys.poison.filter fun k => k ≠ q } else s

def State.setDword (s : State) (pa : Nat) (x : Word) : State := s.setBytes (.glob pa) (bytesOf 8 x.toNat)

/-- The grid itself has written bytes of memory, which its fetch may then see (R45). (Log entry 10, DESIGN CHOICE.) -/
def State.wrote (s : State) (gid : Nat) (loc : Loc) (n : Nat) : State := match loc with
  | .glob pa => s.modGrid gid fun g => if g.own.contains (pa, n) then g else { g with own := (pa, n) :: g.own }
  | .scr _ _ => s

/-- A place `k` bytes on. -/
def Loc.plus (l : Loc) (k : Nat) : Loc := match l with
  | .glob pa => .glob (pa + k)
  | .scr c a => .scr c (a + k)

/-- Do two byte ranges share a byte? -/
def overlaps (a n b m : Nat) : Bool := decide (a < b + m) && decide (b < a + n)

/-- Offset of byte range `(l, n)`'s start behind place `l'`, when they lie in one memory. -/
def Loc.same : Loc → Loc → Option (Nat × Nat)
  | .glob a, .glob b => some (a, b)
  | .scr c a, .scr c' b => if c = c' then some (a, b) else none
  | _, _ => none

/-- Does a byte range hit another? -/
def Loc.hits (l : Loc) (n : Nat) (l' : Loc) (m : Nat) : Bool := match l.same l' with
  | some (a, b) => overlaps a n b m
  | none => false

/-! ### Parts of a store -/

/-- Bytes `lo` to `hi` of a store. -/
def StoreEnt.part (e : StoreEnt) (lo hi : Nat) : List StoreEnt :=
  if lo < hi then [{ e with loc := e.loc.plus lo, bytes := (e.bytes.drop lo).take (hi - lo) }] else []

/-- Where `n` bytes at a place lie within a store's bytes: from, and up to. -/
def StoreEnt.span (e : StoreEnt) (loc : Loc) (n : Nat) : Nat × Nat := match e.loc.same loc with
  | some (a, b) => (min e.bytes.length (b - a), min e.bytes.length (b + n - a))
  | none => (e.bytes.length, e.bytes.length)

/-- What of a store lies within `n` bytes at a place, and what outside. -/
def StoreEnt.inside (e : StoreEnt) (loc : Loc) (n : Nat) : List StoreEnt := e.part (e.span loc n).1 (e.span loc n).2
def StoreEnt.outside (e : StoreEnt) (loc : Loc) (n : Nat) : List StoreEnt :=
  if e.inside loc n = [] then [e] else e.part 0 (e.span loc n).1 ++ e.part (e.span loc n).2 e.bytes.length

/-! ### Forwarding (R111, R194) -/

/-- Byte `k` of a place as a list of stores, oldest first, leaves it. -/
def forwardByte (q : List StoreEnt) (loc : Loc) (k : Nat) (b : Byte) : Byte :=
  q.foldl (fun b e => match e.loc.same (loc.plus k) with
    | some (a, x) => if a ≤ x ∧ x < a + e.bytes.length then e.bytes.getD (x - a) b else b
    | none => b) b

/-- Lay the stores of a queue over bytes read from memory. (Log entry 9, DESIGN CHOICE.) -/
def forwardOver (q : List StoreEnt) (loc : Loc) (bs : List Byte) : List Byte :=
  if q.isEmpty then bs else bs.mapIdx fun k b => forwardByte q loc k b

/-! ### Bytes as a die reads and writes them (R120) -/

def dieOfCore (core : Nat) : Nat := core / 144

/-- The writes that a die's ports hold, as store entries. -/
def State.portQueue (s : State) (die : Nat) : List StoreEnt :=
  (s.msys.ports.filter fun p => p.die = die).map fun p => ⟨0, 0, .glob p.pa, p.bytes, none, false⟩

/-- The bytes an agent of a die reads at a place: for host and other modules' memory, what its ports hold lies over
them. -/
def State.dieBytes (s : State) (die : Nat) (loc : Loc) (n : Nat) : List Byte := match loc with
  | .glob pa => if portMem pa then forwardOver (s.portQueue die) loc (s.bytes loc n) else s.bytes loc n
  | .scr _ _ => s.bytes loc n

/-- A write by an agent of a die for a partition: to host and other modules' memory its port takes it in.
(Log entry 9, DESIGN CHOICE.) -/
def State.diePut (s : State) (die : Nat) (loc : Loc) (bs : List Byte) (part : Nat) (rel : Bool := false) : State := match loc with
  | .glob pa =>
    if portMem pa then s.setMsys { s.msys with ports := s.msys.ports ++ [⟨die, pa, bs, rel, part⟩] } else s.setBytes loc bs
  | .scr _ _ => s.setBytes loc bs

/-- Does a Cinch port work? (R405) (Log entry 28, DEDUCED.) -/
def State.cinchUp (s : State) : Bool := decide (s.hw.failed.length < 36)

/-- Is an access to another module refused: because no working port leads there, or by that module's import table, which
is no state of this one, so that it refuses or accepts freely (R406)? (Log entry 44, DESIGN CHOICE.) -/
def State.refusedAt (s : State) (loc : Loc) : Bool := match loc with
  | .glob pa => (match region pa with
    | .cinch _ _ => !s.cinchUp || Config.freeBit s.fresh (pa + 2 ^ 61)
    | _ => false)
  | .scr _ _ => false

/-- Have a die's ports delivered all they took in? A release at .dev or .sys by an agent of the die waits for it (R112,
R114, R120). (Log entry 9, DESIGN CHOICE.) -/
def State.portsClear (s : State) (die : Nat) : Bool := !s.msys.ports.any fun p => p.die = die

/-- Have all ports delivered what they took in for a partition (R121)? (Log entry 9, DESIGN CHOICE.) -/
def State.portsClearOf (s : State) (part : Nat) : Bool := !s.msys.ports.any fun p => p.part = part

/-! ### Interrupts (R403) -/

/-- Where the module writes a message: the host address, in the host window of R90. (Log entry 27, DEDUCED.) -/
def hostPa (a : Nat) : Nat := 0x100000000000 + a % 2 ^ 44

/-- Send vector `v`'s message through the port of the die that raised it last, behind the record that raised it (R398,
R403). (Log entry 27, DEDUCED.) -/
def State.sendMessage (s : State) (p v : Nat) : State :=
  let q := s.part p
  s.diePut ((aget q.vdies v).getD 0) (.glob (hostPa (bitsOf (sget q.vecs (2 * v)) 51 2 * 4)))
    (bytesOf 4 (bitsOf (sget q.vecs (2 * v + 1)) 31 0)) p true

/-- An event of vector `v` on a die: set its pending bit, and on a change from 0 to 1 with the mask clear send its message
(R403). -/
def State.interrupt (s : State) (p v die : Nat) : State :=
  let q := s.part p
  if q.pend / 2 ^ v % 2 = 1 then s else
  let s1 := s.setPart p { q with pend := q.pend + 2 ^ v, vdies := aset q.vdies v die }
  if (sget q.vecs (2 * v + 1)).getLsbD 63 then s1 else s1.sendMessage p v

/-- The bytes that an agent of a die reads over runs of places; where another module refuses the read, zeros (R406).
(Log entry 15, DESIGN CHOICE.) -/
def State.readRuns (s : State) (die : Nat) (l : List (Loc × Nat)) : List Byte :=
  (l.map fun e => if s.refusedAt e.1 then List.replicate e.2 0 else s.dieBytes die e.1 e.2).flatten

/-- A read that another module refuses raises vector 2 of the partition (R406). -/
def State.noteRefused (s : State) (part die : Nat) (l : List (Loc × Nat)) : State :=
  if l.any fun e => s.refusedAt e.1 then s.interrupt part 2 die else s

/-! ### Translation (R91 to R93) -/

/-- Kinds of access, as permissions tell them apart (R92). -/
inductive Acc where
  | fetch | load | store | ldo | atomic
deriving DecidableEq, Repr

def Acc.writes : Acc → Bool
  | .store | .atomic => true
  | _ => false

/-- How a walk fails (R92). -/
inductive XErr where
  | pageFault | rights
deriving DecidableEq, Repr

/-- A translation: physical address, page attribute, the leaf, where its entry lies (none when a cached copy was used
in its place), and the page's first address and size. -/
structure Xlat where
  pa   : Nat
  attr : Nat
  leaf : Word
  slot : Option Nat
  page : Nat
  size : Nat
deriving DecidableEq, Repr

/-- Reserved bits of an entry are zero and its attr is not 3 (R91, R92). -/
def entryOk (e : Word) : Bool :=
  bitsOf e 62 56 = 0 && bitsOf e 53 52 = 0 && bitsOf e 11 8 = 0 && !e.getLsbD 1 && bitsOf e 55 54 ≠ 3

def pfn (e : Word) : Nat := bitsOf e 51 12 * 4096

/-- Walk the tables from level `lvl` down to a leaf: its entry's address, the entry and its level (R91, R92). -/
def State.walk (s : State) (va : Nat) : Nat → Nat → Except XErr (Nat × Word × Nat)
  | lvl, base =>
    let idx := va / 2 ^ (12 + 9 * lvl) % 512
    let e := s.dword (base + 8 * idx)
    if !e.getLsbD 0 then .error .pageFault
    else if !entryOk e then .error .rights
    else if e.getLsbD 7 then
      if 3 ≤ lvl || pfn e % 2 ^ (12 + 9 * lvl) ≠ 0 then .error .rights else .ok (base + 8 * idx, e, lvl)
    else match lvl with
      | 0 => .error .rights
      | k + 1 => State.walk s va k (pfn e)

/-- A partition's carve-out ranges (R400): first byte and length. -/
def Part.ranges (p : Part) : List (Nat × Nat) := (List.range 4).map fun i =>
  let d := sget p.entry (2 + i)
  (bitsOf d 51 30 * 0x40000000, bitsOf d 63 52 * 0x40000000)

/-- Do some ranges together hold the bytes from `a` up to `stop`? Each range is entered once at most. -/
def covered (l : List (Nat × Nat)) (stop : Nat) : Nat → Nat → Bool
  | 0, a => decide (stop ≤ a)
  | k + 1, a => decide (stop ≤ a) || l.any fun r => decide (r.1 ≤ a) && decide (a < r.1 + r.2) && covered l stop k (r.1 + r.2)

/-- Does the union of the ranges hold `n` bytes at `a`? -/
def Part.carve (p : Part) (a n : Nat) : Bool := covered p.ranges (a + n) 4 a

/-- May a page of the partition map the physical bytes from `pa` on? (R92) -/
def State.mayMap (s : State) (p : Nat) (pa n attr : Nat) : Bool :=
  let q := s.part p
  match region pa with
  | .dram _ | .lpddr => q.carve pa n
  | .host => (sget q.entry 12).getLsbD 0
  | .cinch m _ => (sget q.entry 12).getLsbD 1 && m ≠ s.hw.num
  | .page r _ => r = p && attr = 2
  | .saddlebag _ | .hole => false

/-- Does a leaf give the permission an access needs? (R92) -/
def permOk (e : Word) : Acc → Bool
  | .fetch => e.getLsbD 63
  | .load => e.getLsbD 2
  | .store => e.getLsbD 3
  | .ldo | .atomic => e.getLsbD 2 && e.getLsbD 3 && e.getLsbD 4

/-- The access through one leaf. -/
def State.through (s : State) (p : Nat) (va : Nat) (acc : Acc) (leaf : Word) (size : Nat) (slot : Option Nat) :
    Except XErr Xlat :=
  let pa := pfn leaf + va % size
  let attr := bitsOf leaf 55 54
  if s.mayMap p (pfn leaf) size attr && s.mayMap p (pfn leaf + size - 1) 1 attr && permOk leaf acc then
    .ok ⟨pa, attr, leaf, slot, va / size * size, size⟩
  else .error .rights

/-- The tables' translation of an address. -/
def State.walkFor (s : State) (p : Nat) (va : Nat) (acc : Acc) : Except XErr Xlat :=
  match s.walk va 4 (bitsOf (sget (s.part p).entry 1) 51 12 * 4096) with
  | .error e => .error e
  | .ok (slot, leaf, lvl) => s.through p va acc leaf (2 ^ (12 + 9 * lvl)) (some slot)

/-- The leaf bits that matter to a translation: all but accessed and dirty. -/
def leafBits (e : Word) : Word := e &&& ~~~(0x60#64)

/-- An access goes through one of some stale leaves, or by the tables, freely (R93). (Log entry 2, DESIGN CHOICE.) -/
def State.throughOne (s : State) (p a : Nat) (acc : Acc) (new : Except XErr Xlat) (key : Nat) : List TlbEnt → Except XErr Xlat
  | [] => new
  | e :: rest =>
    if Config.freeBit s.fresh key then State.throughOne s p a acc new (key + 2 ^ 52) rest
    else s.through p a acc e.entry e.size none

/-- Translate one address. While cached copies of a changed entry have not been invalidated, each access uses an old
translation or the new one, freely (R93). (Log entry 2, DESIGN CHOICE.) -/
def State.translate (s : State) (p : Nat) (va : Word) (acc : Acc) : Except XErr Xlat :=
  let a := va.toNat
  if 2 ^ 52 ≤ a then .error .rights else
  let new := s.walkFor p a acc
  let stale (e : TlbEnt) : Bool := e.part = p && decide (e.page ≤ a) && decide (a < e.page + e.size) && (match new with
    | .ok x => !(x.page = e.page && leafBits x.leaf = leafBits e.entry)
    | .error _ => true)
  s.throughOne p a acc new a (s.msys.tlb.filter stale)

/-- Cache the leaf used, when it was read from the tables (R93). -/
def State.cacheLeaf (s : State) (p : Nat) (x : Xlat) : State :=
  if x.slot.isNone || s.msys.tlb.any fun t => t.part = p && t.page = x.page && leafBits t.entry = leafBits x.leaf then s
  else s.setMsys { s.msys with tlb := ⟨p, x.page, x.size, x.leaf⟩ :: s.msys.tlb }

/-- Cache the leaf used, and set accessed, and dirty for a write, in its entry, for an access that proceeds (R91 to
R93). -/
def State.touch (s : State) (p : Nat) (x : Xlat) (write : Bool) : State :=
  match x.slot with
  | none => s
  | some a =>
    let e := s.dword a
    let e' := e ||| 0x20#64 ||| (if write then 0x40#64 else 0)
    (if e' = e then s else s.setDword a e').cacheLeaf p x

/-- The accessed and dirty bits that a store held back has still to set in a leaf (R92, R201). -/
def State.dirty (s : State) (a : Nat) : State :=
  let e := s.dword a ||| 0x60#64
  if e = s.dword a then s else s.setDword a e

/-- The parts of a range page by page: first byte and bytes in each. -/
def pageRuns (a n : Nat) : List (Nat × Nat) :=
  (List.range ((a % 4096 + n + 4095) / 4096)).map fun i =>
    let lo := if i = 0 then a else (a / 4096 + i) * 4096
    (lo, min ((a / 4096 + i + 1) * 4096) (a + n) - lo)

/-- Do all bytes of a range translate? The translation of the first byte. A range that crosses a page is translated
page by page (R95). -/
def State.translateAll (s : State) (p : Nat) (va : Word) (n : Nat) (acc : Acc) : Except XErr (List (Xlat × Nat)) :=
  (pageRuns va.toNat n).foldl (fun acc' e => match acc' with
    | .error x => .error x
    | .ok l => match s.translate p (BitVec.ofNat 64 e.1) acc with
      | .error x => .error x
      | .ok x => .ok (l ++ [(x, e.2)])) (.ok [])

/-- The first byte of a range that meets an invalid entry (R242). -/
def State.firstBad (s : State) (p : Nat) (va : Word) (n : Nat) (acc : Acc) : Word :=
  match (pageRuns va.toNat n).find? fun e => (match s.translate p (BitVec.ofNat 64 e.1) acc with
    | .error .pageFault => true
    | _ => false) with
  | some e => BitVec.ofNat 64 e.1
  | none => va

/-- The places of a translated range. -/
def placesOf (l : List (Xlat × Nat)) : List (Loc × Nat) := l.map fun e => (.glob e.1.pa, e.2)

/-- Read bytes through a partition's translation for an agent of a die, setting accessed bits: a read sets no dirty bit,
whatever rights it needs (R92). -/
def State.readVia (s : State) (p : Nat) (va : Word) (n : Nat) (acc : Acc) (die : Nat) : Except XErr (List Byte × State) :=
  match s.translateAll p va n acc with
  | .error e => .error e
  | .ok l => .ok (s.readRuns die (placesOf l), (l.foldl (fun s e => s.touch p e.1 false) s).noteRefused p die (placesOf l))

/-- Write bytes through a partition's translation for an agent of a die; `rel` says that the write publishes what the
die's ports took in before it. -/
def State.writeVia (s : State) (p : Nat) (va : Word) (bs : List Byte) (acc : Acc) (die : Nat) (rel : Bool := false) :
    Except XErr State :=
  match s.translateAll p va bs.length acc with
  | .error e => .error e
  | .ok l => .ok (l.foldl (fun (st : State × List Byte) e =>
      (((st.1.touch p e.1 true).diePut die (.glob e.1.pa) (st.2.take e.2) p rel), st.2.drop e.2)) (s, bs)).1

/-- The dwords in a list of bytes (R2). -/
def dwordsOf : List Byte → List Word
  | b0 :: b1 :: b2 :: b3 :: b4 :: b5 :: b6 :: b7 :: rest =>
    BitVec.ofNat 64 (ofBytes [b0, b1, b2, b3, b4, b5, b6, b7]) :: dwordsOf rest
  | _ => []
def bytesOfDwords (l : List Word) : List Byte := (l.map fun x => bytesOf 8 x.toNat).flatten

/-- Dword `i` of a structure. -/
def dw (l : List Word) (i : Nat) : Word := l.getD i 0

/-! ### L1 data lines (R99, R117) -/

/-- The core's unexpired line that holds a physical address. -/
def State.l1Line (s : State) (core pa : Nat) : Option L1Line :=
  s.msys.l1.find? fun l => l.core = core && l.line = pa / 128 && decide (s.clock < l.fill + 16384)

/-- Fill a line with the bytes its memory gives. -/
def State.l1Fill (s : State) (core pa : Nat) (bs : List Byte) : State :=
  let others := s.msys.l1.filter fun l => !(l.core = core && l.line = pa / 128)
  let line : L1Line := ⟨core, pa / 128, bs, s.clock⟩
  s.setMsys { s.msys with l1 := line :: others }

/-- The core's line that holds an address leaves its L1. -/
def State.l1Drop (s : State) (core pa n : Nat) : State :=
  if s.msys.l1.isEmpty then s else
  s.setMsys { s.msys with l1 := s.msys.l1.filter fun l => !(l.core = core && overlaps (l.line * 128) 128 pa n) }

/-- An acquire at .blk or wider scope by a wave of the core empties its L1 (R117). -/
def State.l1Empty (s : State) (core : Nat) : State :=
  if s.msys.l1.isEmpty then s else s.setMsys { s.msys with l1 := s.msys.l1.filter fun l => l.core ≠ core }

/-- Replace bytes of a list from an offset on. -/
def overlay (base : List Byte) (off : Nat) (bs : List Byte) : List Byte :=
  base.take off ++ bs ++ base.drop (off + bs.length)

/-- A store that leaves its queue updates its core's copy (R117), and so does what an access past L1 reads or writes
(R108). -/
def State.l1Store (s : State) (core pa : Nat) (bs : List Byte) : State :=
  if s.msys.l1.isEmpty then s else
  let f (l : L1Line) : L1Line :=
    if l.core = core && l.line = pa / 128 then { l with bytes := overlay l.bytes (pa % 128) bs } else l
  s.setMsys { s.msys with l1 := s.msys.l1.map f }

/-- The bytes a plain load of an attr-0 page by a core reads, from its L1 line if it has one that has not been evicted,
and the state with the line filled; `now a k` is what memory gives for `k` bytes at `a`. (Log entry 2, DESIGN CHOICE.) -/
def State.l1Read (s : State) (core pa n : Nat) (now : Nat → Nat → List Byte) : List Byte × State :=
  let fresh := (now pa n, s.l1Fill core pa (now (pa / 128 * 128) 128))
  match s.l1Line core pa with
  | some l => if Config.freeBit s.fresh pa then ((l.bytes.drop (pa % 128)).take n, s) else fresh
  | none => fresh

/-! ### Sectors, pieces and range locks -/

/-- The single-copy atomic pieces of an access of `n` bytes at address `a`: whole when aligned, else one for each
aligned 4-byte word it touches (R95, R109): offset in the access and length. -/
def splitPieces (a n : Nat) : List (Nat × Nat) :=
  if a % n = 0 then [(0, n)] else
  (List.range ((a % 4 + n + 3) / 4)).map fun i =>
    let lo := if i = 0 then a else (a / 4 + i) * 4
    (lo - a, min ((a / 4 + i + 1) * 4) (a + n) - lo)

/-- Does a byte range overlap a lock of a core's table? Global ranges are compared as virtual addresses, scratchpad
ranges as local addresses of that core (R126, R270). -/
def State.locked (s : State) (core : Nat) (scr : Bool) (a n : Nat) : Bool :=
  s.msys.locks.any fun k => k.core = core && k.scr == scr && overlaps k.base k.len a n

/-- An uncorrectable error in a byte range of a scratchpad (R103). (Log entry 33, DEDUCED.) -/
def State.eccHit (s : State) (loc : Loc) (n : Nat) : Bool :=
  if s.msys.eccBad.isEmpty then false else match loc with
  | .scr c a => s.msys.eccBad.any fun e => overlaps (e * 8) 8 (scrKey c a) n
  | .glob _ => false

/-- A poisoned sector in a byte range (R418). (Log entry 33, DEDUCED.) -/
def State.poisoned (s : State) (loc : Loc) (n : Nat) : Bool :=
  if s.msys.poison.isEmpty then false else match loc with
  | .glob pa => s.msys.poison.any fun q => overlaps (q * 32) 32 pa n
  | .scr _ _ => false

/-- A poisoned sector in a range read through a partition's translation. -/
def State.poisonedVia (s : State) (p : Nat) (va : Word) (n : Nat) : Bool :=
  if s.msys.poison.isEmpty then false else match s.translateAll p va n .load with
    | .ok l => l.any fun e => s.poisoned (.glob e.1.pa) e.2
    | .error _ => false

/-- The 32-byte granules a byte range touches (R194). -/
def granules (loc : Loc) (n : Nat) : List Loc := match loc with
  | .glob pa => (List.range ((pa % 32 + n + 31) / 32)).map fun i => .glob ((pa / 32 + i) * 32)
  | .scr c a => (List.range ((a % 32 + n + 31) / 32)).map fun i => .scr c ((a / 32 + i) * 32)

end Sys2Proof.Machine
end

