-- ==== Sys2Proof/Machine/Objects.lean ====
section
/-!
DEFINITION. The objects that agents meet at (R9): D-rings and channels (R225 to R232), counted barriers (R182, R183),
futures and continuation records (R332 to R335). Each operation is one step at the object's home slice; waves, Awl
channels, matrix engines and the Tree unit share it.
-/
namespace Sys2Proof.Machine

/-- Why a step on an object is not performed: an invalid translation entry, a refusal, or a fault code, with the address
that goes with it. -/
inductive ObjErr where
  | page (a : Word) | bad (code : Nat) (a : Word)
deriving DecidableEq, Repr

def ObjErr.isPage : ObjErr → Bool
  | .page _ => true
  | .bad _ _ => false

/-- Codes of R235. -/
def cAccessRights : Nat := 0x11
def cMisaligned : Nat := 0x12
def cScratchBounds : Nat := 0x13
def cScratchEcc : Nat := 0x14
def cRangeLock : Nat := 0x15
def cAtomicScope : Nat := 0x16
def cRingState : Nat := 0x50
def cFutDouble : Nat := 0x23
def cFutState : Nat := 0x24

/-- Translate a range that lies in one page for a step on an object; a register page takes none (R360). -/
def State.objXlat (s : State) (p : Nat) (a : Word) (acc : Acc) : Except ObjErr Xlat :=
  match s.translate p a acc with
  | .ok x => match region x.pa with
    | .page _ _ => .error (.bad cAccessRights a)
    | _ => .ok x
  | .error .pageFault => .error (.page a)
  | .error .rights => .error (.bad cAccessRights a)

/-! ### Rings and channels -/

/-- A ring-table entry (R225): its own address, ring memory, log2 of the slot size, slots, kind and scope. -/
structure Ring where
  ent   : Word
  base  : Nat
  lsize : Nat
  slots : Nat
  chan  : Bool
  dev   : Bool
deriving DecidableEq, Repr

def ringOk (ent : Word) (d0 d1 : Word) (chan : Bool) : Except ObjErr Ring :=
  let lsize := bitsOf d1 20 16
  if bitsOf d0 63 52 ≠ 0 || bitsOf d0 8 0 ≠ 0 || bitsOf d1 63 26 ≠ 0 || bitsOf d1 23 21 ≠ 0 || bitsOf d1 15 8 ≠ 0
      || decide (lsize < 4) || decide (16 < lsize) || d1.getLsbD 25 != chan then .error (.bad cRingState ent)
  else .ok ⟨ent, bitsOf d0 51 0, lsize, bitsOf d1 7 0 + 1, chan, d1.getLsbD 24⟩

/-- Read a table entry (R226). (Log entry 34, DESIGN CHOICE.) -/
def State.ring (s : State) (p die : Nat) (table : Word) (idx : Nat) (chan : Bool) : Except ObjErr (Ring × State) :=
  let ent := table + BitVec.ofNat 64 (16 + 16 * idx)
  match s.readVia p table 8 .atomic die with
  | .error .pageFault => .error (.page table)
  | .error .rights => .error (.bad cAccessRights table)
  | .ok (h, s1) =>
    let hd := BitVec.ofNat 64 (ofBytes h)
    if s.poisonedVia p table 8 then .error (.bad cScratchEcc table) else
    if bitsOf hd 63 9 ≠ 0 || decide (bitsOf hd 8 0 ≤ idx) then .error (.bad cRingState ent) else
    match s1.readVia p ent 16 .atomic die with
    | .error .pageFault => .error (.page ent)
    | .error .rights => .error (.bad cAccessRights ent)
    | .ok (b, s2) =>
      let d := dwordsOf b
      if s.poisonedVia p ent 16 then .error (.bad cScratchEcc ent) else
      match ringOk ent (dw d 0) (dw d 1) chan with
      | .error e => .error e
      | .ok r => .ok (r, s2)

/-- Is a readable table entry's scope .dev, well formed or not? That check is order 1 (R209). -/
def State.ringDev (s : State) (p die : Nat) (table : Word) (idx : Nat) : Bool :=
  match s.readVia p table 8 .atomic die with
  | .error _ => false
  | .ok (h, s1) =>
    let hd := BitVec.ofNat 64 (ofBytes h)
    if bitsOf hd 63 9 ≠ 0 || decide (bitsOf hd 8 0 ≤ idx) then false else
    match s1.readVia p (table + BitVec.ofNat 64 (16 + 16 * idx)) 16 .atomic die with
    | .error _ => false
    | .ok (b, _) => (dw (dwordsOf b) 1).getLsbD 24

/-- A refusal of a translation is met before a check of the object, and an invalid entry after it (R209). -/
def refusedFirst {α : Type} (m : Except ObjErr α) (bad : Bool) (e : ObjErr) : Except ObjErr α := match m with
  | .error (.bad code a) => .error (.bad code a)
  | m => if bad then .error e else m

def Ring.slotAddr (r : Ring) (i : Nat) : Nat := r.base + 512 + i * 2 ^ r.lsize

/-- The slot a slot address names (R226). -/
def Ring.slotOf (r : Ring) (a : Word) : Option Nat :=
  let o := a.toNat - (r.base + 512)
  if decide (r.base + 512 ≤ a.toNat) && o % 2 ^ r.lsize = 0 && decide (o / 2 ^ r.lsize < r.slots)
  then some (o / 2 ^ r.lsize) else none

/-- Physical address of a ring's memory (its header and state bytes lie in one page). -/
def State.ringMem (s : State) (p : Nat) (r : Ring) : Except ObjErr Xlat := s.objXlat p (BitVec.ofNat 64 r.base) .atomic

/-- A state byte: its two reserved bits must be zero (R225). -/
def State.slotByte (s : State) (pa i : Nat) : Byte := (s.bytes (.glob (pa + 64 + i)) 1).headD 0
/-- Does a step that reads a slot's state byte meet a poisoned sector (R418)? -/
def State.slotSpoiled (s : State) (pa i : Nat) : Bool := s.poisoned (.glob (pa + 64 + i)) 1
def byteOk (b : Byte) : Bool := b.toNat < 4
def byteFull (b : Byte) : Bool := b.getLsbD 0
def bytePhase (b : Byte) : Bool := b.getLsbD 1
def mkByte (full phase : Bool) : Byte := BitVec.ofNat 8 ((if full then 1 else 0) + (if phase then 2 else 0))
def State.setSlotByte (s : State) (pa i : Nat) (b : Byte) : State := s.setBytes (.glob (pa + 64 + i)) [b]

/-- RING.POST's step on a slot (R228). -/
def State.ringPost (s : State) (p : Nat) (r : Ring) (slot : Word) : Except ObjErr State :=
  match refusedFirst (s.ringMem p r) (r.slotOf slot).isNone (.bad cRingState r.ent) with
  | .error e => .error e
  | .ok x =>
    let i := (r.slotOf slot).getD 0
    let b := s.slotByte x.pa i
    if s.slotSpoiled x.pa i then .error (.bad cScratchEcc r.ent)
    else if !byteOk b || byteFull b then .error (.bad cRingState r.ent)
    else .ok ((s.touch p x true).setSlotByte x.pa i (mkByte true (bytePhase b)))

/-- A channel whose multicast binding receives into the ring gets one credit for its core (R273). -/
def Chan.credit (c : Chan) (p base : Nat) : Chan := match c.mc with
  | none => c
  | some m =>
    if c.part ≠ p then c else
    let ks := m.credits.mapIdx fun k n =>
      if (dw m.dwords 0).getLsbD k && bitsOf (dw m.dwords (k + 1)) 51 9 * 512 = base then n + 1 else n
    { c with mc := some { m with credits := ks } }

def State.creditRing (s : State) (p base : Nat) : State :=
  if s.chans.any fun e => e.2.mc.isSome then { s with chans := s.chans.map fun e => (e.1, e.2.credit p base) } else s

/-- RING.REL's step on a slot (R230), with the credit of R273. -/
def State.ringRel (s : State) (p : Nat) (r : Ring) (slot : Word) : Except ObjErr State :=
  match refusedFirst (s.ringMem p r) (r.slotOf slot).isNone (.bad cRingState r.ent) with
  | .error e => .error e
  | .ok x =>
    let i := (r.slotOf slot).getD 0
    let b := s.slotByte x.pa i
    if s.slotSpoiled x.pa i then .error (.bad cScratchEcc r.ent)
    else if !byteOk b || !byteFull b then .error (.bad cRingState r.ent)
    else .ok (((s.touch p x true).setSlotByte x.pa i (mkByte false (!bytePhase b))).creditRing p r.base)

/-- Take the next count of a counter of a ring (R227, R231, R232): the slot, its phase, the ring memory's physical
address. `which` is 0 for count0 and 8 for count1. -/
def State.ringCount (s : State) (p : Nat) (r : Ring) (which : Nat) : Except ObjErr (Nat × Bool × Nat × State) :=
  match s.ringMem p r with
  | .error e => .error e
  | .ok x =>
    let c := s.dword (x.pa + which)
    let i := c.toNat % r.slots
    if s.poisoned (.glob (x.pa + which)) 8 || s.slotSpoiled x.pa i then .error (.bad cScratchEcc r.ent)
    else if !byteOk (s.slotByte x.pa i) then .error (.bad cRingState r.ent)
    else .ok (i, c.toNat / r.slots % 2 = 1, x.pa, (s.touch p x true).setDword (x.pa + which) (c + 1))

/-- Is a slot in the wanted state? -/
def State.slotIs (s : State) (pa i : Nat) (full phase : Bool) : Bool :=
  let b := s.slotByte pa i
  byteFull b == full && bytePhase b == phase

/-! ### Counted barriers -/

/-- What an agent does to a barrier: arrives, changes pending, or only reads it. -/
inductive BarOp where
  | arrive | pend (d : Int) | look
deriving DecidableEq, Repr

/-- A barrier's two dwords (R182): phase, remaining, pending, expected, scope. -/
structure BarObj where
  phase     : Bool
  remaining : Int
  pending   : Int
  expected  : Nat
  dev       : Bool
deriving DecidableEq, Repr

def barObj (d0 d1 : Word) : BarObj :=
  ⟨d0.getLsbD 63, bitsOf d0 59 36, toI true 36 (bitsOf d0 35 0), bitsOf d1 23 0, d1.getLsbD 24⟩

/-- Malformed: expected 0 or a reserved bit set (R183). -/
def barBad (d0 d1 : Word) : Bool := bitsOf d0 62 60 ≠ 0 || bitsOf d1 63 25 ≠ 0 || bitsOf d1 23 0 = 0

/-- The state dword. -/
def BarObj.word (b : BarObj) : Word :=
  BitVec.ofNat 64 ((if b.phase then 2 ^ 63 else 0) + wrapI 24 b.remaining * 2 ^ 36 + wrapI 36 b.pending)

/-- One step on a well-formed barrier: none when a count leaves its range (R183). -/
def BarObj.step (b : BarObj) (o : BarOp) : Option BarObj :=
  let r := match o with
    | .arrive => b.remaining - 1
    | _ => b.remaining
  let q := match o with
    | .pend d => b.pending + d
    | _ => b.pending
  if r < 0 ∨ q < -(2 ^ 35) ∨ 2 ^ 35 ≤ q then none
  else if r = 0 ∧ q = 0 ∧ o ≠ .look then some { b with phase := !b.phase, remaining := b.expected, pending := 0 }
  else some { b with remaining := r, pending := q }

/-- A barrier operation at an address (R183, R187): the phase before the step and the state after it.
(Log entry 34, DESIGN CHOICE.) -/
def State.barrier (s : State) (p : Nat) (strict : Bool) (a : Word) (o : BarOp) : Except ObjErr (Bool × State) :=
  match s.objXlat p a .atomic with
  | .error e => .error (if e.isPage && a.toNat % 16 ≠ 0 then .bad cMisaligned a else e)
  | .ok x =>
    if a.toNat % 16 ≠ 0 then .error (.bad cMisaligned a)
    else if s.poisoned (.glob x.pa) 16 then .error (.bad cScratchEcc a) else
    let d0 := s.dword x.pa
    let d1 := s.dword (x.pa + 8)
    if strict && d1.getLsbD 24 then .error (.bad cAtomicScope a)
    else if barBad d0 d1 then .error (.bad cRingState a)
    else match (barObj d0 d1).step o with
      | none => .error (.bad cRingState a)
      | some b =>
        let s1 := s.touch p x (o ≠ .look)
        .ok (d0.getLsbD 63, if o = .look then s1 else s1.setDword x.pa b.word)

/-- Is a barrier's scope .dev (R182)? -/
def State.barDev (s : State) (p : Nat) (a : Word) : Bool := match s.objXlat p a .atomic with
  | .ok x => (s.dword (x.pa + 8)).getLsbD 24
  | .error _ => false

/-! ### Futures and continuation records -/

/-- A malformed future word (R332). -/
def futBad (w : Word) : Bool := match bitsOf w 63 62 with
  | 0 => bitsOf w 61 0 ≠ 0
  | 1 => bitsOf w 61 40 = 0 || bitsOf w 39 0 = 0
  | _ => bitsOf w 61 40 ≠ 0
def futSettled (w : Word) : Bool := 2 ≤ bitsOf w 63 62

/-- The physical address of a future, with the checks of R340. -/
def State.futXlat (s : State) (p : Nat) (a : Word) : Except ObjErr Xlat :=
  let r := s.objXlat p a .atomic
  match r with
  | .error (.bad c b) => .error (.bad c b)
  | _ =>
    if a.toNat % 8 ≠ 0 then .error (.bad cMisaligned a) else
    match r with
    | .ok x => if localMem x.pa then .ok x else .error (.bad cAtomicScope a)
    | .error e => .error e

/-- A list of waiters that a settle leaves to be walked (R333). -/
def State.addWalk (s : State) (p head : Nat) : State := s.modPart p fun q => { q with walks := q.walks ++ [head] }

/-- The settling step (R333): `st` 2 RESOLVED or 3 FAULTED. -/
def State.settle (s : State) (p : Nat) (a : Word) (st : Nat) (val : Nat) : Except ObjErr State :=
  match s.futXlat p a with
  | .error e => .error e
  | .ok x =>
    let w := s.dword x.pa
    if s.poisoned (.glob x.pa) 8 then .error (.bad cScratchEcc a)
    else if futBad w then .error (.bad cFutState a)
    else if futSettled w then .error (.bad cFutDouble a)
    else
      let s1 := (s.touch p x true).setDword x.pa (BitVec.ofNat 64 (st * 2 ^ 62 + val % 2 ^ 40))
      .ok (if bitsOf w 63 62 = 1 then s1.addWalk p (bitsOf w 39 0) else s1)

/-- The record and slot a list entry names (R332). -/
def headRec (h : Nat) : Nat := h / 4 * 256
def headSlot (h : Nat) : Nat := h % 4

/-- Queue a ready record for resumption (R336). -/
def State.queueRec (s : State) (p rec : Nat) : State := s.modPart p fun q => match aget q.saves rec with
  | some v => { q with ready := q.ready ++ [(rec, v.grid)] }
  | none => q

/-- Dword 0 of a continuation record: state, pending, resume address (R334). -/
def recWord (st pending pc : Nat) : Word := BitVec.ofNat 64 (st * 2 ^ 62 + pending % 8 * 2 ^ 59 + pc % 2 ^ 52)

/-- Lower a record's pending count in one step, and queue it when it reaches 0 (R333, R335). -/
def State.lowerPending (s : State) (p rec : Nat) : State :=
  match s.objXlat p (BitVec.ofNat 64 rec) .atomic with
  | .error _ => s
  | .ok x =>
    if s.poisoned (.glob x.pa) 8 then s else
    let d := s.dword x.pa
    let n := bitsOf d 61 59
    let s1 := s.touch p x true
    if n = 1 then (s1.setDword x.pa (recWord 2 0 (bitsOf d 51 0))).queueRec p rec
    else s1.setDword x.pa (recWord (bitsOf d 63 62) (n - 1) (bitsOf d 51 0))

end Sys2Proof.Machine
end

