-- ==== Sys2Proof/Machine/Agents.lean ====
section
/-!
DEFINITION. What the Harness and the Tree unit do on behalf of any agent: fault records
(R241, R242), queue errors (R364), the cactus region (R321), frames, regions and holds (R322 to R328), the end of waves,
blocks and grids (R10, R11, R104, R327).
-/
namespace Sys2Proof.Machine

/-! ### Fault records (R241, R242) -/

def nextSeq (n : Nat) : Nat := if n = 0xFFFFFFFF then 1 else n + 1

/-- A new fault record, to be written once its slot is free. -/
def State.newRec (s : State) (p code engine access core : Nat) (addr : Word) (lanes : Lanes) (pc : Nat) (who : FWho) :
    State × Nat :=
  let q := s.part p
  let r : FRec := ⟨q.seq, code, engine, access, core, addr, lanes, pc, false, who, none⟩
  (s.setPart p { q with seq := nextSeq q.seq, recs := q.recs ++ [r] }, q.seq)

/-- Withdraw records (R245, R402). -/
def State.withdraw (s : State) (p : Nat) (gone : FWho → Bool) : State :=
  if (s.part p).recs.isEmpty then s
  else s.modPart p fun q => { q with recs := q.recs.filter (fun r => !gone r.who) }

/-! ### Queues (R363, R364) -/

def Part.queue (p : Part) (q : Nat) : Queue := (aget p.queues q).getD Queue.reset
/-- Module queue number of queue `j`, which shows as a number below 1,024. (Log entry 46, DEDUCED.) -/
def Part.qnum (p : Part) (j : Nat) : Nat := bitsOf (sget p.entry 9) 41 32 + j
def Part.hasQueue (p : Part) (j : Nat) : Bool := decide (j < bitsOf (sget p.entry 9) 10 0)
/-- The die of the firmware core that works for queue `j` (R5, R357). -/
def Part.qdie (p : Part) (j : Nat) : Nat := p.qnum j % 32 / 8
def State.queue (s : State) (p q : Nat) : Queue := (s.part p).queue q
def State.setQueue (s : State) (p q : Nat) (x : Queue) : State :=
  s.modPart p fun r => { r with queues := aset r.queues q x }
def State.modQueue (s : State) (p q : Nat) (f : Queue → Queue) : State := s.setQueue p q (f (s.queue p q))

/-- Queue a completion record to be written in its turn (R372). -/
def State.pushRec (s : State) (p q : Nat) (r : CRec) : State := s.modQueue p q fun x => { x with recs := x.recs ++ [r] }

/-- Enter ERROR from IDLE, ACTIVE or FETCH_PARKED: one completion record for the error, that of the packet at the head
where its header has been read, and vector 2 (R364, R365, R403). -/
def State.queueError (s : State) (p q code offset tag : Nat) : State :=
  let x := s.queue p q
  let rec_ : CRec := ⟨x.gen, x.head, tag, 0, code, 0, 0, offset, x.irq, []⟩
  let s1 := s.setQueue p q { x with st := .error, code := code, offset := offset, gang := [], pipes := [], off := false }
  (s1.pushRec p q rec_).interrupt p 2 ((s.part p).qdie q)

/-- An ERROR that writes no record: of an enable, or of a refused record write (R364, R373). -/
def State.queueErrorMute (s : State) (p q code : Nat) : State :=
  (s.modQueue p q fun x => { x with st := .error, code := code, offset := 0, off := false }).interrupt p 2 ((s.part p).qdie q)

/-! ### The cactus region (R321) -/

def Part.cbase (p : Part) (die : Nat) : Nat := bitsOf (sget p.ctx (5 + die)) 51 8 * 256
def Part.clen (p : Part) (die : Nat) : Nat := bitsOf (sget p.ctx (9 + die)) 31 0 * 256

def alignUp (a n : Nat) : Nat := (a + n - 1) / n * n

/-- The lowest free place for an object in a die's region: at its start or behind an allocated object. R225 and R321 leave
the choice to the Harness and the Tree unit. (Log entry 47, DESIGN CHOICE.) -/
def Part.place (p : Part) (die len align : Nat) : Option Nat :=
  let lo := p.cbase die
  let hi := lo + p.clen die
  let free (a : Nat) : Bool := decide (a + len ≤ hi) && decide (lo ≤ a) &&
    !p.allocs.any fun x => overlaps x.base x.len a len
  let starts := alignUp lo align :: p.allocs.map fun x => alignUp (x.base + x.len) align
  (starts.filter free).foldl (fun (m : Option Nat) a => match m with
    | none => some a
    | some b => some (min a b)) none

/-- Do all bytes translate for writing? (R321) -/
def State.canWrite (s : State) (p base len : Nat) : Bool :=
  match s.translateAll p (BitVec.ofNat 64 base) len .store with
  | .ok _ => true
  | .error _ => false

def State.addAlloc (s : State) (p die base len : Nat) (k : AllocKind) : State :=
  s.modPart p fun q => { q with allocs := ⟨die, base, len, k⟩ :: q.allocs }
def State.freeAlloc (s : State) (p : Nat) (k : AllocKind) : State :=
  s.modPart p fun q => { q with allocs := q.allocs.filter (fun a => decide (a.kind ≠ k)) }

/-- Allocate an object: its base, or none when the region has no room; `bad` when its bytes do not translate. -/
inductive Got where
  | at (base : Nat) | full | bad
deriving DecidableEq, Repr

/-- Log entry 47, DESIGN CHOICE. -/
def State.alloc (s : State) (p die n align : Nat) (k : AllocKind) : Got × State :=
  let len := alignUp n 256
  if n = 0 then (.at 0, s) else
  match (s.part p).place die len align with
  | none => (.full, s)
  | some base => if s.canWrite p base len then (.at base, s.addAlloc p die base len k) else (.bad, s)

/-- The Harness's and Tree unit's own writes, which have been checked to translate. -/
def State.putVia (s : State) (p die base : Nat) (bs : List Byte) : State :=
  match s.writeVia p (BitVec.ofNat 64 base) bs .store die with
  | .ok s1 => s1
  | .error _ => s

def State.zeroVia (s : State) (p die base len : Nat) : State := s.putVia p die base (List.replicate len 0)

/-! ### Frames and regions (R322 to R328) -/

/-- Units of 256 bytes of a grid's frame. -/
def Kernel.units (k : Kernel) : Nat := 1 + (k.frame + 255) / 256

/-- The frame header's first eight dwords (R322). -/
def Grid.header (g : Grid) : List Word :=
  [BitVec.ofNat 64 (g.hold % 2 ^ 24 * 2 ^ 40 + g.kern.level * 2 ^ 36 + (if g.detach then 2 ^ 35 else 0)
      + (if g.root then 2 ^ 34 else 0) + g.prio % 8 * 2 ^ 31),
   BitVec.ofNat 64 g.up, BitVec.ofNat 64 g.kern.frame,
   BitVec.ofNat 64 (g.budget % 2 ^ 32 * 2 ^ 32 + g.used % 2 ^ 32),
   BitVec.ofNat 64 (g.maxblk % 2 ^ 32 * 2 ^ 32 + g.blocks % 2 ^ 32),
   BitVec.ofNat 64 g.cfut, BitVec.ofNat 64 g.lrec, BitVec.ofNat 64 (g.kids % 2 ^ 32)]

/-- The Tree unit writes the header's changing fields. (Log entry 34, DESIGN CHOICE.) -/
def State.syncFrame (s : State) (gid : Nat) : State := match aget s.grids gid with
  | none => s
  | some g => s.putVia g.part g.die g.frame (bytesOfDwords g.header)

/-- Change a grid and write its header. -/
def State.modFrame (s : State) (gid : Nat) (f : Grid → Grid) : State := (s.modGrid gid f).syncFrame gid

/-- A grid and its launchers, nearest first (R326). -/
def State.chainN (s : State) : Nat → Nat → List Nat
  | 0, _ => []
  | n + 1, gid => match aget s.grids gid with
    | none => []
    | some g => gid :: (match g.parent with
      | none => []
      | some h => State.chainN s n h)
def State.chain (s : State) (gid : Nat) : List Nat := s.chainN (s.grids.length + 1) gid

/-- The grid whose live frame lies at an address of a partition. -/
def State.frameGrid (s : State) (p F : Nat) : Option Nat :=
  (s.grids.find? fun e => e.2.part = p && e.2.frame = F && decide (0 < e.2.hold)).map Prod.fst

/-- The distinct frames a grid's display names below its own level (R328). -/
def Grid.heldFrames (g : Grid) : List Nat :=
  (((List.range g.kern.level).map fun i => (sget g.dsp i).toNat).filter (· ≠ 0)).eraseDups

/-- Lower a frame's hold count; the frame is freed when it reaches 0 (R328). -/
def State.lowerHold (s : State) (gid : Nat) : State := match aget s.grids gid with
  | none => s
  | some g =>
    if g.hold ≤ 1 then ({ s with grids := aerase s.grids gid } : State).freeAlloc g.part (.frame gid)
    else s.modFrame gid fun g => { g with hold := g.hold - 1 }

/-! ### Ending waves, blocks and grids -/

/-- Discard a wave's twins (R198). -/
def State.dropTwins (s : State) (w : Wave) : State :=
  let n := (w.forks.filter fun f => f.twin.isSome).length
  if n = 0 then s else
  let s1 := w.forks.foldl (fun (s : State) f => match f.twin with
    | some t => { s with waves := aerase s.waves t }
    | none => s) s
  s1.modCore w.core fun c => { c with squashed := c.squashed + BitVec.ofNat 64 n }

/-- Squash a wave's live forks with a cause that acts at once (R198, causes 8 to 10): the records become train-only. -/
def State.squashForks (s : State) (wid cause : Nat) : State := match aget s.waves wid with
  | none => s
  | some w =>
    if w.forks.all (fun f => f.twin.isNone) then s else
    let mark (f : ForkRec) : ForkRec :=
      if f.twin.isSome then { f with twin := none, clash := if f.clash = 0 then cause else f.clash } else f
    (s.dropTwins w).setWave { w with forks := w.forks.map mark }

/-- Remove a wave, its twins and its fork frames. A killed wave's stores that are still in its queue are discarded with it.
(Log entry 33, DEDUCED.) -/
def State.removeWave (s : State) (wid : Nat) : State := match aget s.waves wid with
  | none => s
  | some w =>
    let s1 := s.dropTwins w
    let s2 : State := { s1 with waves := aerase s1.waves wid }
    let s3 := if w.forks.isEmpty then s2 else s2.freeAlloc w.part (.fork wid)
    s3.withdraw w.part fun who => match who with
      | .path x _ => x = wid
      | _ => false

def State.removeWaves (s : State) (gone : Wave → Bool) : State :=
  (s.waves.filter fun e => gone e.2).foldl (fun s e => s.removeWave e.1) s

/-- The states in which a channel belongs to its grid (R266). -/
def Chan.busy (c : Chan) : Bool := match c.st with
  | .running | .waiting | .parked | .frozen => true
  | _ => false

/-- Ask channels to halt at their next instruction boundary (R278). -/
def State.haltChans (s : State) (which : Chan → Bool) (h : Halt) : State :=
  { s with chans := s.chans.map fun e => (e.1, if e.2.busy && which e.2 then { e.2 with halt := h } else e.2) }

/-- Lock owner number of a core's matrix engine. -/
def mxOwner (core : Nat) : Nat := 1152 + core

/-- The cores whose waves' accesses a lock's table checks: its own, and for a scratchpad range all of the cluster, whose
block windows reach it (R100, R126). (Log entry 30, DEDUCED.) -/
def Lock.cores (l : Lock) : List Nat := if l.scr then (List.range 4).map fun i => l.core / 4 * 4 + i else [l.core]

/-- Remove an owner's range locks; the cores whose accesses they held see what was performed under them, their L1 empty (R9,
R117, R126). (Log entry 30, DEDUCED.) -/
def State.dropLocks (s : State) (owner : Nat) : State :=
  if s.msys.locks.isEmpty then s else
  let mine := (((s.msys.locks.filter fun k => k.owner = owner).map Lock.cores).flatten).eraseDups
  let s1 := s.setMsys { s.msys with locks := s.msys.locks.filter (fun k => decide (k.owner ≠ owner)) }
  mine.foldl State.l1Empty s1

/-- Discard an engine's operations and its locks (R104, R306, R402). -/
def State.discardMx (s : State) (core : Nat) : State :=
  (s.modCore core fun c => { c with mx := { c.mx with ops := [], parked := none } }).dropLocks (mxOwner core)

/-- Discard the operations of the grids or blocks given. -/
def State.discardOps (s : State) (which : MxOp → Bool) : State :=
  (s.cores.filter fun e => e.2.mx.ops.any which).foldl (fun s e =>
    let rest := e.2.mx.ops.filter fun o => !which o
    if e.2.mx.ops.head?.any which then
      ((s.modCore e.1 fun c => { c with mx := { c.mx with ops := rest, parked := none } }).dropLocks (mxOwner e.1))
    else s.modCore e.1 fun c => { c with mx := { c.mx with ops := rest } }) s

/-- Free what a block holds in the cactus region, and let its grid's chain count it no more (R321, R326). -/
def State.freeBlock (s : State) (b : Block) (p : Nat) : State :=
  let s1 := s.freeAlloc p (.spill b.id)
  let s2 := if b.saved then s1 else s1.freeAlloc p (.blockRing b.grid b.id)
  let s3 : State := { s2 with blocks := aerase s2.blocks b.id }
  (s3.chain b.grid).foldl (fun s g => s.modFrame g fun x => { x with blocks := x.blocks - 1 }) s3

/-- Give the matrix engines of a block's cores back (R298). -/
def State.freeEngines (s : State) (b : Block) : State :=
  b.cores.foldl (fun s c => if (s.core c).mx.owner = some b.id
    then s.modCore c fun k => { k with mx := { k.mx with owner := none } } else s) s

/-- All ones: the block field when no block of the grid took the fault (R11). -/
def noBlock : Word := BitVec.allOnes 64

/-- The root of a grid's fault domain (R327). -/
def State.domain (s : State) (gid : Nat) : Nat :=
  let l := s.chain gid
  (l.find? fun g => match aget s.grids g with
    | some x => x.root
    | none => false).getD (l.getLastD gid)

/-- The grids that end with a grid's fault: its domain, and every descendant of those not launched detached (R327). -/
def State.dying (s : State) (gid : Nat) : List Nat :=
  let d := s.domain gid
  (s.grids.filter fun e => !e.2.ended && (s.domain e.1 = d || (s.chain e.1).any fun a => s.domain a = d)).map Prod.fst

/-- The channels and engines as a partition has them: what the Saddlebag holds of them, while it does (R249). -/
def State.chanOf (s : State) (p c : Nat) : Chan := (aget (s.part p).chans c).getD (s.chan c)
def State.engineOf (s : State) (p k : Nat) : Matrix := (aget (s.part p).engines k).getD (s.core k).mx

/-- Withdraw the records of channels and engines that work for some grids or blocks (R245): an engine's record is its
oldest operation's. -/
def State.withdrawEngines (s : State) (p : Nat) (ofChan : Chan → Bool) (ofOp : MxOp → Bool) : State :=
  s.withdraw p fun who => match who with
    | .chan c => (s.chanOf p c).busy && ofChan (s.chanOf p c)
    | .mx k => (s.engineOf p k).ops.head?.any ofOp
    | _ => false

/-- A saved channel that its grid's fault ends; one whose record's completion action has been performed first makes the
record's own write, or keeps it for its return while that meets an invalid entry (R278, R354). (Log entry 26, DEDUCED;
log entry 32, DEDUCED.) -/
def State.endSaved (s : State) (p code : Nat) (c : Chan) : State × Chan :=
  let ended : Chan := { c with st := .faulted, code := code, mc := none, halt := .none, stop := false }
  if c.ph ≠ .own then (s, ended) else
  match s.writeVia p (BitVec.ofNat 64 (c.recd + 4)) (bytesOf 4 (bitsOf (dw c.dwords 0) 62 32)) .store (dieOfCore c.core) with
  | .ok s1 => (s1, { ended with done := c.done + 1 })
  | .error .rights => (s, ended)
  | .error .pageFault => (s, { c with halt := .fault code })

/-- Some chains and operations end in the Saddlebag's image of a partition, with their locks (R11, R249, R278).
(Log entry 26, DEDUCED.) -/
def State.stopSaved (s : State) (p code : Nat) (ofChan : Chan → Bool) (ofOp : MxOp → Bool) : State :=
  let q := s.part p
  if q.chans.isEmpty && q.engines.isEmpty then s else
  let ends (c : Chan) : Bool := c.busy && ofChan c
  let engine (m : Matrix) : Matrix :=
    { m with ops := m.ops.filter (fun o => !ofOp o), parked := if m.ops.head?.any ofOp then none else m.parked }
  let gone (k : Lock) : Bool := if k.owner < 1152 then (aget q.chans k.owner).any ends
    else (aget q.engines (k.owner - 1152)).any fun m => m.ops.head?.any ofOp
  let (s1, chans) := q.chans.foldl (fun (x : State × Assoc Chan) e =>
    let (s1, c) := if ends e.2 then x.1.endSaved p code e.2 else (x.1, e.2)
    (s1, x.2 ++ [(e.1, c)])) (s, [])
  s1.modPart p fun r => { r with
    chans := chans
    engines := q.engines.map fun e => (e.1, engine e.2)
    locks := q.locks.filter fun k => !gone k }

/-- Stop a grid at once: its waves, channels, matrix operations, blocks, reductions and continuations (R11). -/
def State.stopGrid (s : State) (gid code : Nat) (blk : Word) : State := match aget s.grids gid with
  | none => s
  | some g =>
    if g.fault.isSome || g.ended then s else
    let s0 := s.withdrawEngines g.part (fun c => c.grid = gid) fun o => o.grid = gid
    let s1 := (s0.removeWaves fun w => w.grid = gid).stopSaved g.part code (fun c => c.grid = gid) fun o => o.grid = gid
    let s2 := s1.haltChans (fun c => c.grid = gid) (.fault code)
    let s3 := s2.discardOps fun o => o.grid = gid
    let s4 := (s3.blocks.filter fun e => e.2.grid = gid).foldl
      (fun s e => (s.freeEngines e.2).freeBlock { e.2 with saved := false } g.part) s3
    let s5 := s4.setMsys { s4.msys with contribs := s4.msys.contribs.filter (fun c => decide (c.grid ≠ gid)) }
    let s6 := s5.modPart g.part fun q => { q with ready := q.ready.filter (fun r => decide (r.2 ≠ gid)) }
    s6.modGrid gid fun x => { x with st := .faulted, fault := some (code, blk), saves := [] }

/-- A grid ends by a fault (R11, R327): every grid that ends with it carries the code; only the grid itself names the
faulting block. -/
def State.endGrid (s : State) (gid code : Nat) (blk : Word) : State :=
  (s.dying gid).foldl (fun s g => s.stopGrid g code (if g = gid then blk else noBlock)) s

/-! ### Window buffers of the slices (R98, R393) -/

/-- The die of an address's home slice. -/
def homeDie (pa : Nat) : Nat := match region pa with
  | .dram d => d
  | _ => pa / 256 % 4

/-- The contributions of a partition that lie at a slice of a die. (Log entry 31, DESIGN CHOICE.) -/
def State.heldAt (s : State) (p die slice : Nat) : List Contrib := s.msys.contribs.filter fun c =>
  homeDie c.pa = die && Config.sliceOf c.pa % 48 = slice && (aget s.grids c.grid).any fun g => g.part = p

/-- Contributions that a slice's buffer holds for each partition. -/
def windowBuffer : Nat := 65536

/-- The contributions on a die beyond what the buffers of its slices hold. (Log entry 31, DESIGN CHOICE.) -/
def State.spilledOn (s : State) (die : Nat) : Nat :=
  if s.msys.contribs.length ≤ windowBuffer then 0 else
  ((s.parts.map fun e => (List.range 48).map fun k => (s.heldAt e.1 die k).length - windowBuffer).flatten).foldl (· + ·) 0

/-- Are the buffer of an address's slice and the spill area of its die full? (Log entry 31, DESIGN CHOICE.) -/
def State.windowFull (s : State) (p pa : Nat) : Bool :=
  decide (windowBuffer ≤ s.msys.contribs.length) &&
  decide (windowBuffer ≤ (s.heldAt p (homeDie pa) (Config.sliceOf pa % 48)).length) &&
  decide (0x4000000 / Config.spillBytes ≤ s.spilledOn (homeDie pa))

/-- The linear index of a block, as fault records give it. -/
def State.blockIdx (s : State) (b : Nat) : Word := match aget s.blocks b with
  | some x => BitVec.ofNat 64 x.idx
  | none => noBlock

/-- A block kill (R104, R395): its waves stop, its chains halt, its matrix operations are discarded and its locks
released, its engines freed; then the block waits for its relaunch, or its grid faults with SCRATCH_ECC.
(Log entry 33, DEDUCED.) -/
def State.killBlock (s : State) (bid : Nat) : State := match aget s.blocks bid with
  | none => s
  | some b => match aget s.grids b.grid with
    | none => s
    | some g =>
      if b.killed then s else
      let s0 := s.withdrawEngines g.part (fun c => c.block = bid) fun o => o.block = bid
      let s1 := s0.removeWaves fun w => w.block = bid
      let s2 := s1.haltChans (fun c => c.block = bid) (.fault cScratchEcc)
      let s3 := s2.discardOps fun o => o.block = bid
      let owners := (s3.chans.filter fun e => e.2.block = bid).map Prod.fst
      let s4 := (owners.foldl (fun s c => s.dropLocks c) s3).freeEngines b
      let nested := s4.grids.any fun e => e.2.origin = some bid && !e.2.ended
      if !g.kern.idem || b.again || nested || b.resolved || b.saved || (g.strict && b.winOut) then
        s4.endGrid b.grid cScratchEcc (BitVec.ofNat 64 b.idx)
      else
        let kept := s4.msys.contribs.filter fun c => !(g.strict && c.bid = bid)
        let s5 := s4.setMsys { s4.msys with contribs := kept }
        s5.modBlock bid fun x => { x with killed := true, again := true, bars := [], run := 0, owed := false }

/-- The skew monitor: when every block of a round has finished, a spread of finish times beyond the bound gives one
SKEW record with the slowest block (R382, R403). -/
def State.checkSkew (s : State) (gid idx : Nat) : State := match aget s.grids gid with
  | none => s
  | some g => match g.queue with
    | none => s
    | some j =>
      let e := max 1 g.place.length
      let lo := idx / e * e
      let round := (List.range e).filterMap fun i => (aget g.fin (lo + i)).map fun t => (lo + i, t.toNat)
      if g.skew = 0 || decide (round.length < min e (g.gx * g.gy * g.gz - lo)) then s else
      let last := round.foldl (fun (m : Nat × Nat) x => if m.2 < x.2 then x else m) (round.headD (0, 0))
      let first := round.foldl (fun m x => min m x.2) last.2
      if last.2 - first ≤ g.skew then s else
      s.pushRec g.qpart j ⟨g.qgen, g.packet, g.tag, 1, 0, BitVec.ofNat 64 last.1, BitVec.ofNat 64 (last.2 - first), 0, true, []⟩

/-- A block's end (R321, R326, R371, R382): what it holds is freed and its grid counts it done. -/
def State.endBlock (s : State) (bid : Nat) : State := match aget s.blocks bid with
  | none => s
  | some b => match aget s.grids b.grid with
    | none => s
    | some g =>
      let s1 := (s.freeEngines b).freeBlock b g.part
      if b.cont then s1 else
      (s1.modGrid b.grid fun x =>
        { x with done := x.done + 1, fin := if g.skew = 0 then x.fin else aset x.fin b.idx s.time.elapsed }).checkSkew b.grid b.idx

end Sys2Proof.Machine
end

