-- ==== Sys2Proof/Machine/Paths.lean ====
section
/-!
DEFINITION. How the paths of a wave divide, wait and meet again (R72, R77 to R81, R239): pure functions of the wave.
-/
namespace Sys2Proof.Machine

/-- Lanes that have not exited. -/
def Wave.live (w : Wave) : Lanes := widthMask w.width &&& ~~~w.exited

/-- A new path number. -/
def Wave.newPath (w : Wave) : Nat := (w.paths.foldl (fun m p => max m p.id) 0) + 1

/-- Where a path stands: a header not yet fetched. -/
def Path.goto (p : Path) (a : Nat) : Path := { p with hdr := a, idx := 0, clause := none, st := .run, head := false }

/-- Replace some paths by one that holds all their lanes, under the lowest of their numbers; it goes on as the one that
issued last, if that was among them (R81). -/
def Wave.merge (w : Wave) (which : Path → Bool) (f : Path → Path) : Wave :=
  match w.paths.find? which with
  | none => w
  | some p =>
    let id := (w.paths.filter which).foldl (fun m q => min m q.id) p.id
    let lanes := (w.paths.filter which).foldl (fun (m : Lanes) q => m ||| q.lanes) 0
    { w with
      paths := f { p with id := id, lanes := lanes } :: w.paths.filter (fun q => !which q)
      runPath := w.runPath.map fun r => if (w.paths.filter which).any fun q => q.id = r then id else r }

/-- Does the path run on in strict mode: has it not come to wait at a join, meeting point or barrier, blocked or exited
(R81)? A path that is parked, or that waits for a return stack's refill or a ticket, has not. (Log entry 20, DEDUCED.) -/
def Wave.stays (w : Wave) (id : Nat) : Bool := (w.path id).any fun p => match p.st with
  | .run | .parked _ => true
  | .op n => w.ops.any fun o => o.id = n && (match o.kind with
    | .refill _ | .ticket _ _ => true
    | _ => false)
  | _ => false

/-- The path that ran last is the running path no longer, once it has come to wait. -/
def Wave.keepRun (w : Wave) : Wave := { w with runPath := w.runPath.filter w.stays }

/-! ### JOIN (R78, R175) -/

/-- Waiting at the JOIN of `j` whose next header is `hdr`. -/
def Path.atJoin (hdr j : Nat) (handler : Bool) (q : Path) : Bool := match q.st with
  | .join k _ => k = j && q.hdr = hdr && q.handler == handler
  | _ => false

/-- Lanes waiting there. -/
def Wave.joinLanes (w : Wave) (hdr j : Nat) (handler : Bool) : Lanes :=
  (w.paths.filter (Path.atJoin hdr j handler)).foldl (fun (m : Lanes) q => m ||| q.lanes) 0

/-- Is a waiting path's join complete: has every lane it names exited or come to wait there? -/
def Wave.joinDone (w : Wave) (p : Path) : Bool := match p.st with
  | .join j m => m &&& ~~~(w.exited ||| w.joinLanes p.hdr j p.handler) = 0
  | _ => false

/-- Complete a join: the paths there go on as one, and jN and its partner mask become 0. -/
def Wave.completeJoin (w : Wave) (p : Path) : Wave := match p.st with
  | .join j _ =>
    let w1 := w.merge (Path.atJoin p.hdr j p.handler) fun q => { q with st := .run }
    { w1 with j := sset w1.j j 0, jp := sset w1.jp j 0 }
  | _ => w

/-! ### Meeting points (R80, R177) -/

def Path.atMeet (a : Nat) (q : Path) : Bool := q.st = .meet && q.hdr = a

/-- Lanes not exited whose mtg holds `a`. -/
def Wave.meeters (w : Wave) (a : Nat) : Lanes :=
  lanesOf ((laneList w.live).filter fun l => sget w.mtg l = BitVec.ofNat 64 a)

def Wave.meetDone (w : Wave) (a : Nat) : Bool :=
  let here := (w.paths.filter (Path.atMeet a)).foldl (fun (m : Lanes) q => m ||| q.lanes) 0
  here ≠ 0 && w.meeters a &&& ~~~here = 0

/-- The lanes waiting at a meeting point go on as one path, their mtg 0. -/
def Wave.completeMeet (w : Wave) (a : Nat) : Wave :=
  let here := (w.paths.filter (Path.atMeet a)).foldl (fun (m : Lanes) q => m ||| q.lanes) 0
  let w1 := w.merge (Path.atMeet a) fun q => { q with st := .run }
  { w1 with mtg := (laneList here).foldl (fun m l => sset m l 0) w1.mtg }

/-- Lanes of a path at a header whose mtg names it wait there; the others go on (R80). -/
def Wave.reachHeader (w : Wave) (p : Path) : Wave :=
  let here := lanesOf ((laneList p.lanes).filter fun l => p.hdr ≠ 0 && sget w.mtg l = BitVec.ofNat 64 p.hdr)
  if here = 0 then w else
  let rest := p.lanes &&& ~~~here
  let w1 := if rest = 0 then w.setPath { p with st := .meet }
    else { w.setPath { p with lanes := rest } with
      paths := { p with id := w.newPath, lanes := here, st := .meet } :: (w.setPath { p with lanes := rest }).paths }
  (if w1.meetDone p.hdr then w1.completeMeet p.hdr else w1).keepRun

/-! ### After lanes have exited (R178) -/

/-- Complete every join and meeting point that now can be: each pass completes at most one. -/
def Wave.recheck : Nat → Wave → Wave
  | 0, w => w
  | n + 1, w =>
    match w.paths.find? (fun p => w.joinDone p) with
    | some p => Wave.recheck n (w.completeJoin p)
    | none =>
      match w.paths.find? (fun p => p.st = .meet && w.meetDone p.hdr) with
      | some p => Wave.recheck n (w.completeMeet p.hdr)
      | none => w

/-! ### Dividing by target (R79, R239) -/

/-- Insert a number into a rising list. -/
def insertNat (n : Nat) : List Nat → List Nat
  | [] => [n]
  | m :: l => if n < m then n :: m :: l else if n = m then m :: l else m :: insertNat n l

/-- The distinct targets of a path's lanes, lowest first. -/
def targetsOf (l : List (Nat × Nat)) : List Nat := l.foldr (fun e acc => insertNat e.2 acc) []

/-- Send a path's lanes to their targets, one path for each; the lowest target's path keeps the number and goes first. -/
def Wave.divide (w : Wave) (p : Path) (tgt : List (Nat × Nat)) : Wave :=
  match targetsOf tgt with
  | [] => w
  | t0 :: rest =>
    let lanesTo (t : Nat) : Lanes := lanesOf ((tgt.filter fun e => e.2 = t).map Prod.fst)
    let first := { p.goto t0 with lanes := lanesTo t0 }
    let others := rest.mapIdx fun k t => { p.goto t with lanes := lanesTo t, id := w.newPath + k }
    { w.setPath first with
      paths := (w.setPath first).paths ++ others, runPath := some p.id, pinned := !rest.isEmpty }

/-- The path may issue: it runs, and the wave is not in handler mode but for handler paths (R238). -/
def Wave.runnable (w : Wave) (p : Path) : Bool :=
  decide (p.st = .run) && (w.trap.isNone || p.handler) && p.lanes ≠ 0

/-- The lowest lane of a set. -/
def lowestLane (m : Lanes) : Nat := (laneList m).headD 64

/-- May this path of the wave issue next, of the wave's own choice (R79, R81)? A path that is within a clause, or that
a division lets run first, goes before another; in strict mode the running path goes on, and after it the path with the
lowest lane. -/
def Wave.mayRun (w : Wave) (p : Path) : Bool :=
  w.runnable p &&
  (match w.runPath.bind w.path with
  | some r => if w.strict then p.id = r.id else !(w.pinned && w.runnable r) || p.id = r.id
  | none => !w.strict || w.paths.all fun q => !w.runnable q || decide (lowestLane p.lanes ≤ lowestLane q.lanes))

end Sys2Proof.Machine
end

