-- ==== Sys2Proof/Machine/Ops.lean ====
section
/-!
DEFINITION. Issue of a wave's word and what every word shares: taking a precise fault and leaving handler mode (R236 to
R240), the checks before a word (R21, R39, R44), its retirement (R23, R41), and the two wrappers every meaning goes
through: `guarded` for wave words and `engine` for Awl engine words.
-/
namespace Sys2Proof.Machine

/-! ### Taking a precise fault (R236, R237, R240) -/

def cIllegalOp : Nat := 0x01
def cPrefixMisuse : Nat := 0x02
def cClauseFormat : Nat := 0x03
def cFetchAlign : Nat := 0x04
def cRoleViolation : Nat := 0x05
def cStallShort : Nat := 0x06
def cRegRange : Nat := 0x07
def cPageFault : Nat := 0x10
def cRetEmpty : Nat := 0x20
def cFrameLevel : Nat := 0x21
def cFrameExhaust : Nat := 0x22
def cContOversize : Nat := 0x25
def cMxParam : Nat := 0x30
def cMxOperand : Nat := 0x31
def cAwlAddrOvf : Nat := 0x40
def cAwlRecord : Nat := 0x41
def cAwlIllegal : Nat := 0x42
def cAwlPage : Nat := 0x43
def cTrapSw : Nat := 0x60
def cBreakpoint : Nat := 0x61
def cWatchdog : Nat := 0x7F

/-- A precise fault: its code, lanes and address, the address that tpc holds, the word's index in its clause and the
class that tcause shows, and whether a twin held it (R237). -/
structure FaultAt where
  code  : Nat
  lanes : Lanes
  addr  : Word
  pc    : Nat
  word  : Nat
  cls   : Nat
  twin  : Bool
deriving DecidableEq, Repr

/-- tcause (R237). -/
def FaultAt.cause (f : FaultAt) : Word :=
  BitVec.ofNat 64 (f.word % 16 * 2 ^ 20 + f.cls % 8 * 2 ^ 17 + (if f.twin then 2 ^ 16 else 0) + f.code % 256)

/-- Handler entry address, window base and size of a partition (R238, R361). -/
def Part.hentry (p : Part) : Nat := bitsOf (sget p.ctx 0) 51 0
def Part.hbase (p : Part) : Nat := bitsOf (sget p.ctx 1) 51 0
def Part.hsize (p : Part) : Nat := bitsOf (sget p.ctx 2) 31 0

/-- The faulting path enters handler mode at the entry address: the trap registers take the fault, tpc an address of 52
bits (R237), every fixed-latency
result has been written (R42), and the path goes to the entry (R236 to R238). (Log entry 18, DEDUCED.)
(Log entry 17, DEDUCED.) -/
def Wave.enterHandler (w : Wave) (p : Path) (f : FaultAt) (h : Part) : Wave :=
  let t : Trap := ⟨f.cause, BitVec.ofNat 64 (f.pc % 2 ^ 52), f.lanes &&& widthMask w.width, f.addr, h.hentry, h.hbase, h.hsize, f.code, .run, false⟩
  { w.setPath { p.goto h.hentry with handler := true } with trap := some t, late := [], runPath := some p.id, pinned := false }

/-- TAKING A FAULT (R236). A twin holds it (R196). An uncorrectable scratchpad error kills the block (R104), in handler
mode too, where R240 names any other fault (log entry 33, DEDUCED). In handler mode any other fault is a double fault and ends the grid with the code that first entered (R240). Otherwise the wave's forks
are squashed (R198, cause 9), and the path enters the partition's handler, or the grid ends by the fault (R11).
(Log entry 17, DEDUCED.) -/
def takeFault (s : State) (wid pid : Nat) (f : FaultAt) : State := match aget s.waves wid with
  | none => s
  | some w => match w.path pid with
    | none => s
    | some p =>
      match w.twin with
      | some t => s.modWave wid fun w => { w with twin := some { t with held := some ⟨f.code, f.lanes, f.addr, f.pc, f.word, f.cls⟩ } }
      | none =>
        if f.code = cScratchEcc then s.killBlock w.block else
        let blk := s.blockIdx w.block
        match w.trap with
        | some t => if p.handler then s.endGrid w.grid t.first blk else s
        | none =>
          let s1 := s.squashForks wid 9
          let h := s.part w.part
          if h.hentry = 0 then s1.endGrid w.grid f.code blk
          else s1.modWave wid fun w => w.enterHandler p f h

/-- A wait point in handler mode is a double fault (R240). (Log entry 18, DEDUCED.) -/
def doubleFault (s : State) (w : Wave) : State := match w.trap with
  | some t => s.endGrid w.grid t.first (s.blockIdx w.block)
  | none => s

/-! ### Leaving handler mode (R239) -/

/-- Where a lane that leaves to `target` resumes: at the faulting word, or after it for TRAP and BRK, when the target is
tpc, else at a clause header. -/
def Trap.resumeAt (t : Trap) (target : Nat) : Nat × Nat :=
  if target = t.pc.toNat then
    let word := bitsOf t.cause 23 20
    let hdr := target - 4 * word
    if bitsOf t.cause 7 0 = cTrapSw || bitsOf t.cause 7 0 = cBreakpoint then (hdr, word + 1) else (hdr, word)
  else (target, 0)

/-- The state of a path that has left the handler: it runs, but one that a drain entry took out of a wait waits again,
unless what it waited for has ended (R247, R248). -/
def Trap.after (t : Trap) (ops : List PendOp) (q : Path) : PathSt :=
  if t.first = 0 && (q.hdr, q.idx) = t.resumeAt t.pc.toNat then
    match t.held with
    | .op id => if ops.any fun o => o.id = id then .op id else .run
    | st => st
  else .run

/-- The lanes that left to one target form one path there. -/
def Wave.mergeLeft (w : Wave) (st : Path → PathSt) : Nat → Wave
  | 0 => w
  | n + 1 => match w.paths.find? (fun q => decide (q.st = .left)) with
    | none => w
    | some p =>
      Wave.mergeLeft (w.merge (fun q => decide (q.st = .left) && q.hdr = p.hdr && q.idx = p.idx)
        fun q => { q with st := st q }) st n

/-- When no lane remains in handler mode, the held paths and the lanes that left run again and the trap registers
clear. (Log entry 18, DEDUCED.) -/
def Wave.leaveHandler (w : Wave) : Wave := match w.trap with
  | none => w
  | some t =>
    if w.paths.any fun q => q.handler then w
    else { (w.mergeLeft (t.after w.ops) w.paths.length) with trap := none, pinned := false }.keepRun

/-- Is a target inside the latched handler window? -/
def Trap.inWindow (t : Trap) (a : Nat) : Bool := decide (t.base ≤ a) && decide (a < t.base + t.size)

/-! ### Registers a word names (R21, R44, R198) -/

def fldRegs (f : Fld) : List RegName := match f.kind with
  | .v => [.v f.val]
  | .vpair => [.v f.val, .v (f.val + 1)]
  | .s => [.s f.val]
  | .p => if f.val = 0 then [] else [.p f.val]
  | .j => [.j f.val]
  | _ => []

def sigFields (g : Sig) : List Fld := g.flds ++ g.extra
def sigReads (g : Sig) : List RegName := (((sigFields g).filter fun f => f.rd).map fldRegs).flatten
def sigWrites (g : Sig) : List RegName := (((sigFields g).filter fun f => f.wr).map fldRegs).flatten

/-- A register at or above the declared count (R21, R212). -/
def fldTooHigh (f : Fld) (vregs sregs : Nat) : Bool := match f.kind with
  | .v => decide (vregs ≤ f.val)
  | .vpair => decide (vregs ≤ f.val + 1)
  | .s => decide (sregs ≤ f.val)
  | _ => false

/-- Words whose result depends on an fctl field (R198). -/
def usesFctl : Instr → Bool
  | .fadd .. | .fsub .. | .fmul .. | .fma .. | .fmin .. | .fmax .. | .fmaxix .. | .frnd .. | .fcmpEq .. | .fcmpNe ..
  | .fcmpLt .. | .fcmpLe .. | .fcmpUn .. | .frcp .. | .frsq .. | .fsqrt .. | .fdiv .. | .fexp2 .. | .flog2 .. | .fsin ..
  | .fcos .. | .ftanh .. | .cvt .. | .cvts .. | .sclSc8F32 .. | .dot .. | .fctlRd .. => true
  | .redux k _ => k ≠ .addI32
  | _ => false

def readsOf (i : Instr) (g : Sig) : List RegName := (sigReads g) ++ (if usesFctl i then [.fctl] else [])
def writesOf (i : Instr) (g : Sig) : List RegName := (sigWrites g) ++ (match i with
  | .fctlWr _ => [.fctl]
  | .meet _ | .meetV _ => [.mtg]
  | _ => [])

/-- Words at which a twin stalls until its fork resolves (R195). (Log entry 19, DEDUCED.) -/
def stallsTwin (i : Instr) (g : Sig) : Bool := match i with
  | .ldo .. | .sto .. | .fence _ | .fenceScSys _ | .atomAdd .. | .atomMin .. | .atomMax .. | .atomMaxix _ | .atomAnd _
  | .atomOr _ | .atomXor _ | .atomXchg _ | .cas .. | .redAddF32 _ | .redAddN64 _ | .redFlush _ | .barSync _
  | .barArrive _ | .barWait _ | .barExpect _ | .ringClaim _ | .ringPost _ | .ringAwait _ | .ringRel _ | .send _ | .recv _
  | .nlaunch _ | .nlaunchSeq _ | .nlaunchDet _ | .ldf _ | .stf _ | .atomf _ | .movd _ | .futNew _ | .futResolve _
  | .futAwait _ | .futPoll _ | .futFail _ | .contSave _ | .contWake _ | .exit _ | .yield _ | .forkKill _ | .forkClr _
  | .trap _ | .brk _ => true
  | _ => g.cls = .mtx || g.cls = .awl

/-- Words that act only when no lane of their mask is parked (R84). -/
def crossLane : Instr → Bool
  | .shfl _ | .shflX _ | .shflUp _ | .shflDn _ | .bcast _ | .redux .. | .vote .. | .perm _ => true
  | _ => false

/-- Words that read a vector register in lanes outside their active set. -/
def readsAcross : Instr → Bool
  | .ulane _ => true
  | i => crossLane i

/-! ### Issue of a word -/

/-- Lanes of a set whose mask predicate is true; without a prefix mask, all of them (R27, R36). -/
def maskLanes (w : Wave) (t fresh : Nat) (m : Lanes) : Option Pfx → Lanes
  | none => m
  | some p =>
    if p.mask = 0 then m else
    let r : RegName := .p p.mask.toNat
    lanesOf ((laneList m).filter fun l => w.readAt t fresh r l ≠ 0)

/-- The clock at which the wave's next word issues. -/
def State.issueClock (s : State) (w : Wave) : Nat := max s.clock w.ready

/-- The issue context of the word of `i`, whose first word stands at index `idx` of the clause at `hdr`. -/
def State.wctx (s : State) (w : Wave) (p : Path) (g : Sig) (hdr : Nat) (hword : BitVec 32) (idx next : Nat) : WCtx :=
  let t := s.issueClock w
  { w := w, p := p, t := t, fresh := s.fresh, hdr := hdr, hword := hword, idx := idx, next := next, pfx := g.pfx, lat := g.lat, ctr := g.ctr
    act := maskLanes w t s.fresh p.lanes g.pfx }

def WCtx.fault (c : WCtx) (code : Nat) (lanes : Lanes) (addr : Word) : FaultAt :=
  ⟨code, lanes, addr, c.addr, c.idx, (c.hword.extractLsb 27 25).toNat, false⟩

/-- Words whose FETCH_ALIGN shows class 0: its target comes from a register, lk or the return stack (R237). -/
def regTarget : Instr → Bool
  | .brx _ | .callx _ | .ret _ => true
  | _ => false

/-- A word's own fault. -/
def WCtx.ownFault (c : WCtx) (i : Instr) (code : Nat) (lanes : Lanes) (addr : Word) : FaultAt :=
  if code = cFetchAlign && regTarget i then { c.fault code lanes addr with cls := 0 } else c.fault code lanes addr

/-- What the checks before a word's effect find. -/
inductive Ready where
  | go | wait | bad (code : Nat) (lanes : Lanes)
deriving DecidableEq, Repr

/-- Is the counter that a word raises at its ceiling (R23)? Such a word is not ready (R74). -/
def Wave.atCeiling (w : Wave) (g : Sig) : Bool := g.ctr.any fun k => decide (63 ≤ w.ctr.getD k 0)

/-- The twin's stall (R195) and the counter ceiling (R23, R74), before any check of the word, checks 7 to 9 of R40 in their
order, and the parked lanes of cross-lane words (R84): all parked lanes of the wave in which the mask predicate is true, those of
paths that had diverged before among them. (Log entry 37, DEDUCED.) -/
def readyCheck (i : Instr) (g : Sig) (c : WCtx) : Ready :=
  if c.w.twin.isSome && stallsTwin i g then .wait
  else if c.w.atCeiling g then .wait
  else if (sigFields g).any fun f => fldTooHigh f c.w.vregs c.w.sregs then .bad cRegRange c.act
  else if (g.cls = .awl && c.w.role = 0 && (match i with | .awlGo _ => false | _ => true))
      || (g.cls = .mtx && c.w.role = 3 && (match i with | .mxPop _ => false | _ => true)) then
    .bad cRoleViolation c.act
  else if c.w.stallcheck && ((sigReads g).any (fun r => c.w.owed c.t r) ||
      (sigWrites g).any (fun r => c.w.ops.any fun o => o.owes.contains r)) then .bad cStallShort c.act
  else if crossLane i && maskLanes c.w c.t c.fresh c.w.parked c.pfx ≠ 0 then .wait
  else .go

/-- The path moves past its word: to the next word, or past the clause's last word to the next header (R30). -/
def WCtx.advanced (c : WCtx) : Path :=
  if c.next ≤ (c.hword.extractLsb 31 28).toNat then { c.p with idx := c.next } else c.p.goto c.after

def WCtx.advance (c : WCtx) (s : State) : State := s.modWave c.w.id fun w => { w.setPath c.advanced with pinned := false }

/-- The path that has issued: under its number, or the one that took its lanes in (R81). -/
def Wave.ranAs (w : Wave) (p : Path) : Nat :=
  if (w.path p.id).isSome then p.id else ((w.paths.find? fun q => q.lanes &&& p.lanes ≠ 0).map Path.id).getD p.id

def stallClocks (b : BitVec 2) : Nat := if b = 3 then 7 else if b = 2 then 3 else if b = 1 then 1 else 0

/-- Does cause 5 of R198 concern the register? All but v0 to v3. -/
def RegName.clashes : RegName → Bool
  | .v n => decide (4 ≤ n)
  | _ => true

/-- Registers of some lanes. -/
def regsOn (m : Lanes) (l : List RegName) : RegSet := l.map fun r => (r, if r.uniform then 1 else m)

/-- What a twin has read before writing it, and written (R198); what a callee with a live fork has written. -/
def Wave.track (w : Wave) (rd wr : RegSet) : Wave :=
  let w1 := match w.twin with
    | none => w
    | some t => { w with twin := some { t with rd := RegSet_add t.rd (RegSet_minus rd t.wr), wr := RegSet_add t.wr wr } }
  if w1.forks.isEmpty then w1 else
  let add (f : ForkRec) : ForkRec := if f.twin.isSome then { f with wrote := RegSet_add f.wrote wr } else f
  { w1 with forks := w1.forks.map add }

/-- Cause 5: the callee has written a register that the twin read before writing it. -/
def regClash (wrote rd : RegSet) : Bool := wrote.any fun e => e.1.clashes && e.2 &&& RegSet_at rd e.1 ≠ 0

/-- Record cause 5 where it has arisen, for the forks of wave `wid`. -/
def State.noteClash (s : State) (wid : Nat) : State := match aget s.waves wid with
  | none => s
  | some w =>
    if w.forks.isEmpty then s else
    let rdOf (f : ForkRec) : RegSet := (((f.twin.bind (aget s.waves)).bind Wave.twin).map Twin.rd).getD []
    let f (r : ForkRec) : ForkRec :=
      if r.twin.isSome && r.clash = 0 && regClash r.wrote (rdOf r) then { r with clash := 5 } else r
    s.modWave wid fun w => { w with forks := w.forks.map f }

/-- The predicate a prefix masks by, which is read in every lane of the path. (Log entry 19, DEDUCED.) -/
def maskReads : Option Pfx → List RegName
  | some p => if p.mask = 0 then [] else [.p p.mask.toNat]
  | none => []

/-- Track registers of a wave that is a twin or has forks, and record cause 5. -/
def State.trackRegs (s : State) (wid : Nat) (rd wr : RegSet) : State := match aget s.waves wid with
  | none => s
  | some w =>
    if w.twin.isNone && w.forks.isEmpty then s else
    let s1 := s.modWave wid fun w => w.track rd wr
    s1.noteClash (match w.twin with
      | some t => t.parent
      | none => wid)

/-- mtg in the lanes where two states of a wave differ, and the j registers in which they do: what a join or a meeting
point has cleared (R198). -/
def Wave.metRegs (w w' : Wave) : RegSet :=
  (.mtg, lanesOf ((laneList (widthMask w.width)).filter fun l => sget w.mtg l ≠ sget w'.mtg l)) ::
    (((List.range 8).filter fun n => sget w.j n ≠ sget w'.j n || sget w.jp n ≠ sget w'.jp n).map fun n => (RegName.j n, 1#64))

/-- The lanes in which a word reads its vector registers. -/
def WCtx.readLanes (c : WCtx) (i : Instr) : Lanes := if readsAcross i then widthMask c.w.width else c.act

/-- What a word has written: its registers in its active lanes and in those a `zero` prefix clears; a SPLIT that divides
nothing writes no j register (R174); and what joins and meeting points it completed have cleared. -/
def WCtx.wrote (c : WCtx) (i : Instr) (g : Sig) (w : Wave) : RegSet :=
  let own := match i with
    | .split _ => if w.paths.length = c.w.paths.length then [] else writesOf i g
    | _ => writesOf i g
  RegSet_add (regsOn (c.act ||| c.zeroed) own) (c.w.metRegs w)

/-- The port of a sub-core that issues a word (R75): 0 for A, 1 for B, 2 for C. -/
def sigPort (g : Sig) : Nat := if g.ctl then 2 else match g.cls with
  | .vec => 0
  | .uni | .mem => 1
  | _ => 2

/-- The key of a sub-core's port in its core. -/
def Wave.portKey (w : Wave) (port : Nat) : Nat := 3 * w.sub + port

/-- The clocks for which a word has its port: two for a wave of 64 lanes (R76). -/
def Wave.portClocks (w : Wave) : Nat := if w.width = 64 then 2 else 1

/-- After a word: its port is taken, the stall and occupancy of R41, the clock, results whose latency has passed, the path that issued, the
registers tracked for forks, and a new number for free choices. -/
def retire (i : Instr) (g : Sig) (c : WCtx) (s : State) : State :=
  let occ := if c.w.width = 64 then 2 * g.occ else g.occ
  let s0 := s.modCore c.w.core fun k => { k with ports := aset k.ports (c.w.portKey (sigPort g)) (c.t + c.w.portClocks) }
  let s1 := s0.modWave c.w.id fun w =>
    let w1 := { w with issued := c.t + 1, ready := c.t + occ + stallClocks g.st, late := w.late.filter (fun e => decide (c.t < e.ends)) }
    let w2 := { w1 with
      runPath := some (w1.ranAs c.p), pinned := decide (c.advanced.idx ≠ 0) || (w1.pinned && w1.runPath = some c.p.id) }
    w2.keepRun
  let s2 := s1.trackRegs c.w.id (RegSet_add (regsOn c.p.lanes (maskReads c.pfx)) (regsOn (c.readLanes i) (readsOf i g))) (c.wrote i g ((aget s1.waves c.w.id).getD c.w))
  { s2 with clock := max s2.clock c.t, fresh := s2.fresh + 1 }

/-- A word that faults has named its registers to its fork (R198). -/
def WCtx.named (c : WCtx) (i : Instr) (g : Sig) (s : State) : State :=
  s.trackRegs c.w.id (RegSet_add (regsOn c.p.lanes (maskReads c.pfx)) (regsOn (c.readLanes i) (readsOf i g))) []

/-- Issue a wave's word: checks, then its effect on the state in which its path has moved on, and its retirement; or its
fault, taken on the state before it; or, if it has to wait, nothing. -/
def issueWord (i : Instr) (body : WCtx → State → Res) (s : State) (wid pid hdr : Nat) (hword : BitVec 32)
    (idx next : Nat) : State :=
  match aget s.waves wid, i.sig with
  | some w, some g => match w.path pid with
    | none => s
    | some p =>
      let c := s.wctx w p g hdr hword idx next
      match readyCheck i g c with
      | .wait => s
      | .bad code lanes => takeFault (c.named i g s) wid pid (c.fault code lanes 0)
      | .go => match body c (c.advance s) with
        | .ok s1 => retire i g c s1
        | .fault code lanes addr => takeFault (c.named i g s) wid pid (c.ownFault i code lanes addr)
        | .faultIn s1 code lanes addr => takeFault (c.named i g s1) wid pid (c.ownFault i code lanes addr)
        | .hold => s
  | _, _ => s

/-! ### Awl channels: faults and the wrapper of engine words (R49, R275 to R278) -/

/-- Release a channel's locks and its multicast binding (R273, R277, R278). -/
def State.endChain (s : State) (c : Nat) (st : ChanSt) : State :=
  ((s.modChan c fun x => { x with st := st, mc := none, halt := .none, stop := false }).dropLocks c).withdraw
    (s.chan c).part fun who => match who with
      | .chan k => k = c
      | _ => false

/-- A channel fault (R277): the chain ends in state 4 with the code, its locks are released, its record's own bit stays.
SCRATCH_ECC kills the starting block (R104); with action 3 the record's future becomes FAULTED and the grid runs on,
when that settle can be made; else the grid faults. -/
def State.chanFault (s : State) (c code fpc : Nat) (addr : Word) : State :=
  let ch := s.chan c
  let s1 := (s.endChain c .faulted).modChan c fun x => { x with code := code, fpc := fpc, faddr := addr }
  if code = cScratchEcc && (aget s.blocks ch.block).isSome then s1.killBlock ch.block else
  let idx := BitVec.ofNat 64 ch.bidx
  let future := bitsOf (dw ch.dwords 0) 62 60 = 3 && code ≠ cFutDouble && code ≠ cScratchEcc && ch.ph ≠ .start
  match (if future then s1.settle ch.part (BitVec.ofNat 64 (bitsOf (dw ch.dwords 7) 51 0)) 3
      (code + idx.toNat % 2 ^ 32 * 256) else .error (.bad 0 0)) with
  | .ok s2 => s2
  | .error _ => s1.endGrid ch.grid code idx

/-- AWL_PAGE parks the channel with a fault record of engine 1 (R276). -/
def State.chanPark (s : State) (c access fpc : Nat) (addr : Word) : State :=
  let ch := s.chan c
  let (s1, n) := s.newRec ch.part cAwlPage 1 access ch.core addr 0 fpc (.chan c)
  s1.modChan c fun x => { x with st := .parked, code := cAwlPage, seq := n, fpc := fpc, faddr := addr }

/-- What an engine word's meaning knows: its channel, the clause header and the word's place in it. -/
structure ECtx where
  c     : Nat
  ch    : Chan
  hdr   : Nat
  hword : BitVec 32
  idx   : Nat
  next  : Nat

def ECtx.addr (e : ECtx) : Nat := e.hdr + 4 * e.idx
def ECtx.after (e : ECtx) : Nat := afterClause e.hdr e.hword
def ECtx.x (e : ECtx) (n : BitVec 7) : Word := sget e.ch.x n.toNat

/-- What an engine word's meaning answers: the state after it; a channel fault; one after posts that stand (R293); an
invalid translation entry, which parks the channel; that the channel waits (state 2); or that the word is issued again.
-/
inductive ERes where
  | ok (s : State)
  | fault (code : Nat) (addr : Word)
  | faultIn (s : State) (code : Nat) (addr : Word)
  | page (access : Nat) (addr : Word)
  | wait (s : State)
  | hold

/-- The channel stands at its word again: it waits there. -/
def ECtx.back (e : ECtx) (s : State) : State := s.modChan e.c fun x =>
  { x with hdr := e.ch.hdr, idx := e.ch.idx, clause := e.ch.clause }

/-- The channel moves past its word (R30, R284). -/
def ECtx.advance (e : ECtx) (s : State) : State := s.modChan e.c fun x =>
  if e.next ≤ (e.hword.extractLsb 31 28).toNat then { x with idx := e.next, st := .running }
  else { x with hdr := e.after, idx := 0, clause := none, st := .running }

/-- Issue an engine word on a channel. (Log entry 16, DEDUCED.) -/
def engineWord (body : ECtx → State → ERes) (s : State) (c hdr : Nat) (hword : BitVec 32) (idx next : Nat) : State :=
  let e : ECtx := ⟨c, s.chan c, hdr, hword, idx, next⟩
  match body e (e.advance s) with
  | .ok s1 => { s1 with fresh := s1.fresh + 1 }
  | .fault code addr => s.chanFault c code e.addr addr
  | .faultIn s1 code addr => s1.chanFault c code e.addr addr
  | .page access addr => s.chanPark c access e.addr addr
  | .wait s1 => s1.modChan c fun x => { x with st := .waiting }
  | .hold => s

/-- A word met where it may not stand: a wave word on an engine raises AWL_ILLEGAL (R49), an engine word or unassigned
entry in a wave's clause ILLEGAL_OP (R48). -/
def illegalHere (s : State) : State := match s.cur with
  | .wave wid pid hdr hword idx _ => match aget s.waves wid with
    | some w => match w.path pid with
      | some p => takeFault s wid pid ⟨cIllegalOp, p.lanes, 0, hdr + 4 * idx, idx, (hword.extractLsb 27 25).toNat, false⟩
      | none => s
    | none => s
  | .chan c hdr _ idx _ => s.chanFault c cAwlIllegal (hdr + 4 * idx) 0
  | _ => s

def Cursor.onWord : Cursor → Bool
  | .wave .. | .chan .. => true
  | _ => false

/-- The wrapper of every wave word's meaning. -/
def guarded (i : Instr) (body : WCtx → State → Res) (s : State) : Host.Outcome State Fault Refusal :=
  match s.cur with
  | .wave wid pid hdr hword idx next => .next (issueWord i body s wid pid hdr hword idx next)
  | .chan .. => .next (illegalHere s)
  | _ => .fault .noAgent

/-- The wrapper of every engine word's meaning. -/
def engine (body : ECtx → State → ERes) (s : State) : Host.Outcome State Fault Refusal :=
  match s.cur with
  | .chan c hdr hword idx next => .next (engineWord body s c hdr hword idx next)
  | .wave .. => .next (illegalHere s)
  | _ => .fault .noAgent

/-- The wrapper of every event's meaning: its operands, and the state after it. -/
def event (body : EvArg → State → State) (s : State) : Host.Outcome State Fault Refusal :=
  match s.cur with
  | .event a => .next (body a s)
  | _ => .fault .noAgent

end Sys2Proof.Machine
end

