-- ==== Sys2Proof/Machine/Engine.lean ====
section
/-!
DEFINITION. How engines reach memory: the bytes a die sees and writes (R120), and the checks and accesses of an Awl
channel (R280, R288, R289). An engine's access is performed at once, at its word (log entry 15, DESIGN CHOICE).
-/
namespace Sys2Proof.Machine

/-! ### Runs of places -/

/-- Whom an engine's write is for: the die it goes out from, the partition and the grid. -/
structure Writer where
  die  : Nat
  part : Nat
  grid : Nat

/-- Write bytes over runs of places. (Log entry 15, DESIGN CHOICE.) -/
def State.writeRuns (s : State) (by_ : Writer) : List (Loc × Nat) → List Byte → State
  | [], _ => s
  | (loc, n) :: rest, bs => State.writeRuns ((s.diePut by_.die loc (bs.take n) by_.part).wrote by_.grid loc n) by_ rest (bs.drop n)

/-! ### A channel's checks (R280) -/

/-- Space of an engine access: an Awl address, whose bit 63 chooses; global; or local scratchpad. -/
inductive ASpace where
  | reg | glob | scr
deriving DecidableEq, Repr

/-- An access that an engine instruction makes: space, exact first address, bytes, kind, alignment required. -/
structure AAcc where
  sp    : ASpace
  a     : Int
  n     : Nat
  acc   : Acc
  align : Nat
deriving DecidableEq, Repr

/-- The 64-bit address an exact sum stands for. -/
def AAcc.word (x : AAcc) : Word := BitVec.ofInt 64 x.a

def AAcc.scr (x : AAcc) : Bool := match x.sp with
  | .reg => x.word.getLsbD 63
  | .glob => false
  | .scr => true

/-- The address within its space. -/
def AAcc.local_ (x : AAcc) : Int := match x.sp with
  | .reg => if x.word.getLsbD 63 then (bitsOf x.word 31 0 : Nat) else x.word.toNat
  | _ => x.a

/-- Order 1: the exact sums stay within 64 signed bits. -/
def AAcc.order1 (x : AAcc) : Bool := decide (-(2 ^ 63) ≤ x.a) && decide (x.a + x.n ≤ 2 ^ 63)

/-- Order 2: the bytes lie in their space. -/
def AAcc.order2 (ch : Chan) (x : AAcc) : Option Nat :=
  if x.scr then
    if (x.sp = .reg && bitsOf x.word 62 32 ≠ 0) || decide (x.local_ < ch.base) ||
      decide ((ch.base + ch.size : Nat) < x.local_ + x.n) then some cScratchBounds else none
  else if decide (x.local_ < 0) || decide (2 ^ 52 < x.local_ + x.n) then some cAccessRights else none

/-- Whom a channel's writes are for. -/
def Chan.writer (k : Chan) : Writer := ⟨dieOfCore k.core, k.part, k.grid⟩

/-- Why an engine access is not made. -/
inductive AErr where
  | fault (code : Nat) (addr : Word) | page (access : Nat) (addr : Word)
deriving DecidableEq, Repr

/-- Access bits of a fault record for an engine's access (R242). -/
def accBits (a : Acc) : Nat := match a with
  | .store => 2
  | .atomic | .ldo => 6
  | .fetch => 1
  | .load => 0

/-- An access's pages with their translations. -/
def State.accPages (s : State) (p : Nat) (x : AAcc) : List (Nat × Nat × Except XErr Xlat) :=
  if x.scr then [] else (pageRuns x.local_.toNat x.n).map fun e =>
    (e.1, e.2, match s.translate p (BitVec.ofNat 64 e.1) x.acc with
      | .ok t => (match region t.pa with
        | .page _ _ => .error .rights
        | _ => .ok t)
      | .error err => .error err)

def isRights (e : Nat × Nat × Except XErr Xlat) : Bool := match e.2.2 with
  | .error .rights => true
  | _ => false
def isPageFault (e : Nat × Nat × Except XErr Xlat) : Bool := match e.2.2 with
  | .error .pageFault => true
  | _ => false

/-- The runs of places an access covers, its pages having translated. -/
def AAcc.runs (ch : Chan) (x : AAcc) (pages : List (Nat × Nat × Except XErr Xlat)) : List (Loc × Nat) :=
  if x.scr then [(.scr ch.core x.local_.toNat, x.n)] else pages.filterMap fun e => match e.2.2 with
    | .ok t => some (.glob t.pa, e.2.1)
    | .error _ => none

/-- Set the accessed and dirty bits of an access's pages. -/
def State.touchPages (s : State) (p : Nat) (write : Bool) (pages : List (Nat × Nat × Except XErr Xlat)) : State :=
  pages.foldl (fun s e => match e.2.2 with
    | .ok t => s.touch p t write
    | .error _ => s) s

/-- The checks of R280 over every access of an instruction, in order, then the uncorrectable reads of R103 and R418: the
runs of each access, or the first failure. (Log entry 15, DESIGN CHOICE.) -/
def State.engineX (s : State) (ch : Chan) (all : List AAcc) : Except AErr (List (List (Loc × Nat)) × State) :=
  let l := all.filter fun x => x.n ≠ 0
  match all.find? fun x => !x.order1 with
  | some x => .error (.fault cAwlAddrOvf x.word)
  | none => match l.findSome? fun x => (x.order2 ch).map fun c => (c, x.word) with
    | some (code, a) => .error (.fault code a)
    | none => match l.find? fun x => x.local_.toNat % x.align ≠ 0 with
      | some x => .error (.fault cAwlIllegal x.word)
      | none =>
        let pages := l.map fun x => (x, s.accPages ch.part x)
        match pages.findSome? fun e => e.2.find? isRights with
        | some r => .error (.fault cAccessRights (BitVec.ofNat 64 r.1))
        | none => match pages.findSome? fun e => (e.2.find? isPageFault).map fun r => (accBits e.1.acc, r.1) with
          | some (bits, a) => .error (.page bits (BitVec.ofNat 64 a))
          | none =>
            let runs := all.map fun x => if x.n = 0 then [] else x.runs ch (s.accPages ch.part x)
            let bad := (all.zip runs).any fun e => !e.1.acc.writes && e.2.any fun r => s.eccHit r.1 r.2 || s.poisoned r.1 r.2
            if bad then .error (.fault cScratchEcc 0)
            else
              let reads := ((all.zip runs).filter fun e => !e.1.acc.writes).map Prod.snd
              .ok (runs, (pages.foldl (fun s e => s.touchPages ch.part e.1.acc.writes e.2) s).noteRefused ch.part (dieOfCore ch.core) reads.flatten)

/-- Turn a failure into the word's answer. -/
def AErr.res : AErr → ERes
  | .fault code a => .fault code a
  | .page access a => .page access a

/-- Turn an object's failure into the word's answer. -/
def ObjErr.res : ObjErr → ERes
  | .page a => .page 6 a
  | .bad code a => .fault code a

end Sys2Proof.Machine
end

