-- ==== Sys2Proof/Machine/Awl.lean ====
section
/-!
DEFINITION. The meanings of the Awl engine's words (R279 to R296): integer and control words, descriptors, moves and
operations on objects.
-/
namespace Sys2Proof.Machine

/-! ### Integer words (R281 to R283) -/

/-- Write an x register. -/
def State.setX (s : State) (e : ECtx) (d : BitVec 7) (x : Word) : State :=
  s.modChan e.c fun k => { k with x := sset k.x d.toNat x }

/-- f3, or the literal sign-extended (R279). -/
def ECtx.xb (e : ECtx) (o : OpsG) : Word := match o.lit with
  | some l => litSext l
  | none => e.x o.b

/-- An integer word. -/
def aOp (o : OpsG) (f : Word → Word → Word) (s : State) : Host.Outcome State Fault Refusal :=
  engine (fun e s => .ok (s.setX e o.d (f (e.x o.a) (e.xb o)))) s

/-- A.ADD (R281). -/
def execAAdd (o : OpsG) (s : State) : Host.Outcome State Fault Refusal := aOp o (fun a b => a + b) s
/-- A.SUB (R281). -/
def execASub (o : OpsG) (s : State) : Host.Outcome State Fault Refusal := aOp o (fun a b => a - b) s
/-- A.MUL (R281). -/
def execAMul (o : OpsG) (s : State) : Host.Outcome State Fault Refusal := aOp o (fun a b => a * b) s
/-- A.AND (R281). -/
def execAAnd (o : OpsG) (s : State) : Host.Outcome State Fault Refusal := aOp o (fun a b => a &&& b) s
/-- A.OR (R281). -/
def execAOr (o : OpsG) (s : State) : Host.Outcome State Fault Refusal := aOp o (fun a b => a ||| b) s
/-- A.XOR (R281). -/
def execAXor (o : OpsG) (s : State) : Host.Outcome State Fault Refusal := aOp o (fun a b => a ^^^ b) s
/-- A.SHL: 0 from 64 on (R281). -/
def execAShl (o : OpsG) (s : State) : Host.Outcome State Fault Refusal := aOp o ushlW s
/-- A.SHR: 0 from 64 on (R281). -/
def execAShr (o : OpsG) (s : State) : Host.Outcome State Fault Refusal := aOp o (ushrW .n) s
/-- A.SRA: all sign from 64 on (R281). -/
def execASra (o : OpsG) (s : State) : Host.Outcome State Fault Refusal := aOp o (ushrW .i) s
/-- A.MIN, signed (R281). -/
def execAMin (o : OpsG) (s : State) : Host.Outcome State Fault Refusal := aOp o (uminW .i) s
/-- A.MAX, signed (R281). -/
def execAMax (o : OpsG) (s : State) : Host.Outcome State Fault Refusal := aOp o (umaxW .i) s
/-- A.MOV of a register (R281). -/
def execAMov (o : OpsG) (s : State) : Host.Outcome State Fault Refusal := aOp o (fun a _ => a) s
/-- A.MOV of a literal (R281). -/
def execAMovImm (o : OpsG) (s : State) : Host.Outcome State Fault Refusal := aOp o (fun _ b => b) s
/-- A.NOP (R281). -/
def execANop (_o : OpsG) (s : State) : Host.Outcome State Fault Refusal := engine (fun _ s => .ok s) s

/-- Argument word `k` of the latched record (R268). -/
def Chan.arg (c : Chan) (k : Nat) : Nat :=
  let d := dw c.dwords (2 + k / 2)
  if k % 2 = 0 then bitsOf d 31 0 else bitsOf d 63 32

/-- A.ARG: the record's arguments and the starting wave's context (R282). -/
def execAArg (o : OpsG) (s : State) : Host.Outcome State Fault Refusal :=
  engine (fun e s =>
    let k := o.b.toNat
    let put (x : Word) : ERes := .ok (s.setX e o.d x)
    if k ≤ 5 then put (BitVec.ofNat 64 (e.ch.arg k))
    else if k = 6 then put (BitVec.ofNat 64 e.ch.recd)
    else if k = 7 then put (BitVec.ofNat 64 e.ch.base)
    else if k = 8 then put (BitVec.ofNat 64 e.ch.size)
    else if k = 9 then put (BitVec.ofNat 64 e.ch.core)
    else if 16 ≤ k ∧ k ≤ 21 then put (BitVec.ofInt 64 (toI true 32 (e.ch.arg (k - 16))))
    else .fault cAwlIllegal 0) s

/-- The die a channel's engine stands on. -/
def ECtx.die (e : ECtx) : Nat := dieOfCore e.ch.core

/-- A.LDX: `n` bytes at an exact Awl address (R283). -/
def execALdx (t : NW) (o : OpsG) (s : State) : Host.Outcome State Fault Refusal :=
  engine (fun e s =>
    let off : Int := match o.lit with
      | some l => l.toInt
      | none => (e.x o.b).toInt * t.bytes
    match s.engineX e.ch [⟨.reg, (e.x o.a).toInt + off, t.bytes, .load, 1⟩] with
    | .error x => x.res
    | .ok (runs, s1) => .ok (s1.setX e o.d (BitVec.ofNat 64 (ofBytes (s1.readRuns e.die runs.flatten))))) s

/-! ### Control (R284, R285) -/

/-- Go to H + 4 × offset. -/
def ECtx.jump (e : ECtx) (s : State) (off : Int) : State := s.modChan e.c fun k =>
  { k with hdr := (addOff (BitVec.ofNat 64 e.hdr) (4 * off)).toNat, idx := 0, clause := none }

def x5 (n : BitVec 5) : BitVec 7 := n.zeroExtend 7

/-- A compare and branch. -/
def aBranch (o : OpsAB) (taken : Word → Word → Bool) (s : State) : Host.Outcome State Fault Refusal :=
  engine (fun e s => .ok (if taken (e.x (x5 o.a)) (e.x (x5 o.b)) then e.jump s o.off.toInt else s)) s

/-- A.B (R284). -/
def execAB (o : OpsB) (s : State) : Host.Outcome State Fault Refusal := engine (fun e s => .ok (e.jump s o.off.toInt)) s
/-- A.BEQ (R284). -/
def execABeq (o : OpsAB) (s : State) : Host.Outcome State Fault Refusal := aBranch o (fun a b => decide (a = b)) s
/-- A.BNE (R284). -/
def execABne (o : OpsAB) (s : State) : Host.Outcome State Fault Refusal := aBranch o (fun a b => decide (a ≠ b)) s
/-- A.BLT, signed (R284). -/
def execABlt (o : OpsAB) (s : State) : Host.Outcome State Fault Refusal := aBranch o (fun a b => decide (a.toInt < b.toInt)) s
/-- A.BGE, signed (R284). -/
def execABge (o : OpsAB) (s : State) : Host.Outcome State Fault Refusal := aBranch o (fun a b => decide (b.toInt ≤ a.toInt)) s

/-- A.LOOP: counts, and branches while below (R284). -/
def execALoop (o : OpsAB) (s : State) : Host.Outcome State Fault Refusal :=
  engine (fun e s =>
    let a := e.x (x5 o.a) + 1
    let b := if o.a = o.b then a else e.x (x5 o.b)
    let s1 := s.setX e (x5 o.a) a
    .ok (if a.toNat < b.toNat then e.jump s1 o.off.toInt else s1)) s

/-- A.WAIT: the record's accesses are performed as they issue, but for writes that its die's ports still hold, for which the
channel waits in state 2 (R266, R285). (Log entry 15, DESIGN CHOICE.) -/
def execAWait (_o : OpsN) (s : State) : Host.Outcome State Fault Refusal :=
  engine (fun e s => if s.portsClear e.die then .ok s else .wait (e.back s)) s
/-- A.HALT: the record is to complete (R285). -/
def execAHalt (_o : OpsN) (s : State) : Host.Outcome State Fault Refusal :=
  engine (fun e s => .ok (s.modChan e.c fun k => { k with ph := .finish })) s
/-- A.TRAP (R285). -/
def execATrap (o : OpsN) (s : State) : Host.Outcome State Fault Refusal :=
  engine (fun _ _ => .fault cTrapSw (o.imm.zeroExtend 64)) s

/-! ### Tensor descriptors (R286, R287) -/

/-- A descriptor's dwords. -/
structure Td where
  base   : Word
  stride : Word
  coord  : Word
  dims   : Word
deriving DecidableEq, Repr

def tdOf (x : BitVec 256) : Td := ⟨x.extractLsb' 0 64, x.extractLsb' 64 64, x.extractLsb' 128 64, x.extractLsb' 192 64⟩
def Td.bits (t : Td) : BitVec 256 := (t.dims ++ t.coord ++ t.stride ++ t.base : BitVec 256)
def Td.c0 (t : Td) : Int := toI true 32 (bitsOf t.coord 31 0)
def Td.c1 (t : Td) : Int := toI true 32 (bitsOf t.coord 63 32)
def Td.esize (t : Td) : Nat := 2 ^ bitsOf t.dims 61 59
def Td.space (t : Td) : ASpace := if t.dims.getLsbD 62 then .scr else .glob

def ECtx.td (e : ECtx) (n : BitVec 7) : Td := tdOf (sget e.ch.td n.toNat)
def State.setTd (s : State) (e : ECtx) (n : BitVec 7) (t : Td) : State :=
  s.modChan e.c fun k => { k with td := sset k.td n.toNat t.bits }
def coords (x y : Nat) : Word := BitVec.ofNat 64 (x % 2 ^ 32 + y % 2 ^ 32 * 2 ^ 32)

/-- TD.SET (R287). -/
def execTdSet (o : OpsG) (s : State) : Host.Outcome State Fault Refusal :=
  engine (fun e s => .ok (s.setTd e o.d { e.td o.d with base := e.x o.a, stride := e.xb o })) s

/-- TD.DIM: a reserved bit or code raises AWL_ILLEGAL (R286, R287). -/
def execTdDim (o : OpsG) (s : State) : Host.Outcome State Fault Refusal :=
  engine (fun e s =>
    let x := e.x o.a
    if decide (2 ≤ bitsOf x 63 62) || decide (5 ≤ bitsOf x 61 59) || bitsOf x 58 56 ≠ 0 then .fault cAwlIllegal 0
    else .ok (s.setTd e o.d { e.td o.d with dims := x })) s

/-- TD.COORD (R287). -/
def execTdCoord (o : OpsG) (s : State) : Host.Outcome State Fault Refusal :=
  engine (fun e s => .ok (s.setTd e o.d { e.td o.d with coord := coords (e.x o.a).toNat (e.xb o).toNat })) s

/-- TD.STEP: a coordinate beyond 32 signed bits raises AWL_ADDR_OVF (R287). -/
def execTdStep (o : OpsG) (s : State) : Host.Outcome State Fault Refusal :=
  engine (fun e s =>
    let t := e.td o.d
    let x := t.c0 + toI true 32 (bitsOf (e.x o.a) 31 0)
    let y := t.c1 + toI true 32 (bitsOf (e.xb o) 31 0)
    let out (v : Int) : Bool := decide (v < -(2 ^ 31)) || decide (2 ^ 31 ≤ v)
    if out x || out y then .fault cAwlAddrOvf 0
    else .ok (s.setTd e o.d { t with coord := coords (wrapI 32 x) (wrapI 32 y) })) s

/-- TD.CLR (R287). -/
def execTdClr (o : OpsG) (s : State) : Host.Outcome State Fault Refusal :=
  engine (fun e s => .ok (s.modChan e.c fun k => { k with td := sset k.td o.d.toNat 0 })) s

/-! ### Moves (R288 to R292) -/

/-- The address of element (x, y), when it lies in the tensor (R288). -/
def Td.elem (t : Td) (x y : Int) : Option Int :=
  if 0 ≤ x ∧ x < (bitsOf t.dims 27 0 : Nat) ∧ 0 ≤ y ∧ y < (bitsOf t.dims 55 28 : Nat) then
    some (t.base.toInt + x * t.esize + y * t.stride.toInt) else none

/-- Add to the record's count of written bytes (R271). -/
def State.countBytes (s : State) (e : ECtx) (n : Nat) : State := s.modChan e.c fun k => { k with bytes := k.bytes + n }

/-- MV.BYTES (R290). -/
def execMvBytes (o : OpsG) (s : State) : Host.Outcome State Fault Refusal :=
  engine (fun e s =>
    let n := (e.x o.b).toNat
    let dst := (e.x o.d).toInt
    let src := (e.x o.a).toInt
    if 2 ^ 32 < n then .fault cAwlIllegal 0
    else if 2 ^ 63 ≤ src + n then .fault cAwlAddrOvf (e.x o.a)
    else if 2 ^ 63 ≤ dst + n then .fault cAwlAddrOvf (e.x o.d)
    else match s.engineX e.ch [⟨.reg, src, n, .load, 1⟩, ⟨.reg, dst, n, .store, 1⟩] with
      | .error x => x.res
      | .ok (runs, s1) =>
        .ok ((s1.writeRuns e.ch.writer (runs.getD 1 []) (s1.readRuns e.die (runs.getD 0 []))).countBytes e n)) s

/-- An element move: where it is read, none for pad, and where it is written, none when discarded. -/
abbrev ElemMove := Option Int × Option Int

/-- Move elements of `n` bytes from one space to another: every check, then every read, then the writes (R289). -/
def ECtx.move (e : ECtx) (s : State) (src dst : ASpace) (n : Nat) (l : List ElemMove) : ERes :=
  let reads := l.map fun m => (⟨src, m.1.getD 0, if m.1.isSome then n else 0, .load, 1⟩ : AAcc)
  let writes := l.map fun m => (⟨dst, m.2.getD 0, if m.2.isSome then n else 0, .store, 1⟩ : AAcc)
  match s.engineX e.ch (reads ++ writes) with
  | .error x => x.res
  | .ok (runs, s1) =>
    let vals := (runs.take l.length).map fun r => if r.isEmpty then List.replicate n 0 else s1.readRuns e.die r
    let s2 := ((runs.drop l.length).zip vals).foldl (fun s w => s.writeRuns e.ch.writer w.1 w.2) s1
    .ok (s2.countBytes e (n * (l.filter fun m => m.2.isSome).length))

/-- Rows and columns of a tile. -/
def tileAt (rows cols : Nat) : List (Nat × Nat) :=
  ((List.range rows).map fun r => (List.range cols).map fun c => (r, c)).flatten

/-- MV.TILE and MV.TILET (R291). -/
def mvTile (o : OpsG) (turn : Bool) (s : State) : Host.Outcome State Fault Refusal :=
  engine (fun e s =>
    let d := e.td o.d
    let t := e.td o.a
    let cols := bitsOf (e.x o.b) 31 0
    let rows := bitsOf (e.x o.b) 63 32
    if d.esize ≠ t.esize || decide (2 ^ 24 ≤ rows * cols) then .fault cAwlIllegal 0 else
    e.move s t.space d.space t.esize ((tileAt rows cols).map fun rc =>
      (t.elem (t.c0 + rc.2) (t.c1 + rc.1),
       if turn then d.elem (d.c0 + rc.1) (d.c1 + rc.2) else d.elem (d.c0 + rc.2) (d.c1 + rc.1)))) s

/-- MV.TILE (R291). -/
def execMvTile (o : OpsG) (s : State) : Host.Outcome State Fault Refusal := mvTile o false s
/-- MV.TILET (R291). -/
def execMvTilet (o : OpsG) (s : State) : Host.Outcome State Fault Refusal := mvTile o true s

/-- MV.REBLK: whole padded blocks, each row-major (R292). -/
def execMvReblk (o : OpsG) (s : State) : Host.Outcome State Fault Refusal :=
  engine (fun e s =>
    let d := e.td o.d
    let t := e.td o.a
    let x := e.x o.b
    let bh := bitsOf x 47 40
    let bw := bitsOf x 39 32
    let rows := bitsOf x 31 16
    let cols := bitsOf x 15 0
    if bitsOf x 63 48 ≠ 0 || bh = 0 || bw = 0 || d.esize ≠ t.esize then .fault cAwlIllegal 0 else
    let nb := (cols + bw - 1) / bw
    let mb := (rows + bh - 1) / bh
    if 2 ^ 32 < mb * nb * bh * bw * t.esize then .fault cAwlIllegal 0 else
    let d0 := d.base.toInt + d.c0 * t.esize + d.c1 * d.stride.toInt
    e.move s t.space d.space t.esize (((tileAt mb nb).map fun b => (tileAt bh bw).map fun rc =>
      let r := b.1 * bh + rc.1
      let c := b.2 * bw + rc.2
      (if r < rows ∧ c < cols then t.elem (t.c0 + c) (t.c1 + r) else none,
       some (d0 + (((b.1 * nb + b.2) * bh * bw + rc.1 * bw + rc.2) * t.esize : Nat)))).flatten)) s

/-! ### Multicast (R272, R273, R293, R396) -/

/-- A malformed group descriptor (R272). -/
def groupBad (d : List Word) : Bool :=
  bitsOf (dw d 0) 63 4 ≠ 0 || dw d 5 ≠ 0 || dw d 6 ≠ 0 || dw d 7 ≠ 0 ||
  (List.range 4).any fun c =>
    let x := dw d (c + 1)
    if (dw d 0).getLsbD c then decide (12 < bitsOf x 55 52) || bitsOf x 8 0 ≠ 0 else x ≠ 0

/-- The masked receivers, ascending: core number and ring. -/
def groupRings (d : List Word) : List (Nat × Ring) :=
  ((List.range 4).filter fun c => (dw d 0).getLsbD c).map fun c =>
    let x := dw d (c + 1)
    (c, ⟨BitVec.ofNat 64 (bitsOf x 51 9 * 512), bitsOf x 51 9 * 512, bitsOf x 55 52 + 4, bitsOf x 63 56 + 1, false, false⟩)

/-- Slots of a ring whose full bit is 0; a poisoned state byte cannot be read (R418). -/
def State.emptySlots (s : State) (p : Nat) (r : Ring) : Except ObjErr Nat := match s.ringMem p r with
  | .error e => .error e
  | .ok x => if (List.range r.slots).any fun i => s.slotSpoiled x.pa i then .error (.bad cScratchEcc r.ent) else .ok ((List.range r.slots).filter fun i => !byteFull (s.slotByte x.pa i)).length

/-- The credits of a new binding: one count for each core. (Log entry 32, DEDUCED.) -/
def State.bindCredits (s : State) (p : Nat) (rings : List (Nat × Ring)) : Except ObjErr (List Nat) :=
  rings.foldl (fun acc e => match acc with
    | .error x => .error x
    | .ok l => match s.emptySlots p e.2 with
      | .error x => .error x
      | .ok n => .ok (l.set e.1 n)) (.ok [0, 0, 0, 0])

/-- Read a group descriptor and bind it (R273, R396). -/
def ECtx.freshBind (e : ECtx) (s : State) (xg : Word) : Except ERes (Multicast × State) :=
  match s.engineX e.ch [⟨.glob, xg.toInt, 64, .load, 1⟩] with
  | .error x => .error x.res
  | .ok (runs, s1) =>
    let d := dwordsOf (s1.readRuns e.die runs.flatten)
    if groupBad d then .error (.fault cAwlRecord xg) else
    match s1.bindCredits e.ch.part (groupRings d) with
    | .error x => .error x.res
    | .ok k =>
      let m : Multicast := ⟨xg.toNat, d, k⟩
      .ok (m, s1.modChan e.c fun c => { c with mc := some m, gen := (c.gen + 1) % 16 })

/-- The binding an MV.MC of a descriptor works under, made if it is not there. -/
def ECtx.bind_ (e : ECtx) (s : State) (xg : Word) : Except ERes (Multicast × State) :=
  match (s.chan e.c).mc with
  | some m => if m.desc = xg.toNat then .ok (m, s) else e.freshBind s xg
  | none => e.freshBind s xg

/-- The slot each receiver's next claim takes: its ring and slot number; a poisoned count cannot be read (R418). -/
def State.nextSlots (s : State) (p : Nat) (rings : List (Nat × Ring)) : Except ObjErr (List (Ring × Nat)) :=
  rings.foldl (fun acc e => match acc with
    | .error x => .error x
    | .ok l => match s.ringMem p e.2 with
      | .error x => .error x
      | .ok x => if s.poisoned (.glob x.pa) 8 then .error (.bad cScratchEcc e.2.ent)
        else .ok (l ++ [(e.2, (s.dword x.pa).toNat % e.2.slots)])) (.ok [])

/-- Claim every receiver's next slot and take one credit from each (R273). (Log entry 34, DESIGN CHOICE.) -/
def State.claimAll (s : State) (e : ECtx) (m : Multicast) (rings : List (Nat × Ring)) : State :=
  let s1 := rings.foldl (fun (s : State) r => match s.ringMem e.ch.part r.2 with
    | .ok x => (s.touch e.ch.part x true).setDword x.pa (s.dword x.pa + 1)
    | .error _ => s) s
  let k := rings.foldl (fun (l : List Nat) r => l.set r.1 (l.getD r.1 0 - 1)) m.credits
  s1.modChan e.c fun c => { c with mc := some { m with credits := k } }

/-- Post the slots in order; a full one raises RING_STATE, and the earlier posts stand (R293). -/
def ECtx.postAll (e : ECtx) (s : State) : List (Ring × Nat) → ERes
  | [] => .ok s
  | (r, i) :: rest => match s.ringPost e.ch.part r (BitVec.ofNat 64 (r.slotAddr i)) with
    | .ok s1 => ECtx.postAll e s1 rest
    | .error (.bad code a) => .faultIn s code a
    | .error (.page a) => .page 6 a

/-- Orders 1 and 2 of R280 over some accesses. -/
def ordersBad (ch : Chan) (l : List AAcc) : Option ERes :=
  match l.find? fun x => !x.order1 with
  | some x => some (.fault cAwlAddrOvf x.word)
  | none => (l.filter fun x => x.n ≠ 0).findSome? fun x => (x.order2 ch).map fun code => .fault code x.word

/-- MV.MC: bind, reserve a slot everywhere or wait, write every slot, post every slot (R293); orders 1 and 2 of R280 over
descriptor and source go before the descriptor's alignment. -/
def mcBody (o : OpsG) (e : ECtx) (s : State) : ERes :=
  let xg := e.x o.d
  let n := (e.x o.b).toNat
  match ordersBad e.ch [⟨.glob, xg.toInt, 64, .load, 64⟩, ⟨.reg, (e.x o.a).toInt, n, .load, 1⟩] with
  | some x => x
  | none =>
  if xg.toNat % 64 ≠ 0 then .fault cAwlIllegal xg else
  match ECtx.bind_ e s xg with
  | .error x => x
  | .ok (m, s1) =>
    let rings := groupRings m.dwords
    if rings.any fun r => decide (2 ^ r.2.lsize < n) then .fault cAwlIllegal 0
    else if rings.any fun r => m.credits.getD r.1 0 = 0 then .wait (e.back s1)
    else
    match s1.nextSlots e.ch.part rings with
    | .error x => x.res
    | .ok slots =>
      let src : AAcc := ⟨.reg, (e.x o.a).toInt, n, .load, 1⟩
      match s1.engineX e.ch (src :: slots.map fun r => ⟨.glob, r.1.slotAddr r.2, n, .store, 1⟩) with
      | .error x => x.res
      | .ok (runs, s2) =>
        let bs := s2.readRuns e.die (runs.headD [])
        let s3 := (runs.drop 1).foldl (fun (s : State) r => s.writeRuns e.ch.writer r bs) (s2.claimAll e m rings)
        e.postAll (s3.countBytes e (n * rings.length)) slots

/-- MV.MC (R293). -/
def execMvMc (o : OpsG) (s : State) : Host.Outcome State Fault Refusal := engine (mcBody o) s

/-! ### Objects (R294 to R296) -/

/-- A release by the channel at .dev waits, in state 2, until its die's ports have delivered what they took in (R112, R120,
R266). (Log entry 9, DESIGN CHOICE.) -/
def ECtx.release (e : ECtx) (s : State) (wide : Bool) (r : ERes) : ERes := match r with
  | .ok s1 => if wide && !s.portsClear e.die then .wait (e.back s) else .ok s1
  | r => r

/-- A.POST (R294). -/
def execAPost (o : OpsG) (s : State) : Host.Outcome State Fault Refusal :=
  engine (fun e s =>
    let idx := match o.lit with
      | some l => l.toNat
      | none => o.b.toNat
    match s.ring e.ch.part e.die (BitVec.ofNat 64 e.ch.table) idx false with
    | .error x => x.res
    | .ok (r, s1) => match s1.ringPost e.ch.part r (e.x o.a) with
      | .error x => x.res
      | .ok s2 => e.release s r.dev (.ok s2)) s

/-- Orders 2 and 3 of R280 on an object's address. -/
def objAddr (a : Word) (align : Nat) : Option ERes :=
  if 2 ^ 52 ≤ a.toNat then some (.fault cAccessRights a)
  else if a.toNat % align ≠ 0 then some (.fault cAwlIllegal a) else none

/-- A step on a counted barrier. -/
def ECtx.barrier (e : ECtx) (s : State) (a : Word) (op : BarOp) (f : Bool → State → State) : ERes :=
  match objAddr a 16 with
  | some x => x
  | none => match s.barrier e.ch.part false a op with
    | .error x => x.res
    | .ok (ph, s1) => .ok (f ph s1)

/-- A.EXPECT (R295). (Log entry 16, DEDUCED.) -/
def execAExpect (o : OpsG) (s : State) : Host.Outcome State Fault Refusal :=
  engine (fun e s =>
    let n := match o.lit with
      | some l => l.toNat
      | none => (e.x o.b).toNat
    match e.barrier s (e.x o.a) (.pend n) (fun _ s => s) with
    | .ok s1 => if 2 ^ 35 ≤ n then .fault cRingState (e.x o.a) else .ok s1
    | r => r) s

/-- A.ARRIVE: the phase it counted in (R295). -/
def execAArrive (o : OpsG) (s : State) : Host.Outcome State Fault Refusal :=
  engine (fun e s => e.release s (s.barDev e.ch.part (e.x o.a))
    (e.barrier s (e.x o.a) .arrive fun ph s => s.setX e o.d (boolW ph))) s

/-- The block that started the chain has settled a future (R104). -/
def State.chanResolved (s : State) (b : Nat) : State := s.modBlock b fun x => { x with resolved := true }

/-- A.RESOLVE (R296). -/
def execAResolve (o : OpsG) (s : State) : Host.Outcome State Fault Refusal :=
  engine (fun e s => match objAddr (e.x o.a) 8 with
    | some x => x
    | none => match s.settle e.ch.part (e.x o.a) 2 (e.x o.b).toNat with
      | .error x => x.res
      | .ok s1 => e.release s true (.ok (s1.chanResolved e.ch.block))) s

end Sys2Proof.Machine
end

