-- ==== Sys2Proof/Machine/MemOps.lean ====
section
/-!
DEFINITION. What the memory words share: the checks of R209 over a word's lanes, the parking of lanes that meet an
invalid translation entry (R94), the operations a word leaves pending (R23, R97) and the store queue it feeds (R111,
R194), and the forks its accesses touch (R198).
-/
namespace Sys2Proof.Machine

/-! ### Ordering within a wave (R111, R113) -/

/-- Is the partition in the Saddlebag, off the cores it shares (R249)? -/
def State.away (s : State) (p : Nat) : Bool := (s.part p).stage = .saved

/-- Has every access of the operation been performed? -/
def PendOp.performed (o : PendOp) : Bool := match o.kind with
  | .load _ _ _ _ pieces => pieces.all fun p => p.data.isSome
  | .atomic _ _ _ todo => todo.isEmpty
  | .red _ _ todo => todo.isEmpty
  | .sto _ todo => todo.isEmpty
  | .refill todo => todo.isEmpty
  | _ => true

/-- The wave's queue is empty and every access it has issued has been performed: what a release waits for.
(Log entry 9, DESIGN CHOICE.) -/
def Wave.drained (w : Wave) : Bool := w.queue.isEmpty && w.ops.all PendOp.performed

/-! ### Split-rein causes (R198) -/

/-- Record a squash cause of a live fork, unless an earlier one stands. -/
def ForkRec.mark (f : ForkRec) (cause : Nat) : ForkRec :=
  if f.twin.isSome && f.clash = 0 then { f with clash := cause } else f

/-- The granules that the twin of a record has loaded. -/
def State.loadSet (s : State) (f : ForkRec) : List Loc := match f.twin.bind (aget s.waves) with
  | some t => (t.twin.map Twin.loads).getD []
  | none => []

/-- A wave's access to some granules, and a live fork's load set: causes 2 and 3 for the wave's own, 4 for another
wave's store. -/
def State.touchForks (s : State) (wid cause : Nat) (gs : List Loc) : State := match aget s.waves wid with
  | none => s
  | some w =>
    if w.forks.isEmpty then s else
    let f (r : ForkRec) : ForkRec := if (s.loadSet r).any fun g => gs.contains g then r.mark cause else r
    s.modWave wid fun w => { w with forks := w.forks.map f }

/-- A store of wave `wid` of a core leaves its queue (cause 4). -/
def State.touchCore (s : State) (core wid : Nat) (gs : List Loc) : State :=
  (s.waves.filter fun e => e.2.core = core && e.1 ≠ wid && !e.2.forks.isEmpty).foldl
    (fun s e => s.touchForks e.1 4 gs) s

/-- An acquire at .blk or wider by a wave: its core's L1 empties (R117), and a fork whose load set is not empty has
cause 6. -/
def State.acquire (s : State) (w : Wave) : State :=
  let s1 := s.l1Empty w.core
  if w.forks.isEmpty then s1 else
  s1.modWave w.id fun w => { w with forks := w.forks.map fun r => if (s1.loadSet r).isEmpty then r else r.mark 6 }

/-! ### Counters, operations and parking -/

def Wave.raise (w : Wave) (k : Nat) : Wave := { w with ctr := w.ctr.set k (w.ctr.getD k 0 + 1) }
def Wave.lower (w : Wave) (k : Nat) : Wave := { w with ctr := w.ctr.set k (w.ctr.getD k 0 - 1) }

/-- Add a pending operation of the word: its counter rises and its destinations are owed; an older operation that owes
one of them is raced (R43). -/
def State.addOp (s : State) (c : WCtx) (ctr : Option Nat) (lanes : Lanes) (acq : Nat) (drain : Bool) (kind : OpKind)
    (owes : List RegName) (writes : List RegWrite := []) (rel : Nat := 0) : State :=
  let o : PendOp := ⟨s.nextId, ctr, c.p.id, lanes, acq, drain, kind, writes, owes, [], rel⟩
  let race (p : PendOp) : PendOp := (regsOn lanes owes).foldl (fun p e => p.race e.1 e.2) p
  let s1 := s.modWave c.w.id fun w =>
    let w1 := match ctr with
      | some k => w.raise k
      | none => w
    { w1 with ops := (if owes.isEmpty then w1.ops else w1.ops.map race) ++ [o] }
  { s1 with nextId := s1.nextId + 1 }

/-- The word's path waits for its operation (R74). -/
def State.pathWaits (s : State) (c : WCtx) : State := s.modWave c.w.id fun w => match w.path c.p.id with
  | some p => w.setPath { p with st := .op (s.nextId - 1) }
  | none => w

/-- The word's effect is done: its counter stays raised and its result is owed until it completes (R23, R43). -/
def State.answer (s : State) (c : WCtx) : State := s.addOp c c.ctr c.act 0 false .done []
def State.answerWith (s : State) (c : WCtx) (r : RegName) (vals : List (Nat × Word)) : State :=
  s.addOp c c.ctr c.act 0 false .done [r] (vals.map fun e => ⟨r, e.1, e.2⟩)

/-- Access bits of a fault record (R242). -/
def aFetch : Nat := 1
def aRead : Nat := 0
def aWrite : Nat := 2
def aAtomic : Nat := 6

/-- Park lanes of the word's path at the word (R94): all of them, or some, which leave their path. -/
def State.park (s : State) (c : WCtx) (access : Nat) (lanes : Lanes) (addr : Word) : State :=
  let (s1, n) := s.newRec c.w.part cPageFault 0 access c.w.core addr lanes c.addr
    (.path c.w.id (if c.p.lanes &&& ~~~lanes = 0 then c.p.id else c.w.newPath))
  s1.modWave c.w.id fun w =>
    if c.p.lanes &&& ~~~lanes = 0 then w.setPath { c.p with st := .parked n } else
    let rest := match w.path c.p.id with
      | some p => w.setPath { p with lanes := p.lanes &&& ~~~lanes }
      | none => w
    { rest with paths := rest.paths ++ [{ c.p with id := c.w.newPath, lanes := lanes, st := .parked n }] }

/-- The whole path parks; a twin holds the fault instead (R196). -/
def WCtx.parkAll (c : WCtx) (s : State) (access : Nat) (addr : Word) : Res :=
  if c.w.twin.isSome then .fault cPageFault c.act addr else .ok (s.park c access c.p.lanes addr)

/-! ### Global accesses (R209) -/

/-- How one lane's address translates. -/
inductive LaneX where
  | ok (l : List (Xlat × Nat)) | page (a : Word) | rights
deriving DecidableEq, Repr

/-- Is the access one the register page takes? (R360) -/
def pageOk (va : Word) (n : Nat) (acc : Acc) : Bool := acc ≠ .atomic && (n = 4 || n = 8) && va.toNat % n = 0

def regPage (x : Xlat) : Bool := match region x.pa with
  | .page _ _ => true
  | _ => false

/-- Translate `n` bytes: a refusal of any page goes before an invalid one (R209). -/
def State.laneX (s : State) (p : Nat) (va : Word) (n : Nat) (acc : Acc) : LaneX :=
  let a := va.toNat
  let second := (a / 4096 + 1) * 4096
  let first := s.translate p va acc
  let rest : Except XErr (Option Xlat) :=
    if a + n ≤ second then .ok none else (s.translate p (BitVec.ofNat 64 second) acc).map some
  let bad (x : Xlat) : Bool := regPage x && !pageOk va n acc
  match first, rest with
  | .error .rights, _ => .rights
  | _, .error .rights => .rights
  | .error .pageFault, _ => .page va
  | .ok _, .error .pageFault => .page (BitVec.ofNat 64 second)
  | .ok x, .ok none => if bad x then .rights else .ok [(x, n)]
  | .ok x, .ok (some y) => if bad x || bad y then .rights else .ok [(x, second - a), (y, a + n - second)]

/-- Physical place of byte `k` of an access. -/
def placeOf (l : List (Xlat × Nat)) (k : Nat) : Loc := match l with
  | [(x, _)] => .glob (x.pa + k)
  | (x, n) :: (y, _) :: _ => if k < n then .glob (x.pa + k) else .glob (y.pa + (k - n))
  | [] => .glob 0

/-- A lane whose access may be performed: its number, virtual address and translation. -/
structure LaneAcc where
  lane : Nat
  va   : Word
  xl   : List (Xlat × Nat)
deriving DecidableEq, Repr

/-- What the checks of R209 find: a fault, or the lanes that go on and those that park. -/
inductive Checked where
  | fault (code : Nat) (lanes : Lanes) (addr : Word)
  | go (ok : List LaneAcc) (parked : Lanes) (addr : Word)
deriving DecidableEq, Repr

def faultOf (code : Nat) (l : List (Nat × Word)) : Checked :=
  .fault code (lanesOf (l.map Prod.fst)) ((l.head?.map Prod.snd).getD 0)

/-- Checks 3 to 5, 7 and 9 of R209 over lanes in ascending order: rights, alignment, address region, range locks,
invalid entries. -/
def State.checkGlobal (s : State) (c : WCtx) (n : Nat) (acc : Acc) (aligned : Bool) (regionBad : Xlat → Bool)
    (lanes : List (Nat × Word)) : Checked :=
  let xs := lanes.map fun e => (e, s.laneX c.w.part e.2 n acc)
  let refused := (xs.filter fun e => e.2 = .rights).map Prod.fst
  if !refused.isEmpty then faultOf cAccessRights refused else
  let odd := lanes.filter fun e => aligned && e.2.toNat % n ≠ 0
  if !odd.isEmpty then faultOf cMisaligned odd else
  let out := (xs.filter fun e => match e.2 with
    | .ok l => l.any fun x => regionBad x.1
    | _ => false).map Prod.fst
  if !out.isEmpty then faultOf cAtomicScope out else
  let locked := lanes.filter fun e => s.locked c.w.core false e.2.toNat n
  if !locked.isEmpty then faultOf cRangeLock locked else
  let page := xs.filterMap fun e => match e.2 with
    | .page a => some (e.1.1, a)
    | _ => none
  .go (xs.filterMap fun e => match e.2 with
      | .ok l => some ⟨e.1.1, e.1.2, l⟩
      | _ => none) (lanesOf (page.map Prod.fst)) ((page.head?.map Prod.snd).getD 0)

/-- Set accessed and dirty bits for the lanes that go on (R92). -/
def State.touchAll (s : State) (p : Nat) (write : Bool) (l : List LaneAcc) : State :=
  l.foldl (fun s a => a.xl.foldl (fun s x => s.touch p x.1 write) s) s

/-- Park the lanes that met an invalid entry and let `body` perform the others; a twin holds the fault (R94, R196). -/
def WCtx.withParked (c : WCtx) (s : State) (access : Nat) (r : Checked) (body : State → List LaneAcc → Res) : Res :=
  match r with
  | .fault code lanes addr => .fault code lanes addr
  | .go ok parked addr =>
    if parked = 0 then body s ok
    else if c.w.twin.isSome then .fault cPageFault parked addr
    else match ok with
      | [] => .ok (s.park c access parked addr)
      | _ => body (s.park c access parked addr) ok

/-! ### Loads and stores over checked lanes -/

/-- The bytes of a place that an access covers, as granules (R194). -/
def piecesOf (l : LaneAcc) (n : Nat) : List Piece :=
  (splitPieces l.va.toNat n).map fun e => ⟨l.lane, e.1, e.2, placeOf l.xl e.1, none⟩

/-- Add a twin's loaded granules, when its set has room (R194). -/
def State.trackLoad (s : State) (c : WCtx) (pieces : List Piece) : Option State := match c.w.twin with
  | none => some (if c.w.forks.isEmpty then s else
      s.touchForks c.w.id 3 ((pieces.map fun p => granules p.loc p.n).flatten))
  | some t =>
    let new := ((pieces.map fun p => granules p.loc p.n).flatten).eraseDups.filter fun g => !t.loads.contains g
    if 256 < t.loads.length + new.length then none
    else some (s.modWave c.w.id fun w => { w with twin := w.twin.map fun t => { t with loads := new ++ t.loads } })

/-- Leave a load pending: its counter, destinations and pieces. -/
def WCtx.issueLoad (c : WCtx) (s : State) (ctr acq : Nat) (drain signed : Bool) (n : Nat) (dst : List RegName)
    (l1 : Bool) (pieces : List Piece) : Res :=
  match s.trackLoad c pieces with
  | none => .hold
  | some s1 => .ok (s1.addOp c (some ctr) (lanesOf (pieces.map Piece.lane)) acq drain (.load signed n dst l1 pieces) dst)

/-- What a lane of a store word writes at a place: the bytes, and the leaf whose accessed and dirty bits a twin's store
sets at its commit (R92, R201). -/
structure Put where
  lane  : Nat
  loc   : Loc
  bytes : List Byte
  leaf  : Option Nat
deriving DecidableEq, Repr

def entriesOf (id : Nat) (spill : Bool) (l : List Put) : List StoreEnt := l.map fun e => ⟨id, e.lane, e.loc, e.bytes, e.leaf, spill⟩

/-- Put a word's stores into the wave's queue, or a twin's into its buffer (R111, R194). The entries are in lane
order. -/
def WCtx.issueStore (c : WCtx) (s : State) (entries : List Put) (ctr : Nat := 2) (spill : Bool := false) : Res :=
  match c.w.twin with
  | some t =>
    if 64 ≤ ((t.buf.map StoreEnt.op).eraseDups).length then .hold else
    let s1 := s.modWave c.w.id fun w =>
      { w with twin := w.twin.map fun t => { t with buf := t.buf ++ entriesOf s.nextId spill entries } }
    .ok { s1 with nextId := s1.nextId + 1 }
  | none =>
    let s1 := s.modWave c.w.id fun w => { w with queue := w.queue ++ entriesOf s.nextId spill entries }
    let s2 := s1.touchForks c.w.id 2 ((entries.map fun e => granules e.loc e.bytes.length).flatten)
    .ok (s2.addOp c (some ctr) c.act 0 false .store [])

/-- The leaf's entry of the page that byte `k` of an access lies in. -/
def slotAt (l : List (Xlat × Nat)) (k : Nat) : Option Nat := match l with
  | [(x, _)] => x.slot
  | (x, n) :: (y, _) :: _ => if k < n then x.slot else y.slot
  | [] => none

/-- The pieces of a store of some bytes by a checked lane. -/
def storeEntries (l : LaneAcc) (bs : List Byte) : List Put :=
  (splitPieces l.va.toNat bs.length).map fun e => ⟨l.lane, placeOf l.xl e.1, (bs.drop e.1).take e.2, slotAt l.xl e.1⟩

/-- A store of a lane that goes on sets the accessed and dirty bits of its pages, a twin's at its commit only, where a
squash would leave it unperformed (R92, R201). -/
def WCtx.touchStore (c : WCtx) (s : State) (l : List LaneAcc) : State :=
  if c.w.twin.isNone then s.touchAll c.w.part true l
  else l.foldl (fun s a => a.xl.foldl (fun s x => s.cacheLeaf c.w.part x.1) s) s

/-- A global store of checked lanes issues. -/
def WCtx.storeLanes (c : WCtx) (s : State) (ok : List LaneAcc) (bytes : LaneAcc → List Byte) (ctr : Nat := 2)
    (spill : Bool := false) : Res :=
  c.issueStore (c.touchStore s ok) ((ok.map fun a => storeEntries a (bytes a)).flatten) ctr spill

/-- A word's accesses to granules by an atomic, a reduction or an ordered store (R198, cause 2). -/
def State.touchSteps (s : State) (wid n : Nat) (todo : List AtomStep) : State :=
  s.touchForks wid 2 ((todo.map fun a => granules a.loc n).flatten)

/-! ### Releases and the thread's own earlier accesses (R22, R112 to R114, R120) -/

/-- What an agent's write does at a place of memory that is no register page: its port or memory takes it, and the core's
copy follows. -/
def State.putBytes (s : State) (w : Wave) (loc : Loc) (bs : List Byte) : State :=
  ((match loc with
  | .scr _ _ => s.setBytes loc bs
  | .glob pa => (s.diePut w.die loc bs w.part).l1Store w.core pa bs).wrote w.grid loc bs.length).touchCore w.core w.id (granules loc bs.length)

/-- A release of some threads of a wave makes their spills, which no other agent has seen, visible (R22).
(Log entry 11, DESIGN CHOICE.) -/
def State.publish (s : State) (wid : Nat) (m : Lanes) : State := match aget s.waves wid with
  | none => s
  | some w =>
    if w.spills.isEmpty then s else
    (w.spills.filter fun e => inLanes m e.lane).foldl (fun s e => s.putBytes w e.loc e.bytes)
      (s.modWave wid fun w => { w with spills := w.spills.filter fun e => !inLanes m e.lane })

/-- A thread's own access to bytes of its spills is about to be performed where all agents see it: those bytes go before it
(R108), and the rest of the spills is still unseen. (Log entry 11, DESIGN CHOICE.) -/
def State.expose (s : State) (wid lane : Nat) (loc : Loc) (n : Nat) : State := match aget s.waves wid with
  | none => s
  | some w =>
    if w.spills.isEmpty then s else
    (((w.spills.filter fun e => e.lane = lane).map fun e => e.inside loc n).flatten).foldl
      (fun s e => s.putBytes w e.loc e.bytes)
      (s.modWave wid fun w => { w with spills := (w.spills.map fun e => if e.lane = lane then e.outside loc n else [e]).flatten })

/-- May a release of the wave act? Its accesses have been performed, and one at .dev or .sys waits until its die's ports
have delivered what they took in (R112, R114, R120). (Log entry 9, DESIGN CHOICE.) -/
def WCtx.mayRelease (c : WCtx) (s : State) (wide : Bool) : Bool := c.w.drained && (!wide || s.portsClear c.w.die)

/-- Does an access that the wave has issued and that has not been performed touch the bytes? (Log entry 30, DEDUCED.) -/
def Wave.touches (w : Wave) (loc : Loc) (n : Nat) : Bool :=
  ((w.queue ++ (w.twin.map Twin.buf).getD []).any fun e => e.loc.hits e.bytes.length loc n) || w.ops.any fun o => match o.kind with
    | .load _ _ _ _ pieces => pieces.any fun p => p.data.isNone && p.loc.hits p.n loc n
    | .atomic _ m _ todo | .sto m todo => todo.any fun a => a.loc.hits m loc n
    | .red f32 _ todo => todo.any fun a => a.loc.hits (if f32 then 4 else 8) loc n
    | .send pa _ slot msg => (Loc.glob pa).hits 1 loc n || (Loc.glob slot).hits msg.length loc n
    | .recv pa _ slot _ => (Loc.glob pa).hits 1 loc n || (Loc.glob slot).hits (8 * w.width) loc n
    | .refill todo => todo.any fun e => e.2.2.any fun r => r.1.hits r.2 loc n
    | .ring pa .. => (Loc.glob pa).hits 1 loc n
    | .barWait pa _ | .futAwait pa _ => (Loc.glob pa).hits 8 loc n
    | _ => false

/-- Must a step on an object wait: for an older acquire of the thread, or an access of its own to the same bytes (R113)? -/
def WCtx.ownPending (c : WCtx) (s : State) (a : Word) (n : Nat) : Bool :=
  if c.w.queue.isEmpty && c.w.ops.isEmpty then false else
  (c.w.ops.any fun o => o.acq ≠ 0 && !o.performed && o.lanes &&& c.act ≠ 0) ||
    match s.translateAll c.w.part a n .load with
    | .ok l => l.any fun x => c.w.touches (.glob x.1.pa) x.2
    | .error _ => false

/-! ### Waiters (R397) -/

/-- The state byte, or other object, that a waiting word waits at (R397). -/
def PendOp.waitsAt (o : PendOp) : Option Nat := match o.kind with
  | .ring pa .. | .send pa .. | .recv pa .. => some pa
  | _ => none

/-- What a bit of memory is when it is read by an object's waiter: the state byte of a slot. -/
def State.byteIs (s : State) (pa : Nat) (full phase : Bool) : Bool :=
  let b := (s.bytes (.glob pa) 1).headD 0
  byteFull b == full && bytePhase b == phase

/-- Is a waiting word's condition met? -/
def State.canGo (s : State) (o : PendOp) : Bool := match o.kind with
  | .ring pa full phase .. => s.byteIs pa full phase
  | .send pa phase .. => s.byteIs pa false phase
  | .recv pa phase _ _ => s.byteIs pa true phase
  | .barWait pa tok => (s.dword pa).getLsbD 63 != tok
  | .futAwait pa _ => futSettled (s.dword pa)
  | .ports die => s.portsClear die
  | .ticket core n => decide (n ≤ (s.core core).mx.completed)
  | .pop core _ => !(s.core core).mx.pops.isEmpty
  | _ => true

/-- Does an older waiter at a state byte go first? Waiters on one slot are served in the order in which they came
(R397). -/
def State.waiterBefore (s : State) (pa id : Nat) : Bool :=
  s.waves.any fun e => !s.away e.2.part && e.2.ops.any fun x => decide (x.id < id) && x.waitsAt = some pa && s.canGo x

/-! ### Uniform accesses: one address for the path -/

/-- What the checks of a uniform access find. -/
inductive UniX where
  | ok (x : Xlat) | fault (code : Nat) | page
deriving DecidableEq, Repr

/-- Checks of a step on an object in memory: rights, alignment, range lock, invalid entry (R183, R209, R340). -/
def State.checkObj (s : State) (c : WCtx) (a : Word) (n align : Nat) : UniX :=
  let r := s.objXlat c.w.part a .atomic
  match r with
  | .error (.bad code _) => .fault code
  | _ =>
    if a.toNat % align ≠ 0 then .fault cMisaligned
    else if s.locked c.w.core false a.toNat n then .fault cRangeLock
    else match r with
      | .ok x => .ok x
      | .error _ => .page

/-- Turn an object's answer into the word's. -/
def WCtx.ofObj {α : Type} (c : WCtx) (s : State) (r : Except ObjErr α) (f : α → Res) : Res := match r with
  | .ok x => f x
  | .error (.page a) => c.parkAll s aAtomic a
  | .error (.bad code a) => .fault code c.act a

end Sys2Proof.Machine
end

