-- ==== Sys2Proof/Machine/AwlWave.lean ====
section
/-!
DEFINITION. The meanings of the wave-side Awl words (R265 to R267), and of an unassigned entry of the opcode map (R48).
-/
namespace Sys2Proof.Machine

/-- The channel of the wave's cluster that a selector names. -/
def WCtx.channel (c : WCtx) (sel : BitVec 7) : Nat := c.w.cluster * 8 + sel.toNat

/-- May a chain be offered? -/
def Chan.free (c : Chan) : Bool := match c.st with
  | .idle | .faulted | .stopped => true
  | _ => false

/-- The channel bound to a chain and to the issuing wave (R263, R265). -/
def WCtx.bindChan (c : WCtx) (b : Block) (k : Chan) (h : Nat) : Chan :=
  { Chan.reset with
    st := .running, recd := k.recd, nextRec := h, gen := k.gen, grid := c.w.grid, block := c.w.block, bidx := b.idx, core := c.w.core
    part := c.w.part, base := (c.w.lreg 143).toNat, size := b.size, table := c.w.rings
    issued := c.t }

/-- AWL.GO: a release that offers a chain (R265). The engine that takes it is on the wave's die, whose ports it shares, so
that it need not wait for them. -/
def execAwlGo (o : OpsG) (s : State) : Host.Outcome State Fault Refusal :=
  guarded (.awlGo o) (fun c s =>
    let h := c.s o.a
    let k := c.channel o.b
    if bitsOf h 63 52 ≠ 0 then .fault cAccessRights c.act h
    else if bitsOf h 5 0 ≠ 0 then .fault cMisaligned c.act h
    else if !c.w.drained then .hold
    else match aget s.blocks c.w.block with
      | some b =>
        if (s.chan k).free then
          .ok (((s.publish c.w.id c.act).modChan k fun x => c.bindChan b x h.toNat).answerWith c (.s o.d.toNat) [(0, 0)])
        else .ok ((s.publish c.w.id c.act).answerWith c (.s o.d.toNat) [(0, 1)])
      | none => .hold) s

/-- The code that AWL.STAT shows for a state (R266). -/
def ChanSt.code : ChanSt → Nat
  | .idle => 0 | .running => 1 | .waiting => 2 | .parked => 3 | .faulted => 4 | .stopped => 5 | .frozen => 6

/-- The status word (R266). -/
def Chan.status (c : Chan) : Word :=
  let code := if c.st = .parked ∨ c.st = .faulted then c.code else 0
  BitVec.ofNat 64 (c.st.code * 2 ^ 61 + code % 256 * 2 ^ 53 + c.recd % 2 ^ 52 / 64 * 64 + c.done.toNat)

/-- AWL.STAT: an item of a channel, 0 when it is bound to another partition (R266). -/
def execAwlStat (o : OpsG) (s : State) : Host.Outcome State Fault Refusal :=
  guarded (.awlStat o) (fun c s =>
    let k := s.chan (c.channel o.b)
    let x : Word := if k.part ≠ c.w.part then 0 else if o.a = 0 then k.status
      else if o.a = 1 then BitVec.ofNat 64 k.fpc else k.faddr
    .ok (s.answerWith c (.s o.d.toNat) [(0, x)])) s

/-- AWL.STOP: a chain of the wave's grid ends after its running record (R267). (Log entry 32, DEDUCED.) -/
def execAwlStop (o : OpsG) (s : State) : Host.Outcome State Fault Refusal :=
  guarded (.awlStop o) (fun c s =>
    let stop (k : Chan) : Chan := if k.busy && k.grid = c.w.grid then { k with stop := true } else k
    .ok ((s.modChan (c.channel o.b) stop).answer c)) s

/-- An unassigned entry: ILLEGAL_OP at the word (R48), AWL_ILLEGAL on an engine (R49). -/
def execUnassignedEntry (_w : BitVec 32) (s : State) : Host.Outcome State Fault Refusal :=
  if s.cur.onWord then .next (illegalHere s) else .fault .noAgent

end Sys2Proof.Machine
end

