-- ==== Sys2Proof/WellFormed.lean ====
section
/-!
DEFINITION. Well-formed instructions: the field checks of R32, the literal rules of R34 and the prefix rules of R37,
read from the table's row. These are the conditions under which a word passes checks 4 to 6 of R40 by itself.
-/
namespace Sys2Proof

/-- Opcodes the map assigns (R47); the prefix counts as assigned. -/
def assignedOpc (n : Nat) : Bool :=
  decide (n ≤ 0x05D) || (decide (0x060 ≤ n) && decide (n ≤ 0x06E)) || (decide (0x070 ≤ n) && decide (n ≤ 0x0AB)) ||
  (decide (0x0B0 ≤ n) && decide (n ≤ 0x0BC)) || (decide (0x0C0 ≤ n) && decide (n ≤ 0x0DB)) ||
  (decide (0x0E0 ≤ n) && decide (n ≤ 0x0ED)) || (decide (0x0F0 ≤ n) && decide (n ≤ 0x119)) ||
  (decide (0x120 ≤ n) && decide (n ≤ 0x169)) || (decide (0x170 ≤ n) && decide (n ≤ 0x18D)) ||
  (decide (0x190 ≤ n) && decide (n ≤ 0x19D)) || (decide (0x1A0 ≤ n) && decide (n ≤ 0x1AB)) ||
  (decide (0x1B0 ≤ n) && decide (n ≤ 0x1C8)) || (decide (0x1D0 ≤ n) && decide (n ≤ 0x1DD)) ||
  (decide (0x1E0 ≤ n) && decide (n ≤ 0x1E2)) || n = 0x1F0

/-- A field holds a value its file has; an unused field holds 0; a pair's register is even (R32, R212). -/
def Fld.ok (f : Fld) : Bool := match f.kind with
  | .zero => f.val = 0
  | .p | .j | .acc => decide (f.val < 8)
  | .x => decide (f.val < 32)
  | .td => decide (f.val < 4)
  | .dsp => decide (f.val < 16)
  | .vpair => f.val % 2 = 0
  | .v | .s | .imm => true

/-- Check 4 of R40: field values, and a literal where the entry takes none (R127, R144, R148, R169, R208). -/
def Sig.fieldsOk (g : Sig) : Bool :=
  g.flds.all Fld.ok && g.ok && !(g.lit.isSome && g.litRule = .noEntry)

/-- Literal attachment (R34): a mandatory literal is there, and a replaced field is 0. -/
def Sig.litWordOk (g : Sig) : Bool :=
  (g.lit.isSome || g.litRule ≠ .mandatory) && g.replZero

/-- Prefix use (R37, R127, R149). -/
def Sig.pfxOk (g : Sig) : Bool := match g.pfx with
  | none => true
  | some p => g.pacc.any && (g.pacc.zero || !p.zero) && (g.pacc.sat || !p.sat) && (g.pacc.rnd || !p.rnd) &&
      (g.pacc.fourth || !p.has4)

/-- The opcode field of a word (R31). -/
def opcodeOf (w : BitVec 32) : Nat := (w.extractLsb 29 21).toNat

/-- A well-formed instruction. An event has no word; its operands are the event's own. -/
def Instr.wf (i : Instr) : Bool := match i.sig with
  | some g => g.fieldsOk && g.litWordOk && g.pfxOk
  | none => match i with
    | .unassignedEntry w => !assignedOpc (opcodeOf w)
    | _ => true

end Sys2Proof
end

