-- ==== Sys2Proof/Decode.lean ====
section
/-!
DEFINITION. Decoding a word with its prefix and literal (R31 to R40, R47 to R49), and the encoder, both from the
tables of the spec. Decoding is total: it answers an instruction or the fault that R40 names.
-/
namespace Sys2Proof

/-- Why a word is rejected: the fault of R40's checks 4 to 6, and the word it is reported at. -/
inductive DecodeErr where
  /-- check 4: ILLEGAL_OP at the word -/
  | illegalOp
  /-- check 5: CLAUSE_FORMAT at the word -/
  | clauseFormat
  /-- check 5: CLAUSE_FORMAT at the literal after the word -/
  | clauseFormatLit
  /-- check 6: PREFIX_MISUSE at the prefix -/
  | prefixMisuse
deriving DecidableEq, Repr

/-- Where a word stands: nowhere in particular, in a wave's clause of a class (last or not), or in an Awl engine's
clause. -/
inductive Place where
  | bare
  | wave (cls : Nat) (last : Bool)
  | engine (last : Bool)
deriving DecidableEq, Repr

/-- A word with its prefix word and its literal. -/
structure Words where
  pfx  : Option (BitVec 32)
  word : BitVec 32
  lit  : Option (BitVec 32)
deriving DecidableEq, Repr

/-- The words in the order they stand in a clause. -/
def Words.toList (w : Words) : List (BitVec 32) :=
  w.pfx.toList ++ [w.word] ++ w.lit.toList

namespace Decode

def iOf (n : Nat) : IntTy :=
  match n with
  | 0 => .i8 | 1 => .i16 | 2 => .i32 | 3 => .i64 | 4 => .n8 | 5 => .n16 | 6 => .n32 | _ => .n64
def nOf (n : Nat) : IntTy := match n with
  | 0 => .n8 | 1 => .n16 | 2 => .n32 | _ => .n64
def wOf (n : Nat) : IntTy := match n with
  | 0 => .i32 | 1 => .i64 | 2 => .n32 | _ => .n64
def nwOf (n : Nat) : IntTy := if n = 0 then .n32 else .n64
def iwOf (n : Nat) : IntTy := if n = 0 then .i32 else .i64
def fOf (n : Nat) : FTy := match n with
  | 0 => .f64 | 1 => .f32 | 2 => .f16 | _ => .bf16
def sgnOf (n : Nat) : Sgn := if n = 0 then .i else .n
def nwTy (n : Nat) : NW := if n = 0 then .n32 else .n64
def memOf (n : Nat) : MemTy := match n with
  | 0 => .n8 | 1 => .i8 | 2 => .n16 | 3 => .i16 | 4 => .n32 | 5 => .i32 | _ => .n64
def stOf (n : Nat) : StTy := match n with
  | 0 => .n8 | 1 => .n16 | 2 => .n32 | _ => .n64
def baseOf (n : Nat) : Base := if n % 2 = 0 then .v else .s
def cvtOf (n : Nat) : CvtForm := match n with
  | 0 => .f32f64 | 1 => .f64f32 | 2 => .f16f32 | 3 => .bf16f32 | 4 => .f32f16 | 5 => .f32bf16 | 6 => .e4m3f32
  | 7 => .e5m2f32 | 8 => .e2m1f32 | 9 => .f32e4m3 | 10 => .f32e5m2 | 11 => .f32e2m1 | 12 => .i32f32 | 13 => .n32f32
  | 14 => .f32i32 | 15 => .f32n32 | 16 => .i64f64 | 17 => .n64f64 | 18 => .f64i64 | _ => .f64n64
def cvtsOf (n : Nat) : CvtsForm := match n with
  | 0 => .e4m3f32 | 1 => .e5m2f32 | 2 => .e2m1f32 | 3 => .f32e4m3 | 4 => .f32e5m2 | _ => .f32e2m1
def dotOf (n : Nat) : DotForm := match n with
  | 0 => .f16 | 1 => .bf16 | 2 => .e4m3 | 3 => .e5m2 | 4 => .e2m1 | _ => .kq8
def reduxOf (n : Nat) : ReduxOp := match n with
  | 0 => .addF32 | 1 => .addI32 | 2 => .maxF32 | 3 => .minF32 | _ => .maxixF32
def voteOf (n : Nat) : VoteOp := match n with
  | 0 => .any | 1 => .all | _ => .bal

/-- The prefix word's fields (R36). -/
def pfxOf (w : BitVec 32) : Pfx where
  mask   := w.extractLsb 20 18
  zero   := w.getLsbD 17
  sat    := w.getLsbD 16
  rnd    := w.getLsbD 15
  rm     := w.extractLsb 14 13
  fourth := w.extractLsb 12 6
  has4   := w.getLsbD 5

/-- A prefix word has opcode 0x1F0; its stall field and reserved bits are 0 (R36, R37). -/
def isPfx (w : BitVec 32) : Bool := opcodeOf w = 0x1F0
def pfxWordOk (w : BitVec 32) : Bool := decide (w.extractLsb 31 30 = 0) && decide (w.extractLsb 4 0 = 0)

def opsV (w : BitVec 32) (p : Option Pfx) (l : Option (BitVec 32)) : OpsV :=
  ⟨w.extractLsb 31 30, w.extractLsb 20 14, w.extractLsb 13 7, w.extractLsb 6 0, l, p⟩
def opsG (w : BitVec 32) (l : Option (BitVec 32)) : OpsG :=
  ⟨w.extractLsb 31 30, w.extractLsb 20 14, w.extractLsb 13 7, w.extractLsb 6 0, l⟩
def opsAT (w : BitVec 32) : OpsAT :=
  ⟨w.extractLsb 31 30, w.extractLsb 20 14, w.extractLsb 13 7, Table.scopeOf (w.extractLsb 6 5),
    Table.orderOf (w.extractLsb 4 3), w.extractLsb 2 0⟩
def opsF (w : BitVec 32) (l : Option (BitVec 32)) : OpsF :=
  ⟨w.extractLsb 31 30, w.extractLsb 20 14, w.extractLsb 13 10, w.extractLsb 9 0, l⟩
def opsB (w : BitVec 32) : OpsB := ⟨w.extractLsb 31 30, w.extractLsb 20 0⟩
def opsBP (w : BitVec 32) : OpsBP := ⟨w.extractLsb 31 30, w.extractLsb 20 18, w.extractLsb 17 0⟩
def opsBS (w : BitVec 32) : OpsBS := ⟨w.extractLsb 31 30, w.extractLsb 20 14, w.extractLsb 13 0⟩
def opsBJ (w : BitVec 32) : OpsBJ := ⟨w.extractLsb 31 30, w.extractLsb 20 18, w.extractLsb 17 15, w.extractLsb 14 0⟩
def opsAB (w : BitVec 32) : OpsAB := ⟨w.extractLsb 31 30, w.extractLsb 20 16, w.extractLsb 15 11, w.extractLsb 10 0⟩
def opsN (w : BitVec 32) : OpsN := ⟨w.extractLsb 31 30, w.extractLsb 20 0⟩

/-- Rows 0x000 to 0x07F (R128 to R143). -/
def buildInt (n : Nat) (o : OpsV) : Instr :=
  if n < 0x008 then .add (iOf n) o
  else if n < 0x010 then .sub (iOf (n - 0x008)) o
  else if n < 0x018 then .mul (iOf (n - 0x010)) o
  else if n < 0x020 then .mulhi (iOf (n - 0x018)) o
  else if n < 0x028 then .min (iOf (n - 0x020)) o
  else if n < 0x030 then .max (iOf (n - 0x028)) o
  else if n < 0x034 then .mad (wOf (n - 0x030)) o
  else if n = 0x034 then .and o
  else if n = 0x035 then .or o
  else if n = 0x036 then .xor o
  else if n = 0x037 then .andn o
  else if n = 0x038 then .not o
  else if n < 0x03B then .popc (nwOf (n - 0x039)) o
  else if n < 0x03D then .clz (nwOf (n - 0x03B)) o
  else if n < 0x03F then .brev (nwOf (n - 0x03D)) o
  else if n = 0x03F then .sel o
  else if n < 0x044 then .shl (nOf (n - 0x040)) o
  else if n < 0x048 then .shr (nOf (n - 0x044)) o
  else if n < 0x04C then .shr (iOf (n - 0x048)) o
  else if n < 0x050 then .bfe (match n - 0x04C with | 0 => .n32 | 1 => .i32 | 2 => .n64 | _ => .i64) o
  else if n < 0x052 then .bfi (nwOf (n - 0x050)) o
  else if n < 0x054 then .cmpEq (iwOf (n - 0x052)) o
  else if n < 0x056 then .cmpNe (iwOf (n - 0x054)) o
  else if n < 0x05A then .cmpLt (wOf (n - 0x056)) o
  else if n < 0x060 then .cmpLe (wOf (n - 0x05A)) o
  else if n = 0x060 then .pand o
  else if n = 0x061 then .por o
  else if n = 0x062 then .pxor o
  else if n = 0x063 then .pnot o
  else if n = 0x064 then (if o.lit.isSome then .movImm o else .mov o)
  else if n = 0x065 then .movs o
  else if n = 0x066 then .lid o
  else if n = 0x067 then .movp o
  else if n = 0x068 then .ptst o
  else if n = 0x069 then .addc o
  else if n = 0x06A then .subb o
  else if n < 0x06D then .abs (iwOf (n - 0x06B)) o
  else if n < 0x070 then .neg (iwOf (n - 0x06D)) o
  else if n < 0x073 then .wid (iOf (n - 0x070 + 1)) o
  else if n < 0x076 then .wid (nOf (n - 0x073 + 1)) o
  else if n < 0x079 then .nar (iOf (n - 0x076)) o
  else if n < 0x07C then .nar (nOf (n - 0x079)) o
  else .lea (BitVec.ofNat 2 (n - 0x07C)) o

/-- Rows 0x080 to 0x0FF (R150 to R168). -/
def buildFloat (n : Nat) (o : OpsV) : Instr :=
  if n < 0x084 then .fadd (fOf (n - 0x080)) o
  else if n < 0x088 then .fsub (fOf (n - 0x084)) o
  else if n < 0x08C then .fmul (fOf (n - 0x088)) o
  else if n < 0x090 then .fma (fOf (n - 0x08C)) o
  else if n < 0x094 then .fmin (fOf (n - 0x090)) o
  else if n < 0x098 then .fmax (fOf (n - 0x094)) o
  else if n < 0x09C then .fmaxix (fOf (n - 0x098)) o
  else if n < 0x0A0 then .frnd (fOf (n - 0x09C)) o
  else if n < 0x0A2 then .fcmpEq (fOf (n - 0x0A0)) o
  else if n < 0x0A4 then .fcmpNe (fOf (n - 0x0A2)) o
  else if n < 0x0A6 then .fcmpLt (fOf (n - 0x0A4)) o
  else if n < 0x0A8 then .fcmpLe (fOf (n - 0x0A6)) o
  else if n < 0x0AA then .fcmpUn (fOf (n - 0x0A8)) o
  else if n < 0x0B0 then .fclass (fOf (n - 0x0AA)) o
  else if n < 0x0B2 then .frcp (fOf (0x0B1 - n)) o
  else if n < 0x0B4 then .frsq (fOf (0x0B3 - n)) o
  else if n < 0x0B6 then .fsqrt (fOf (0x0B5 - n)) o
  else if n < 0x0B8 then .fdiv (fOf (0x0B7 - n)) o
  else if n = 0x0B8 then .fexp2 o
  else if n = 0x0B9 then .flog2 o
  else if n = 0x0BA then .fsin o
  else if n = 0x0BB then .fcos o
  else if n = 0x0BC then .ftanh o
  else if n < 0x0D4 then .cvt (cvtOf (n - 0x0C0)) o
  else if n < 0x0DA then .cvts (cvtsOf (n - 0x0D4)) o
  else if n = 0x0DA then .sclSc8F32 o
  else if n = 0x0DB then .kqdec o
  else if n < 0x0E5 then .dot (dotOf (n - 0x0E0)) o
  else if n < 0x0E9 then .dot8 (sgnOf ((n - 0x0E5) / 2)) (sgnOf ((n - 0x0E5) % 2)) o
  else if n < 0x0ED then .dot4 (sgnOf ((n - 0x0E9) / 2)) (sgnOf ((n - 0x0E9) % 2)) o
  else if n = 0x0ED then .dot .kq8 o
  else if n = 0x0F0 then .shfl o
  else if n = 0x0F1 then .shflX o
  else if n = 0x0F2 then .shflUp o
  else if n = 0x0F3 then .shflDn o
  else if n = 0x0F4 then .bcast o
  else if n < 0x0FA then .redux (reduxOf (n - 0x0F5)) o
  else if n < 0x0FD then .vote (voteOf (n - 0x0FA)) o
  else if n = 0x0FD then .perm o
  else if n = 0x0FE then .fctlRd o
  else .fctlWr o

/-- Rows 0x100 to 0x11F (R145 to R147). -/
def buildUni (n : Nat) (o : OpsG) : Instr :=
  if n = 0x100 then .uadd o
  else if n = 0x101 then .usub o
  else if n = 0x102 then .umul o
  else if n < 0x105 then .umulhi (sgnOf (n - 0x103)) o
  else if n < 0x107 then .umin (sgnOf (n - 0x105)) o
  else if n < 0x109 then .umax (sgnOf (n - 0x107)) o
  else if n = 0x109 then .uand o
  else if n = 0x10A then .uor o
  else if n = 0x10B then .uxor o
  else if n = 0x10C then .ushl o
  else if n < 0x10F then .ushr (sgnOf (0x10E - n)) o
  else if n = 0x10F then (if o.lit.isSome then .umovImm o else .umov o)
  else if n = 0x110 then .movl o
  else if n = 0x111 then .ulane o
  else if n = 0x112 then .ucmpEq o
  else if n = 0x113 then .ucmpNe o
  else if n < 0x116 then .ucmpLt (sgnOf (n - 0x114)) o
  else if n < 0x118 then .ucmpLe (sgnOf (n - 0x116)) o
  else if n = 0x118 then .upopc o
  else .uclz o

/-- Rows 0x120 to 0x16F (R211 to R232). -/
def buildMem (n : Nat) (w : BitVec 32) (l : Option (BitVec 32)) : Instr :=
  let o := opsG w l
  let t := opsAT w
  if n < 0x12E then .ldG (memOf ((n - 0x120) / 2)) (baseOf n) o
  else if n < 0x130 then .ldGN64X2 (baseOf n) o
  else if n < 0x138 then .stG (stOf ((n - 0x130) / 2)) (baseOf n) o
  else if n < 0x13A then .stGN64X2 (baseOf n) o
  else if n < 0x13C then .ldo (nwTy (n - 0x13A)) t
  else if n < 0x13E then .sto (nwTy (n - 0x13C)) t
  else if n = 0x13E then .fence (opsN w)
  else if n = 0x13F then .fenceScSys (opsN w)
  else if n < 0x147 then .ldS (memOf (n - 0x140)) o
  else if n = 0x147 then .ldSN64X2 o
  else if n < 0x14C then .stS (stOf (n - 0x148)) o
  else if n = 0x14C then .stSN64X2 o
  else if n = 0x14D then .ldRN64 o
  else if n = 0x14E then .ldRN64X2 o
  else if n = 0x14F then .stRN64 o
  else if n < 0x153 then .atomAdd (match n - 0x150 with | 0 => .n32 | 1 => .n64 | _ => .f32) t
  else if n < 0x155 then .atomMin (sgnOf (n - 0x153)) t
  else if n < 0x157 then .atomMax (sgnOf (n - 0x155)) t
  else if n = 0x157 then .atomMaxix t
  else if n = 0x158 then .atomAnd t
  else if n = 0x159 then .atomOr t
  else if n = 0x15A then .atomXor t
  else if n = 0x15B then .atomXchg t
  else if n < 0x15E then .cas (nwTy (n - 0x15C)) t
  else if n = 0x15E then .redAddF32 t
  else if n = 0x15F then .redAddN64 t
  else if n = 0x160 then .redFlush o
  else if n = 0x161 then .ringClaim o
  else if n = 0x162 then .ringPost o
  else if n = 0x163 then .ringAwait o
  else if n = 0x164 then .ringRel o
  else if n = 0x165 then .send o
  else if n = 0x166 then .recv o
  else if n = 0x167 then .uld o
  else if n = 0x168 then .ust o
  else .stRN64X2 o

/-- Rows 0x170 to 0x19F (R170 to R207, R341 to R348). -/
def buildSys (n : Nat) (w : BitVec 32) (l : Option (BitVec 32)) : Instr :=
  let o := opsG w l
  if n = 0x170 then .bra (opsB w)
  else if n = 0x171 then .braAny (opsBP w)
  else if n = 0x172 then .braAll (opsBP w)
  else if n = 0x173 then .braNz (opsBS w)
  else if n = 0x174 then .braZ (opsBS w)
  else if n = 0x175 then .brx o
  else if n = 0x176 then .call (opsB w)
  else if n = 0x177 then .callx o
  else if n = 0x178 then .ret (opsN w)
  else if n = 0x179 then .fcall (opsB w)
  else if n = 0x17A then .fcallP (opsBS w)
  else if n = 0x17B then .split (opsBJ w)
  else if n = 0x17C then .join o
  else if n = 0x17D then .barSync (opsN w)
  else if n = 0x17E then .yield (opsN w)
  else if n = 0x17F then .exit (opsN w)
  else if n = 0x180 then (if l.isSome then .meet o else .meetV o)
  else if n = 0x181 then .barArrive o
  else if n = 0x182 then .barWait o
  else if n = 0x183 then .barExpect o
  else if n = 0x184 then .trap (opsN w)
  else if n = 0x185 then .brk (opsN w)
  else if n = 0x186 then .rng o
  else if n = 0x187 then .icPf o
  else if n = 0x188 then .icPin o
  else if n = 0x189 then .icUnpin o
  else if n = 0x18A then .nop (opsN w)
  else if n = 0x18B then .forkStat o
  else if n = 0x18C then .forkKill o
  else if n = 0x18D then .forkClr o
  else if n = 0x190 then .nlaunch o
  else if n = 0x191 then .nlaunchSeq o
  else if n = 0x192 then .nlaunchDet o
  else if n = 0x193 then .ldf (opsF w l)
  else if n = 0x194 then .stf (opsF w l)
  else if n = 0x195 then .atomf (opsF w l)
  else if n = 0x196 then .movd o
  else if n = 0x197 then .futNew o
  else if n = 0x198 then .futResolve o
  else if n = 0x199 then .futAwait o
  else if n = 0x19A then .futPoll o
  else if n = 0x19B then .futFail o
  else if n = 0x19C then .contSave o
  else .contWake o

/-- Rows 0x1A0 to 0x1EF (R313 to R318, R265 to R296). -/
def buildEng (n : Nat) (w : BitVec 32) (l : Option (BitVec 32)) : Instr :=
  let o := opsG w l
  if n = 0x1A0 then .mxIssue o
  else if n = 0x1A1 then .mxPop o
  else if n = 0x1A2 then .mxZero o
  else if n = 0x1A3 then .mxLoadacc o
  else if n = 0x1A4 then .mxStacc o
  else if n = 0x1A5 then .mxFreeze o
  else if n = 0x1A6 then .mxThaw o
  else if n = 0x1A7 then .mxDrain o
  else if n = 0x1A8 then .mxRestore o
  else if n = 0x1A9 then .mxFence o
  else if n = 0x1AA then .mxStat o
  else if n = 0x1AB then .mxWait o
  else if n = 0x1B0 then .aAdd o
  else if n = 0x1B1 then .aSub o
  else if n = 0x1B2 then .aMul o
  else if n = 0x1B3 then .aAnd o
  else if n = 0x1B4 then .aOr o
  else if n = 0x1B5 then .aXor o
  else if n = 0x1B6 then .aShl o
  else if n = 0x1B7 then .aShr o
  else if n = 0x1B8 then .aSra o
  else if n = 0x1B9 then .aMin o
  else if n = 0x1BA then .aMax o
  else if n = 0x1BB then (if l.isSome then .aMovImm o else .aMov o)
  else if n < 0x1BE then .aLdx (nwTy (n - 0x1BC)) o
  else if n = 0x1BE then .aArg o
  else if n = 0x1BF then .aNop o
  else if n = 0x1C0 then .aB (opsB w)
  else if n = 0x1C1 then .aBeq (opsAB w)
  else if n = 0x1C2 then .aBne (opsAB w)
  else if n = 0x1C3 then .aBlt (opsAB w)
  else if n = 0x1C4 then .aBge (opsAB w)
  else if n = 0x1C5 then .aLoop (opsAB w)
  else if n = 0x1C6 then .aWait (opsN w)
  else if n = 0x1C7 then .aHalt (opsN w)
  else if n = 0x1C8 then .aTrap (opsN w)
  else if n = 0x1D0 then .tdSet o
  else if n = 0x1D1 then .tdDim o
  else if n = 0x1D2 then .tdCoord o
  else if n = 0x1D3 then .tdStep o
  else if n = 0x1D4 then .tdClr o
  else if n = 0x1D5 then .mvBytes o
  else if n = 0x1D6 then .mvTile o
  else if n = 0x1D7 then .mvTilet o
  else if n = 0x1D8 then .mvReblk o
  else if n = 0x1D9 then .mvMc o
  else if n = 0x1DA then .aPost o
  else if n = 0x1DB then .aExpect o
  else if n = 0x1DC then .aArrive o
  else if n = 0x1DD then .aResolve o
  else if n = 0x1E0 then .awlGo o
  else if n = 0x1E1 then .awlStat o
  else .awlStop o

/-- The instruction an assigned word stands for, before the checks of its fields. -/
def build (w : BitVec 32) (p : Option Pfx) (l : Option (BitVec 32)) : Instr :=
  let n := opcodeOf w
  if n < 0x080 then buildInt n (opsV w p l)
  else if n < 0x100 then buildFloat n (opsV w p l)
  else if n < 0x120 then buildUni n (opsG w l)
  else if n < 0x170 then buildMem n w l
  else if n < 0x1A0 then buildSys n w l
  else buildEng n w l

/-- The class a clause must have for a word of the row: its code in the header (R28). -/
def clsCode : Cls → Nat
  | .vec => 0 | .uni => 1 | .mem => 2 | .mtx => 3 | .awl => 4 | .sys => 5 | .eng => 4

/-- R38: a control transfer is last; any other word stands in a clause of its class. -/
def placeOk (g : Sig) : Place → Bool
  | .bare => true
  | .wave c last => if g.ctl then last else clsCode g.cls = c
  | .engine last => !g.ctl || last

/-- R48 and R49: engine rows run only on an engine, and no other row does. -/
def sideOk (g : Sig) : Place → Bool
  | .bare => true
  | .wave _ _ => g.cls ≠ .eng
  | .engine _ => g.cls = .eng

end Decode

open Decode in
/-- Decode one word with its prefix and literal, making checks 4 to 6 of R40 in their order. An unassigned entry is
the row of R48, whose meaning raises ILLEGAL_OP. (Log entry 42, DEDUCED.) -/
def decode (pl : Place) (x : Words) : Except DecodeErr Instr :=
  if assignedOpc (opcodeOf x.word) then
    if isPfx x.word then .error (if x.lit.isSome then .clauseFormatLit else .prefixMisuse)
    else
      let i := build x.word (x.pfx.map pfxOf) x.lit
      match i.sig with
      | none => .error .illegalOp
      | some g =>
        if !(g.fieldsOk && sideOk g pl) then .error .illegalOp
        else if !placeOk g pl then .error .clauseFormat
        else if x.lit.isSome && g.litRule = .noFormat then .error .clauseFormatLit
        else if !g.litWordOk then .error .clauseFormat
        else match x.pfx with
          | none => .ok i
          | some p =>
            if isPfx p && pfxWordOk p && g.cls = .vec && g.pfxOk then .ok i else .error .prefixMisuse
  else .ok (.unassignedEntry x.word)

namespace Decode

/-- The prefix word of R36. -/
def encodePfx (p : Pfx) : BitVec 32 :=
  (0#2 ++ 0x1F0#9 ++ p.mask ++ BitVec.ofBool p.zero ++ BitVec.ofBool p.sat ++ BitVec.ofBool p.rnd ++ p.rm ++ p.fourth ++
    BitVec.ofBool p.has4 ++ 0#5 : BitVec 32)

/-- The instruction word: stall code, opcode, operand fields (R31). -/
def encodeSig (g : Sig) : BitVec 32 := g.st ++ BitVec.ofNat 9 g.opc ++ g.bits

end Decode

/-- The words of an instruction; events have none. -/
def encode (i : Instr) : Option Words := match i.sig with
  | some g => some ⟨g.pfx.map Decode.encodePfx, Decode.encodeSig g, g.lit⟩
  | none => match i with
    | .unassignedEntry w => some ⟨none, w, none⟩
    | _ => none

/-- The literal that a word of the opcode table is read with when the table gives it no bits: a control word of zeros
for a VC row, and a zero literal for the literal rows of MOV, UMOV, A.MOV and MEET, whose register field is 0. -/
def tableLit (w : BitVec 32) : Option (BitVec 32) :=
  let n := opcodeOf w
  if (decide (0x0D4 ≤ n) && decide (n ≤ 0x0D9)) || (decide (0x0E0 ≤ n) && decide (n ≤ 0x0ED)) then some 0
  else if (n = 0x064 || n = 0x10F || n = 0x1BB || n = 0x180) && decide (w.extractLsb 13 7 = 0) then some 0
  else none

/-- The instruction the decoder reads from an opcode-table word of 32 bits. (Log entry 14, DESIGN CHOICE.) -/
def decodeTableWord (nbits w : Nat) : Option Instr :=
  if nbits = 32 then (decode .bare ⟨none, BitVec.ofNat 32 w, tableLit (BitVec.ofNat 32 w)⟩).toOption else none

end Sys2Proof
end

