-- ==== Sys2Proof/Machine/Sched.lean ====
section
/-!
DEFINITION. What binds the waves of a block: strict mode's schedule (R85, R86), block barriers (R82, R83), the end of a
wave (R178); where return stacks stand (R22, R192, R321); and split-rein forks: opening, commit, squash and the predictor
(R190 to R200).
-/
namespace Sys2Proof.Machine

/-! ### Strict mode's schedule (R85) -/

/-- The waves of a block, twins apart. -/
def State.wavesOf (s : State) (bid : Nat) : List Wave :=
  (s.waves.filter fun e => e.2.block = bid && e.2.twin.isNone).map Prod.snd

/-- A wave in its drain handler: code 0 and taddr 0 (R248). -/
def Wave.draining (w : Wave) : Bool := w.trap.any fun t => t.first = 0 && t.addr = 0

/-- A wave that can issue: it has a runnable path and no parked lane (R84). (Log entry 20, DEDUCED.) -/
def Wave.canIssue (w : Wave) : Bool := w.parked = 0 && w.paths.any fun p => w.runnable p

/-- The lowest index, from `lo` on, of a wave of the block that can issue. (Log entry 20, DEDUCED.) -/
def State.lowestAble (s : State) (bid lo : Nat) : Option Nat :=
  ((s.wavesOf bid).filter fun w => w.canIssue && decide (lo ≤ w.idx)).foldl (fun (m : Option Nat) w => match m with
    | none => some w.idx
    | some k => some (min k w.idx)) none

/-- A switch point of a strict block: the lowest-indexed wave that can issue runs next (R85); while none can, the choice
is owed. (Log entry 20, DEDUCED.) -/
def State.switch (s : State) (w : Wave) : State :=
  if !w.strict then s else match s.lowestAble w.block 0 with
  | some k => s.modBlock w.block fun b => { b with run := k, owed := false }
  | none => s.modBlock w.block fun b => { b with owed := true }

/-- YIELD's switch point: the lowest-indexed such wave above the yielding one, wrapping to the lowest. -/
def State.switchAbove (s : State) (w : Wave) : State :=
  if !w.strict then s else match s.lowestAble w.block (w.idx + 1) with
  | some k => s.modBlock w.block fun b => { b with run := k, owed := false }
  | none => s.switch w

/-- Is it this wave's turn in its block (R85, R86, R202)? Normal mode lets any wave issue. In strict mode the running
wave does, and holds the block while it waits at no switch point or has parked lanes; when the choice at a switch point
is owed, the lowest-indexed wave that can issue is chosen. A twin issues only beside its running parent. A drain or
restore entry runs beside the schedule (R248). (Log entry 20, DEDUCED.) -/
def State.scheduled (s : State) (w : Wave) : Bool :=
  if !w.strict || w.trap.any (fun t => t.first = 0) then true else match aget s.blocks w.block with
  | none => false
  | some b =>
    if w.twin.isSome then !b.owed && b.run = w.idx
    else if w.parked ≠ 0 then false
    else if b.owed then s.lowestAble w.block 0 = some w.idx
    else b.run = w.idx

/-- The wave that issues is its block's running wave. -/
def State.nowRuns (s : State) (w : Wave) : State :=
  if !w.strict || w.twin.isSome || w.trap.any (fun t => t.first = 0) then s
  else s.modBlock w.block fun b => if b.run = w.idx && !b.owed then b else { b with run := w.idx, owed := false }

/-- A path that waits for its word's operation, added in `s`, reaches a switch point (R85); in handler mode that is a
double fault instead, and the word, met in `s0`, does nothing (R240). -/
def WCtx.blocks (c : WCtx) (s0 s : State) : State :=
  if c.p.handler then doubleFault s0 c.w else (s.pathWaits c).switch c.w

/-! ### Block barriers (R82, R83) -/

def Block.bar (b : Block) (k : Nat) : Bar := (aget b.bars k).getD ⟨0, [], []⟩

/-- A wave all of whose lanes have exited has arrived at every phase; a wave gone has exited. -/
def State.arrived (s : State) (b : Block) (l : List Nat) : Nat :=
  ((List.range b.nwaves).filter fun i =>
    l.contains i || !((s.wavesOf b.id).any fun w => w.idx = i && w.live ≠ 0)).length

/-- Does the wave wait for a phase, in a path or in the wait that a drain entry took a path out of (R247, R248)? -/
def Wave.awaitsBar (w : Wave) (k phase : Nat) : Bool :=
  (w.paths.any fun p => p.st = .bar k phase) || w.trap.any fun t => t.held = .bar k phase

/-- Those waits have ended. -/
def Wave.openBar (w : Wave) (k phase : Nat) : Wave :=
  let free (p : Path) : Path := if p.st = .bar k phase then { p with st := .run } else p
  { w with
    paths := w.paths.map free
    trap := w.trap.map fun t => if t.held = .bar k phase then { t with held := .run } else t }

/-- Let the paths that wait for a phase go on; each such wave's completion is an acquire (R83, R117). -/
def State.openBar (s : State) (b : Block) (k phase : Nat) : State :=
  (s.wavesOf b.id).foldl (fun s w =>
    if w.awaitsBar k phase then (s.modWave w.id fun w => w.openBar k phase).acquire w else s) s

/-- Complete the phases of a barrier that are complete: the current one and then the next. -/
def State.checkBar (s : State) (bid k : Nat) : Nat → State
  | 0 => s
  | n + 1 => match aget s.blocks bid with
    | none => s
    | some b =>
      let x := b.bar k
      if b.nwaves ≤ s.arrived b x.cur && (s.wavesOf bid).any fun w => w.awaitsBar k x.phase then
        ((s.modBlock bid fun b => { b with bars := aset b.bars k ⟨x.phase + 1, x.next, []⟩ }).openBar b k x.phase).checkBar bid k n
      else s

/-- A path of a wave arrives at a barrier and waits for its phase. -/
def State.arrive (s : State) (w : Wave) (pid k : Nat) : State := match aget s.blocks w.block with
  | none => s
  | some b =>
    let x := b.bar k
    let second := x.cur.contains w.idx
    let x' := if second then { x with next := insertNat w.idx x.next } else { x with cur := insertNat w.idx x.cur }
    let phase := if second then x.phase + 1 else x.phase
    let s1 := (s.modBlock w.block fun b => { b with bars := aset b.bars k x' }).modWave w.id fun w => match w.path pid with
      | some p => w.setPath { p with st := .bar k phase }
      | none => w
    s1.checkBar w.block k 2

/-- Complete what an exited wave's standing arrival completes. -/
def State.checkBars (s : State) (bid : Nat) : State := match aget s.blocks bid with
  | none => s
  | some b => b.bars.foldl (fun s e => s.checkBar bid e.1 2) s

/-! ### The end of a wave (R178) -/

/-- A wave's slot is freed when every lane has exited and nothing of it is outstanding; its block ends with the last. -/
def State.tryFree (s : State) (wid : Nat) : State := match aget s.waves wid with
  | none => s
  | some w =>
    if w.twin.isNone && w.live = 0 && w.ctr.all (· = 0) && w.queue.isEmpty && w.ops.isEmpty then
      let s1 := s.removeWave wid
      if (s1.wavesOf w.block).isEmpty then s1.endBlock w.block else s1
    else s

/-! ### The return-value predictor (R193) -/

def predIdx (site : Nat) : Nat := site / 4 % 512

/-- The prediction of v_k in a lane. -/
def PredEnt.value (e : PredEnt) (k l : Nat) (caller : Word) : Option Word := match e.modes.getD k 0 with
  | 1 => some caller
  | 2 => some (e.base.getD k 0 + BitVec.ofNat 64 l * e.stride.getD k 0)
  | _ => none

/-- Key of v_k of a lane among recorded values. -/
def valKey (l k : Nat) : Nat := l * 4 + k

/-- The new mode, base and stride of one register, from its actual and caller's values. -/
def trainReg (lanes : Lanes) (a c : Nat → Word) (base stride : Word) : Nat × Word × Word :=
  let ls := laneList lanes
  if ls.all fun l => a l = c l then (1, base, stride) else
  let l0 := lowestLane lanes
  let d := if inLanes lanes (l0 + 1) then a (l0 + 1) - a l0 else 0
  if ls.all fun l => a l = a l0 + BitVec.ofNat 64 (l - l0) * d then (2, a l0 - BitVec.ofNat 64 l0 * d, d)
  else (0, base, stride)

/-- Train an entry: `a` gives the actual values and `c` the caller's, by register and lane. -/
def trainEnt (old : Option PredEnt) (site : Nat) (lanes : Lanes) (a c : Nat → Nat → Word) : PredEnt :=
  let e := old.getD ⟨0, [0, 0, 0, 0], site, [0, 0, 0, 0], [0, 0, 0, 0]⟩
  let fits := old.isSome && e.site = site &&
    (List.range 4).all fun k => (laneList lanes).all fun l => e.value k l (c k l) = some (a k l)
  if fits then { e with conf := min (e.conf + 1) 3 } else
  let r := (List.range 4).map fun k => trainReg lanes (a k) (c k) (e.base.getD k 0) (e.stride.getD k 0)
  ⟨0, r.map fun x => x.1, site, r.map fun x => x.2.1, r.map fun x => x.2.2⟩

/-! ### Where return stacks stand (R22, R192, R321) -/

def Wave.depth (w : Wave) (l : Nat) : Nat := ((aget w.stack l).getD []).length

/-- The open records that a wave's returns may end: a twin's are its caller's (R197). -/
def Wave.records (w : Wave) : List ForkRec := match w.twin with
  | some t => t.outer
  | none => w.forks
def Wave.setRecords (w : Wave) (l : List ForkRec) : Wave := match w.twin with
  | some t => { w with twin := some { t with outer := l } }
  | none => { w with forks := l }

/-- Entries of a lane's stack that stand in spill memory, and those that its cache holds (R22). -/
def Wave.spilledOf (w : Wave) (l : Nat) : Nat := (aget w.spilled l).getD 0
def Wave.cached (w : Wave) (l : Nat) : Nat := w.depth l - w.spilledOf l

/-- Entry `d` of a lane's stack, counted from the bottom. -/
def Wave.entry (w : Wave) (l d : Nat) : Word := ((aget w.stack l).getD []).getD (w.depth l - 1 - d) 0
/-- Entry `d` is back in the cache: if it is spilled again, a fork open now has seen that (R192). -/
def Wave.setEntry (w : Wave) (l d : Nat) (x : Word) : Wave :=
  let seen (r : ForkRec) : ForkRec := { r with low := aset r.low l (min d ((aget r.low l).getD d)) }
  let w1 : Wave := { w with
    stack := aset w.stack l (((aget w.stack l).getD []).set (w.depth l - 1 - d) x), spilled := aset w.spilled l d }
  w1.setRecords (w1.records.map seen)

/-- The part of its block's return-stack spill area that a wave's threads have (R321). (Log entry 11, DESIGN CHOICE.) -/
def State.spillBase (s : State) (w : Wave) : Nat := match aget s.blocks w.block with
  | some b => b.spill + (if b.cont then 0 else w.idx * w.width * w.rets * 8)
  | none => 0

/-- Does entry `d` of a lane's stack, when it is spilled, stand in the frame of a record's fork: is it spilled since the
fork (R192)? (Log entry 11, DESIGN CHOICE.) -/
def ForkRec.takes (r : ForkRec) (l d : Nat) : Bool :=
  r.frame ≠ 0 && inLanes r.lanes l && decide ((aget r.low l).getD 0 ≤ d)

/-- Where entry `d` of a lane's stack is spilled: to the frame of the youngest of some records' forks since which that is
done (R192), else to the thread's part of its block's area; 8 bytes for each entry, from the bottom up. (Log entry 11,
DESIGN CHOICE.) -/
def Wave.spillAddrOf (w : Wave) (records : List ForkRec) (base l d : Nat) : Word :=
  BitVec.ofNat 64 (8 * (l * w.rets + d) + (match records.reverse.find? fun r => r.takes l d with
    | some r => r.frame
    | none => base))
/-- Log entry 11, DESIGN CHOICE. -/
def Wave.spillAddr (w : Wave) (base l d : Nat) : Word := w.spillAddrOf w.records base l d

/-- Spill some entries of a lane's stack, lowest first, up to one whose place does not translate: that one and those above it
are cached. No other agent sees them before the thread's next release (R22). (Log entry 11, DESIGN CHOICE.) -/
def State.spillLane (s : State) (wid : Nat) (records : List ForkRec) (l : Nat) : List Nat → State
  | [] => s
  | d :: rest => match aget s.waves wid with
    | none => s
    | some w => match s.translate w.part (w.spillAddrOf records (s.spillBase w) l d) .store with
      | .error _ => s.modWave wid fun w => { w with spilled := aset w.spilled l d }
      | .ok x => State.spillLane (({ s.touch w.part x true with nextId := s.nextId + 1 } : State).modWave wid fun w =>
          { w with
            spilled := aset w.spilled l (d + 1)
            spills := w.spills ++ [⟨s.nextId, l, .glob x.pa, bytesOf 8 (w.entry l d).toNat, none, true⟩] }) wid records l rest

/-! ### Opening a record and a fork (R190 to R192) -/

/-- The lanes' v0 to v3. -/
def Wave.vals4 (w : Wave) (lanes : Lanes) : Sparse 64 :=
  (laneList lanes).foldl (fun m l => (List.range 4).foldl (fun m k => sset m (valKey l k) (w.reg (.v k) l)) m) []

/-- The return address a lane's stack holds on top, or 0. -/
def Wave.topOf (w : Wave) (l : Nat) : Word := (((aget w.stack l).getD []).head?).getD 0

/-- Waves of a sub-core. -/
def State.onSub (s : State) (core sub : Nat) : List Wave :=
  (s.waves.filter fun e => e.2.core = core && e.2.sub = sub && !s.away e.2.part).map Prod.snd

/-- The lowest free wave slot of a sub-core whose register space takes a wave of `v` registers and width `W` (R8). -/
def State.freeSlot (s : State) (core sub v W : Nat) : Option Nat :=
  let here := s.onSub core sub
  let used := here.foldl (fun n w => n + 8 * w.vregs * w.width) 0
  if 131072 < used + 8 * v * W then none
  else (List.range 12).find? fun k => !here.any fun w => w.slot = k

/-- A record of an FCALL at the word of wave `w`, which has spilled what its push needed. -/
def WCtx.forkRec (c : WCtx) (w : Wave) (twin : Option Nat) (trains : Bool) (frame : Nat) : ForkRec where
  site := c.addr
  ret := c.after
  lanes := c.act
  depths := (laneList c.act).foldl (fun m l => aset m l (c.w.depth l)) []
  vals := c.w.vals4 c.act
  twin := twin
  trains := trains
  back := 0
  wrote := []
  frame := frame
  low := (laneList c.act).foldl (fun m l => aset m l (w.spilledOf l)) []
  clash := 0

/-- The twin that starts at the return point (R192): `vals` are its v0 to v3. It has no records of its own, so that its fork
state word shows none (R205). (Log entry 19, DEDUCED.) -/
def WCtx.twinOf (c : WCtx) (id slot ready : Nat) (vals : Nat → Nat → Word) : Wave :=
  let w0 := (laneList c.act).foldl (fun w l => (List.range 4).foldl (fun w k => w.setReg (.v k) l (vals k l)) w) c.w
  let p : Path := { (c.p.goto c.after) with id := 0, lanes := c.act }
  { w0 with
    id := id, slot := slot, ready := ready
    lk := (laneList c.act).foldl (fun m l => sset m l (c.w.topOf l)) c.w.lk
    ctr := List.replicate 6 0, paths := [p], runPath := some 0, pinned := false, queue := [], spills := [], ops := [], forks := []
    late := c.w.late.filter (fun e => match e.reg with | .v n => decide (4 ≤ n) | _ => true)
    twin := some ⟨c.w.id, w0.vals4 c.act, [], [], none, [], [], c.w.forks⟩ }

/-- The conditions of R191 that do not concern the predictor or the frame, and the twin's slot. -/
def State.mayFork (s : State) (c : WCtx) : Option Nat :=
  if c.w.twin.isNone && c.act = c.w.live && c.w.ctr.all (· = 0) && decide (c.w.forks.length < 2) &&
      decide (((s.onSub c.w.core c.w.sub).filter fun w => w.twin.isSome).length < 4) then
    s.freeSlot c.w.core c.w.sub c.w.vregs c.w.width
  else none

/-- A number that no wave has. -/
def State.newWave (s : State) : Nat := s.waves.foldl (fun m e => max m (e.1 + 1)) s.nextId

/-- What FCALL and FCALL.P do beside their call: a fork when R191 allows it, else a train-only record when one is free,
and the core's count of plain calls. -/
def State.openFork (s : State) (c : WCtx) (vals : Option (Nat → Nat → Word)) (trains : Bool) : State :=
  let plain (s : State) : State :=
    let s1 := s.modCore c.w.core fun k => { k with plain := k.plain + 1 }
    if c.w.twin.isSome || decide (2 ≤ c.w.forks.length) then s1
    else s1.modWave c.w.id fun w => { w with forks := w.forks ++ [c.forkRec w none trains 0] }
  match s.mayFork c, vals with
  | some slot, some f => match s.alloc c.w.part c.w.die (c.w.rets * 8 * c.w.width) 256 (.fork c.w.id) with
    | (.at frame, s1) =>
      let t := c.twinOf s1.newWave slot (c.t + 1) f
      let s2 := s1.modWave c.w.id fun w => { w with forks := w.forks ++ [c.forkRec w (some t.id) trains frame] }
      ({ s2 with nextId := t.id + 1 } : State).setWave t
    | _ => plain s
  | _, _ => plain s

/-! ### Resolution (R197 to R200) -/

/-- Has every lane of the record returned or exited? -/
def Wave.recDone (w : Wave) (r : ForkRec) : Bool := r.lanes &&& ~~~(r.back ||| w.exited) = 0

/-- The youngest record of a wave that may resolve: its counters are 0. -/
def Wave.resolvable (w : Wave) : Option ForkRec :=
  if w.twin.isNone && w.ctr.all (· = 0) then (w.forks.reverse).find? (fun r => w.recDone r) else none

def State.freeForkFrame (s : State) (p wid frame : Nat) : State :=
  s.modPart p fun q => { q with allocs := q.allocs.filter fun a => !(a.kind = .fork wid && a.base = frame) }

/-- The lanes that wait at a record's return point go on as one path. -/
def Wave.rejoin (w : Wave) (r : ForkRec) : Wave :=
  w.merge (fun q => q.st = .ret && q.lanes &&& ~~~r.back = 0) fun q => { q with st := .run }

/-- The predictor trains (R193). -/
def State.train (s : State) (w : Wave) (r : ForkRec) : State :=
  if !r.trains || r.back = 0 then s else
  s.modCore w.core fun k =>
    let e := trainEnt (aget k.pred (predIdx r.site)) r.site r.back (fun j l => w.reg (.v j) l)
      fun j l => sget r.vals (valKey l j)
    { k with pred := aset k.pred (predIdx r.site) e }

/-- The cause that keeps a fork from committing (R198). -/
def Wave.forkCause (w : Wave) (r : ForkRec) (t : Twin) : Nat :=
  if r.clash ≠ 0 then r.clash
  else if (laneList r.back).any fun l => (List.range 4).any fun k => w.reg (.v k) l ≠ sget t.start (valKey l k) then 1
  else if regClash r.wrote t.rd then 5 else 0

/-- Copy registers of lanes from one wave to another; a j register brings its partner mask. -/
def Wave.takeRegs (w src : Wave) : RegSet → Wave
  | [] => w
  | (r, m) :: rest =>
    let w1 := (laneList m).foldl (fun w l => w.setReg r l (src.reg r l)) w
    let w2 := match r with
      | .j n => { w1 with jp := sset w1.jp n (sget src.jp n) }
      | _ => w1
    Wave.takeRegs w2 src rest

/-- A record that was open at the fork, with what the callee wrote beside it, the lanes that the twin brought to its return
point and the entries that the twin has spilled. -/
def ForkRec.after (o : ForkRec) (tw : Twin) (k : Nat) : ForkRec :=
  { o with
    wrote := if o.twin.isSome then RegSet_add o.wrote tw.wr else o.wrote
    back := o.back ||| ((tw.outer[k]?).map ForkRec.back).getD 0
    low := ((tw.outer[k]?).map ForkRec.low).getD o.low }

/-- The wave a committed twin becomes (R199). -/
def Wave.committed (w t : Wave) (r : ForkRec) (tw : Twin) : Wave :=
  let keep := (RegSet_minus r.wrote tw.wr).filter fun e => e.1.clashes
  { t.takeRegs w keep with
    id := w.id, twin := none, queue := w.queue ++ tw.buf, spills := w.spills, ops := w.ops ++ t.ops, cause := 0
    redGen := w.redGen, redCnt := w.redCnt, exited := w.exited
    forks := (w.forks.erase r).mapIdx fun k o => o.after tw k }

/-- Does a word that meets an invalid entry with data access it to write: a store, or a call, whose push spills (R194,
R242)? -/
def writesAt (w : BitVec 32) : Bool :=
  let n := opcodeOf w
  decide (0x130 ≤ n ∧ n < 0x13A) || [0x168, 0x176, 0x177, 0x179, 0x17A].contains n

/-- The word that stands at index `i` of a clause, or behind the prefix there. -/
def Clause.wordAt (c : Clause) (i : Nat) : BitVec 32 :=
  let w := c.words.getD (i - 1) 0
  if Decode.isPfx w then c.words.getD i 0 else w

/-- Raise a fault that a twin held, at its word (R196, R199): a page fault parks the lanes that met it.
(Log entry 19, DEDUCED.) -/
def State.raiseHeld (s : State) (wid : Nat) (h : Held) : State := match aget s.waves wid with
  | none => s
  | some w => match w.paths.find? fun p => p.lanes &&& h.lanes ≠ 0 with
    | none => s
    | some p =>
      if h.code = cPageFault then
        let acc := if h.word = 0 then aFetch else if p.clause.any fun c => writesAt (c.wordAt h.word) then aWrite else aRead
        let whole := p.lanes &&& ~~~h.lanes = 0
        let (s1, n) := s.newRec w.part cPageFault 0 acc w.core h.addr h.lanes h.pc (.path wid (if whole then p.id else w.newPath))
        s1.modWave wid fun w =>
          if whole then w.setPath { p with st := .parked n } else
          { w.setPath { p with lanes := p.lanes &&& ~~~h.lanes } with
            paths := (w.setPath { p with lanes := p.lanes &&& ~~~h.lanes }).paths ++
              [{ p with id := w.newPath, lanes := h.lanes, st := .parked n }] }
      else takeFault s wid p.id ⟨h.code, h.lanes, h.addr, h.pc, h.word, h.cls, true⟩

/-- The entries that a record's lanes have in its fork's frame, which is about to be released, are spilled to the place
where they would stand without the record. (Log entry 11, DESIGN CHOICE.) -/
def State.leaveFrame (s : State) (w : Wave) (r : ForkRec) : State :=
  if r.frame = 0 then s else
  (laneList r.back).foldl (fun s l =>
    s.spillLane w.id (w.forks.erase r) l ((List.range (min (w.spilledOf l) (w.depth l))).drop ((aget r.low l).getD 0))) s

/-- Resolve a record: train; commit the twin or squash it; let the waiting lanes go on (R197 to R200). The cause of a fork
that was squashed at once (causes 8 to 10) is the wave's last cause from here on, as any other is (R205). (Log entry 19,
DEDUCED.) -/
def State.resolveFork (s : State) (w : Wave) (r : ForkRec) : State :=
  let s0 := s.train w r
  let drop (w : Wave) : Wave := { w with forks := w.forks.erase r }
  let plainEnd (s : State) (cause : Nat) : State :=
    s.modWave w.id fun w => { drop (w.rejoin r) with cause := if cause = 0 then w.cause else cause }
  match r.twin.bind fun t => (aget s0.waves t).bind fun x => x.twin.map fun tw => (x, tw) with
  | none =>
    let s1 := if r.frame = 0 then s0 else (s0.leaveFrame w r).freeForkFrame w.part w.id r.frame
    plainEnd s1 r.clash
  | some (t, tw) =>
    let s1 : State := { s0.freeForkFrame w.part w.id r.frame with waves := aerase s0.waves t.id }
    match w.forkCause r tw with
    | 0 =>
      let s2 := (s1.modCore w.core fun k => { k with committed := k.committed + 1 }).setWave (w.committed t r tw)
      let s2 := (tw.buf.filterMap StoreEnt.leaf).foldl State.dirty s2
      let s3 := (s2.touchForks w.id 2 ((tw.buf.map fun e => granules e.loc e.bytes.length).flatten)).touchForks w.id 3 tw.loads
      let s4 := s3.noteClash w.id
      match tw.held with
      | some h => s4.raiseHeld w.id h
      | none => s4
    | cause => plainEnd ((s1.leaveFrame w r).modCore w.core fun k => { k with squashed := k.squashed + 1 }) cause

/-- Squash the youngest live fork of a wave (R206). (Log entry 19, DEDUCED.) -/
def State.squashYoungest (s : State) (wid cause : Nat) : State := match aget s.waves wid with
  | none => s
  | some w => match (w.forks.reverse).find? fun f => f.twin.isSome with
    | none => s
    | some f =>
      let s1 : State := match f.twin with
        | some t => { s with waves := aerase s.waves t }
        | none => s
      let mark (g : ForkRec) : ForkRec :=
        if g.twin = f.twin then { g with twin := none, clash := if g.clash = 0 then cause else g.clash } else g
      (s1.modCore w.core fun k => { k with squashed := k.squashed + 1 }).setWave { w with forks := w.forks.map mark }

/-- Lanes of a record that exited in the callee (cause 7). -/
def State.exitForks (s : State) (wid : Nat) (m : Lanes) : State := s.modWave wid fun w =>
  if w.forks.isEmpty then w else { w with forks := w.forks.map fun f => if f.lanes &&& m ≠ 0 then f.mark 7 else f }

end Sys2Proof.Machine
end

