-- ==== Sys2Proof/Machine/Fetch.lean ====
section
/-!
DEFINITION. Fetching a clause (R28 to R30, R40 checks 1 to 3), a wave's turn and an Awl channel's turn up to the word
that is to run (R34, R37, R74, R264). `Machine/Step.lean` only calls these.
-/
namespace Sys2Proof.Machine

/-- A 32-bit word in memory (R2). -/
def State.word32 (s : State) (pa : Nat) : BitVec 32 := BitVec.ofNat 32 (ofBytes (s.bytes (.glob pa) 4))

/-- A word of code that a grid fetches: as it stood at the grid's launch, but where the grid itself has written bytes of it,
as it stood then or as it stands now, freely (R45, R264, log entry 10, DESIGN CHOICE). -/
def State.codeWord (s : State) (grid pa : Nat) : BitVec 32 := match aget s.grids grid with
  | none => s.word32 pa
  | some g => match g.code with
    | none => s.word32 pa
    | some m =>
      let old := BitVec.ofNat 32 (ofBytes ((List.range 4).map fun k => sget m (pa + k)))
      if (g.own.any fun w => overlaps w.1 w.2 pa 4) && Config.freeBit s.fresh pa then s.word32 pa else old

/-- Fields of a clause header (R28). -/
def hdrCount (h : BitVec 32) : Nat := (h.extractLsb 31 28).toNat
def hdrClass (h : BitVec 32) : Nat := (h.extractLsb 27 25).toNat
def hdrWaits (h : BitVec 32) (i : Nat) : Bool := h.getLsbD (19 + i)
/-- Is word `i` of the clause (1 is the first) a literal? -/
def hdrLit (h : BitVec 32) (i : Nat) : Bool := decide (1 ≤ i) && decide (i ≤ 15) && h.getLsbD (3 + i)

/-- Check 1 of R40: the clause lies within one aligned 128-byte block (R30). -/
def hdrFits (a : Nat) (h : BitVec 32) : Bool := a % 4 = 0 && decide (a % 128 + 4 * (hdrCount h + 1) ≤ 128)
/-- Check 2: no fault of R29. -/
def hdrOk (h : BitVec 32) : Bool :=
  decide (1 ≤ hdrCount h) && decide (hdrClass h ≤ 5) && decide (h.extractLsb 3 0 = 0) &&
    (List.range 15).all fun k => !h.getLsbD (4 + k) || decide (k + 1 ≤ hdrCount h)
/-- Check 3: may a wave of the role issue clauses of the class? (R73) -/
def roleOk (role cls : Nat) : Bool :=
  cls = 1 || cls = 5 ||
    (if role = 1 then cls = 4 else if role = 2 then cls = 3 else if role = 3 then cls = 0 || cls = 2 || cls = 3
     else cls = 0 || cls = 2 || cls = 4)

/-- The first of checks 1 to 3 that fails for a wave's clause. -/
def clauseFault (role a : Nat) (h : BitVec 32) : Option Nat :=
  if !hdrFits a h then some cFetchAlign else if !hdrOk h then some cClauseFormat
  else if !roleOk role (hdrClass h) then some cRoleViolation else none

/-- The clause whose header a grid has read at a physical address. (Log entry 10, DESIGN CHOICE.) -/
def State.clauseAt (s : State) (grid pa : Nat) (h : BitVec 32) : Clause :=
  ⟨h, (List.range (hdrCount h)).map fun i => s.codeWord grid (pa + 4 * (i + 1))⟩

/-! ### A wave's fetch -/

/-- A fault at a path's clause header, whose class field is `cls`. -/
def State.headerFault (s : State) (w : Wave) (p : Path) (code cls : Nat) (addr : Word) : State :=
  takeFault s w.id p.id ⟨code, p.lanes, addr, p.hdr, 0, cls, false⟩

/-- A fetch that meets an invalid entry parks the whole path at its header (R94, R241); a twin holds it (R196). -/
def State.fetchPark (s : State) (w : Wave) (p : Path) : State :=
  if w.twin.isSome then s.headerFault w p cPageFault 0 (BitVec.ofNat 64 p.hdr) else
  let (s1, n) := s.newRec w.part cPageFault 0 1 w.core (BitVec.ofNat 64 p.hdr) p.lanes p.hdr (.path w.id p.id)
  s1.modWave w.id fun w => { w.setPath { p with st := .parked n } with pinned := false }

/-- Replace a wave whose lanes may have met, tracking as written what that changed. -/
def State.setMet (s : State) (w w' : Wave) : State :=
  (s.setWave w').trackRegs w.id [] (if w.twin.isNone && w.forks.isEmpty then [] else RegSet_add [] (w.metRegs w'))

/-- One step of a path's fetch: it skips a pad word, or its lanes wait at a meeting point that the header is, or it has its
clause, or it takes a fault at the header, or it parks (R29, R30, R80, R94, R177); a twin holds what it meets (R196). (Log entry 10, DESIGN CHOICE.)
(Log entry 19, DEDUCED.) -/
def State.fetch (s : State) (w : Wave) (p : Path) : State :=
  match s.translate w.part (BitVec.ofNat 64 p.hdr) .fetch with
  | .error .pageFault => s.fetchPark w p
  | .error .rights => s.headerFault w p cAccessRights 0 (BitVec.ofNat 64 p.hdr)
  | .ok x =>
    if p.hdr % 4 ≠ 0 then s.headerFault w p cFetchAlign 0 0 else
    let s1 := { s.touch w.part x false with fresh := s.fresh + 1 }
    let spoilt : State := s1.headerFault w p cScratchEcc 0 (BitVec.ofNat 64 p.hdr)
    if s1.poisoned (.glob x.pa) 4 then spoilt else
    let h := s1.codeWord w.grid x.pa
    if h = 0 then s1.setWave (w.setPath { p with hdr := p.hdr + 4, idx := 0 }) else
    let s1 := if p.idx = 0 then s1.trackRegs w.id [(.mtg, p.lanes)] [] else s1
    let w := (aget s1.waves w.id).getD w
    if p.idx = 0 && (laneList p.lanes).any fun l => p.hdr ≠ 0 && sget w.mtg l = BitVec.ofNat 64 p.hdr then
      s1.setMet w (w.reachHeader p) else
    match clauseFault w.role p.hdr h with
    | some code => s1.headerFault w p code (hdrClass h) 0
    | none =>
      if s1.poisoned (.glob x.pa) (4 * (hdrCount h + 1)) then spoilt
      else if hdrCount h < p.idx then s1.setWave (w.setPath (p.goto (afterClause p.hdr h)))
      else s1.setWave (w.setPath
        { p with clause := some (s1.clauseAt w.grid x.pa h), idx := max p.idx 1, head := p.idx = 0 || p.head })

/-! ### The next word of a clause (R34, R36) -/

/-- What stands at the next place of a clause: an instruction's words, and the index after them; or a fault of its
form. -/
inductive NextWord where
  | words (w : Words) (next : Nat)
  | bad (code idx : Nat)
deriving DecidableEq, Repr

def Clause.word (c : Clause) (i : Nat) : BitVec 32 := c.words.getD (i - 1) 0

/-- The words at index `i`: a literal there, or after a prefix, breaks R34; a prefix at the end of the clause breaks
R37. -/
def Clause.next (c : Clause) (i : Nat) : NextWord :=
  let n := hdrCount c.hdr
  if hdrLit c.hdr i then .bad cClauseFormat i
  else if Decode.isPfx (c.word i) then
    if n ≤ i then .bad cPrefixMisuse i
    else if hdrLit c.hdr (i + 1) then .bad cClauseFormat (i + 1)
    else if hdrLit c.hdr (i + 2) then .words ⟨some (c.word i), c.word (i + 1), some (c.word (i + 2))⟩ (i + 3)
    else .words ⟨some (c.word i), c.word (i + 1), none⟩ (i + 2)
  else if hdrLit c.hdr (i + 1) then .words ⟨none, c.word i, some (c.word (i + 1))⟩ (i + 2)
  else .words ⟨none, c.word i, none⟩ (i + 1)

/-- Where a decoding fault is reported: the word, its prefix, or its literal (R40). -/
def DecodeErr_at (e : DecodeErr) (i : Nat) (x : Words) : Nat × Nat := match e with
  | .illegalOp => (cIllegalOp, i)
  | .clauseFormat => (cClauseFormat, i)
  | .clauseFormatLit => (cClauseFormat, i + (if x.pfx.isSome then 2 else 1))
  | .prefixMisuse => (cPrefixMisuse, i)

/-! ### Turns -/

/-- What a turn comes to: a state, or an instruction to run in a state whose cursor names its word. -/
inductive Act where
  | done (s : State)
  | run (i : Instr) (s : State)

/-- Are the partition's waves stopped? While it is frozen or saved (R247), but for a wave in its drain handler (R248); and
a wave that has left handler mode stands still until it makes an entry that waits. -/
def State.frozenPart (s : State) (w : Wave) : Bool := match (s.part w.part).stage with
  | .run | .soft | .stopped => w.trap.isNone && (s.part w.part).drains.any fun e => e.1 = w.id
  | .freeze => !w.draining
  | .saved => true

/-- A twin that holds a fault or waits at its record's return point issues nothing (R196). -/
def Wave.twinStopped (w : Wave) : Bool := match w.twin with
  | some t => t.held.isSome
  | none => false

/-- Are all words of a clause from index `i` on literals, so that the word before them is its last (R34, R38)? -/
def Clause.restLit (c : Clause) (i : Nat) : Bool :=
  ((List.range (hdrCount c.hdr + 1)).drop i).all fun k => hdrLit c.hdr k

/-- The word that stands next on a path; what is asked of it here does not depend on its prefix or literal. -/
def Path.next (p : Path) : Option Instr := p.clause.bind fun c => match c.next p.idx with
  | .words x _ => some (Decode.build x.word none none)
  | .bad _ _ => none

/-- The port that issues it: C for one that has no other (R75). -/
def Path.port (p : Path) : Option Nat := p.next.map fun i => (i.sig.map sigPort).getD 2

/-- Has the path come, at the header, to a clause at which a debugger holds a breakpoint (R262)? (Log entry 49, DEDUCED.) -/
def State.atBreak (s : State) (w : Wave) (p : Path) : Bool :=
  p.idx = 1 && p.head && p.clause.isSome && (s.part w.part).breaks.contains p.hdr

/-- May the path issue or fetch now: its clause's waits met, and its word not held by a counter's ceiling (R74)?
(Log entry 49, DEDUCED.) -/
def State.pathReady (s : State) (w : Wave) (p : Path) : Bool :=
  w.mayRun p && !w.twinStopped && !s.frozenPart w && s.scheduled w &&
    !(p.idx = 1 && p.clause.any fun c => (List.range 6).any fun k => hdrWaits c.hdr k && decide (w.ctr.getD k 0 ≠ 0)) &&
    (s.atBreak w p || !(p.next.bind Instr.sig).any w.atCeiling)

/-- Is a port free for a word at clock `t`: does no word have it at that clock (R75, R76)? -/
def State.portFree (s : State) (w : Wave) (port t : Nat) : Bool :=
  decide (((aget (s.core w.core).ports (w.portKey port)).getD 0) ≤ t)

/-- Does the port choose the wave at clock `t`: has no other wave of the sub-core that is ready with a word for it gone
longer without issuing, a tie going to the lower slot (R75)? One whose word has had its turn since and is held is not
ready. (Log entry 3, DESIGN CHOICE.) -/
def State.portPicks (s : State) (w : Wave) (port t : Nat) : Bool :=
  !(s.onSub w.core w.sub).any fun x => x.id ≠ w.id && decide (x.ready ≤ t) &&
    (decide (x.issued < w.issued) || x.issued = w.issued && decide (x.slot < w.slot)) &&
    x.paths.any fun p => p.port = some port && decide (p.turn ≤ x.issued) && s.pathReady x p

/-- A path takes a turn. (Log entry 3, DESIGN CHOICE.) -/
def State.turns_ (s : State) (w : Wave) (p : Path) : State := s.modWave w.id fun x => x.setPath { p with turn := s.clock + 1 }

/-- A breakpoint acts as BRK before the clause's first word, and a twin stalls there (R180, R195, R262). (Log entry 49,
DEDUCED.) -/
def State.breakAt (s : State) (w : Wave) (p : Path) : State :=
  if w.twin.isSome then s
  else takeFault s w.id p.id ⟨cBreakpoint, p.lanes, 0, p.hdr, 0, (p.clause.map fun c => hdrClass c.hdr).getD 0, false⟩

/-- A path's turn: it fetches its clause, or stops at a breakpoint, or its next word is to run on its port, or it is not
ready (R74, R75). Clocks pass until the wave's stall is over (R41); the wave becomes its block's running wave (R85). -/
def State.waveTurn (s0 : State) (wid pid : Nat) : Act := match aget s0.waves wid with
  | none => .done s0
  | some w => match w.path pid with
    | none => .done s0
    | some p =>
      if !s0.pathReady w p then .done s0 else
      match p.clause with
      | none => .done ((s0.nowRuns w).fetch w p)
      | some c =>
        let t := max s0.clock w.ready
        if s0.atBreak w p then .done ((((s0.pass (t - s0.clock)).nowRuns w).turns_ w p).breakAt w p) else
        let port := p.port.getD 2
        if !s0.portFree w port t then .done (s0.pass 1) else
        if !s0.portPicks w port t then .done s0 else
        let s := ((s0.pass (t - s0.clock)).nowRuns w).turns_ w p
        let faultAt (code idx : Nat) : Act :=
          .done (takeFault s wid pid ⟨code, p.lanes, 0, p.hdr + 4 * idx, idx, hdrClass c.hdr, false⟩)
        match c.next p.idx with
        | .bad code idx => faultAt code idx
        | .words x next =>
          match decode (.wave (hdrClass c.hdr) (c.restLit next)) x with
          | .error e => faultAt (DecodeErr_at e p.idx x).1 (DecodeErr_at e p.idx x).2
          | .ok i => .run i { s with cur := .wave wid pid p.hdr c.hdr p.idx next }

/-- A step of a channel's program fetch (R264, R49): a pad word is skipped; a breach raises AWL_ILLEGAL at the header;
an invalid entry parks the channel. (Log entry 10, DESIGN CHOICE.) -/
def State.chanFetch (s : State) (c : Nat) : State :=
  let ch := s.chan c
  match s.translate ch.part (BitVec.ofNat 64 ch.hdr) .fetch with
  | .error .pageFault => s.chanPark c 1 ch.hdr (BitVec.ofNat 64 ch.hdr)
  | .error .rights => s.chanFault c cAccessRights ch.hdr (BitVec.ofNat 64 ch.hdr)
  | .ok x =>
    let s1 := { s.touch ch.part x false with fresh := s.fresh + 1 }
    if ch.hdr % 4 ≠ 0 then s1.chanFault c cAwlIllegal ch.hdr 0
    else if s1.poisoned (.glob x.pa) 4 then s1.chanFault c cScratchEcc ch.hdr (BitVec.ofNat 64 ch.hdr) else
    let h := s1.codeWord ch.grid x.pa
    if h = 0 then s1.modChan c fun k => { k with hdr := k.hdr + 4, idx := 0 }
    else if !hdrFits ch.hdr h || !hdrOk h || hdrClass h ≠ 4 || decide (h.extractLsb 24 19 ≠ 0) then
      s1.chanFault c cAwlIllegal ch.hdr 0
    else if s1.poisoned (.glob x.pa) (4 * (hdrCount h + 1)) then s1.chanFault c cScratchEcc ch.hdr (BitVec.ofNat 64 ch.hdr)
    else s1.modChan c fun k => { k with clause := some (s1.clauseAt ch.grid x.pa h), idx := 1 }

/-- Does its engine choose the channel: has no other running channel of it gone longer without issuing, a tie going to the
lower number (R263)? -/
def State.enginePicks (s : State) (c : Nat) : Bool :=
  !s.chans.any fun e => e.1 ≠ c && e.1 / 4 = c / 4 && e.2.st = .running && e.2.ph = .run && e.2.halt = .none && e.2.clause.isSome &&
    (decide (e.2.issued < (s.chan c).issued) || e.2.issued = (s.chan c).issued && decide (e.1 < c))

/-- A channel's turn: only a running channel whose program runs takes one, and none that is to halt (R278); one that waits
tries its word again. -/
def State.chanTurn (s : State) (c : Nat) : Act :=
  let ch := s.chan c
  if (ch.st ≠ .running && ch.st ≠ .waiting) || ch.ph ≠ .run || ch.halt ≠ .none then .done s else
  match ch.clause with
  | none => .done (s.chanFetch c)
  | some cl => match cl.next ch.idx with
    | .bad _ idx => .done (s.chanFault c cAwlIllegal (ch.hdr + 4 * idx) 0)
    | .words x next =>
      if x.pfx.isSome then .done (s.chanFault c cAwlIllegal (ch.hdr + 4 * ch.idx) 0) else
      if s.chans.any fun e => e.1 / 4 = c / 4 && e.2.issued = s.clock + 1 then .done (s.pass 1) else
      if ch.st = .running && !s.enginePicks c then .done s else
      match decode (.engine (cl.restLit next)) x with
      | .error e => .done (s.chanFault c cAwlIllegal (ch.hdr + 4 * (DecodeErr_at e ch.idx x).2) 0)
      | .ok i => .run i { s.modChan c fun k => { k with issued := s.clock + 1 } with cur := .chan c ch.hdr cl.hdr ch.idx next }

end Sys2Proof.Machine
end

