-- ==== Sys2Proof/Machine/Locks.lean ====
section
/-!
DEFINITION. Entering range locks (R126, R270, R306): room in each core's table, and the wait for thread accesses that
were admitted before.
-/
namespace Sys2Proof.Machine

/-- The places a range covers; a page that does not translate has none. -/
def State.lockRuns (s : State) (p : Nat) (l : Lock) : List (Loc × Nat) :=
  if l.scr then [(.scr l.core l.base, l.len)] else (pageRuns l.base l.len).filterMap fun e =>
    match s.translate p (BitVec.ofNat 64 e.1) .load with
    | .ok t => some (.glob t.pa, e.2)
    | .error _ => none

/-- Has an access that the core's table admitted to a range not been performed yet? Global ranges concern the core's own
waves; a scratchpad range also those that land there. (Log entry 30, DEDUCED.) -/
def State.admitted (s : State) (p : Nat) (l : Lock) : Bool :=
  let runs := s.lockRuns p l
  s.waves.any fun e => (l.scr || e.2.core = l.core) && runs.any fun r =>
    e.2.touches r.1 r.2 || e.2.spills.any fun x => x.loc.hits x.bytes.length r.1 r.2

/-- Free entries of a core's table, of 64. -/
def State.lockRoom (s : State) (core : Nat) : Nat := 64 - (s.msys.locks.filter fun k => k.core = core).length

/-- Enter an owner's ranges when every table has room, once; and say whether its first access may be made: the ranges
stand and earlier admitted accesses have been performed. (Log entry 30, DEDUCED.) -/
def State.lockStep (s : State) (owner p : Nat) (ranges : List Lock) : State × Bool :=
  if ranges.isEmpty then (s, true)
  else if s.msys.locks.any fun k => k.owner = owner then (s, !ranges.any fun l => s.admitted p l)
  else if ranges.all fun l => decide ((ranges.filter fun k => k.core = l.core).length ≤ s.lockRoom l.core) then
    (s.setMsys { s.msys with locks := s.msys.locks ++ ranges }, !ranges.any fun l => s.admitted p l)
  else (s, false)

end Sys2Proof.Machine
end

