-- ==== Sys2Proof/Machine/Channel.lean ====
section
/-!
DEFINITION. The events of Awl channels: record start, lock entry, program fetch, record completion, halt, and the retry
of a multicast reservation (R264, R268 to R271, R273, R278).
-/
namespace Sys2Proof.Machine

/-! ### Records (R268, R269) -/

def recAction (d : List Word) : Nat := bitsOf (dw d 0) 62 60
def recRing (d : List Word) : Nat := bitsOf (dw d 0) 59 52
def recNext (d : List Word) : Nat := bitsOf (dw d 0) 51 6 * 64
def recEntry (d : List Word) : Nat := bitsOf (dw d 1) 51 0
def recObject (d : List Word) : Word := BitVec.ofNat 64 (bitsOf (dw d 7) 51 0)

/-- The declared ranges as lock entries of a channel. -/
def Chan.ranges (k : Chan) (c : Nat) (d : List Word) : List Lock :=
  (List.range (bitsOf (dw d 1) 63 62)).map fun i =>
    let x := dw d (5 + i)
    ⟨k.core, x.getLsbD 63, bitsOf x 51 5 * 32, (bitsOf x 62 52 + 1) * 32, c⟩

/-- A range that is malformed: a reserved bit, or scratchpad bytes outside the starting block's part. -/
def Chan.rangeBad (k : Chan) (x : Word) : Bool :=
  bitsOf x 4 0 ≠ 0 || (x.getLsbD 63 &&
    (decide (bitsOf x 51 5 * 32 < k.base) || decide (k.base + k.size < bitsOf x 51 5 * 32 + (bitsOf x 62 52 + 1) * 32)))

/-- The check of R269. -/
def Chan.recordBad (k : Chan) (d : List Word) : Bool :=
  bitsOf (dw d 0) 5 0 ≠ 0 || bitsOf (dw d 1) 61 52 ≠ 0 || bitsOf (dw d 7) 63 52 ≠ 0 || decide (4 ≤ recAction d) ||
  (recAction d = 0 && recObject d ≠ 0) || (recAction d ≠ 0 && recObject d = 0) ||
  (recAction d = 2 && bitsOf (dw d 7) 3 0 ≠ 0) || (recAction d = 3 && bitsOf (dw d 7) 2 0 ≠ 0) ||
  (recRing d ≠ 0 && recAction d ≠ 1) || bitsOf (dw d 1) 63 62 = 3 || bitsOf (dw d 1) 1 0 ≠ 0 ||
  (List.range (min 2 (bitsOf (dw d 1) 63 62))).any fun i => k.rangeBad (dw d (5 + i))

/-- A failure of a record-level access: the record's address is the fault PC (R275). -/
def State.recErr (s : State) (c recd : Nat) : AErr → State
  | .fault code a => s.chanFault c code recd a
  | .page access a => s.chanPark c access recd a

def ObjErr.asA : ObjErr → AErr
  | .page a => .page 6 a
  | .bad code a => .fault code a

/-- The record may run: its registers clear and its program starts. -/
def Chan.begin_ (k : Chan) : Chan :=
  { k with st := .running, ph := .run, x := [], td := [], bytes := 0, hdr := recEntry k.dwords, idx := 0, clause := none }

/-- Enter the record's ranges and start its program, or wait in state 2 (R126, R270). -/
def State.lockRecord (s : State) (c : Nat) : State :=
  let k := s.chan c
  let r := s.lockStep c k.part (k.ranges c k.dwords)
  if r.2 then r.1.modChan c Chan.begin_ else r.1.modChan c fun k => { k with st := .waiting }

/-- Does the channel take steps of its own now? -/
def Chan.active (k : Chan) : Bool := (k.st = .running || k.st = .waiting) && k.halt = .none

/-- RECORD_START (R269). After AWL.STOP no further record starts (R267). (Log entry 32, DEDUCED.) -/
def State.startRecord (s : State) (c : Nat) : State :=
  let k := s.chan c
  if !k.active || k.ph ≠ .start then s else
  if k.stop then s.endChain c .stopped else
  match s.engineX k [⟨.glob, k.nextRec, 64, .load, 1⟩] with
  | .error x => s.recErr c k.nextRec x
  | .ok (runs, s1) =>
    let d := dwordsOf (s1.readRuns (dieOfCore k.core) runs.flatten)
    if !(dw d 0).getLsbD 63 then s1.endChain c .idle else
    let s2 := s1.modChan c fun k => { k with dwords := d, recd := k.nextRec, ph := .lock }
    if k.recordBad d then s2.chanFault c cAwlRecord k.nextRec 0 else s2.lockRecord c

/-- LOCK_ENTRY (R270). (Log entry 30, DEDUCED.) -/
def State.lockEntry (s : State) (c : Nat) : State :=
  let k := s.chan c
  if k.active && k.ph = .lock then s.lockRecord c else s

/-- The completion action (R271). -/
def State.recordAction (s : State) (k : Chan) : Except ObjErr State :=
  let d := k.dwords
  if recAction d = 1 then
    match s.ring k.part (dieOfCore k.core) (BitVec.ofNat 64 k.table) (recRing d) false with
    | .error e => .error e
    | .ok (r, s1) => s1.ringPost k.part r (recObject d)
  else if recAction d = 2 then
    match s.barrier k.part false (recObject d) (.pend (-(k.bytes : Int))) with
    | .error e => .error e
    | .ok (_, s1) => .ok s1
  else if recAction d = 3 then
    match s.settle k.part (recObject d) 2 (sget k.x 31).toNat with
    | .error e => .error e
    | .ok s1 => .ok (s1.chanResolved k.block)
  else .ok s

/-- The record's own write, which clears its own bit, and its count. -/
def State.ownWrite (s : State) (c : Nat) (k : Chan) (l : List (Loc × Nat)) : State :=
  (s.writeRuns k.writer l (bytesOf 4 (bitsOf (dw k.dwords 0) 62 32))).modChan c fun k => { k with done := k.done + 1 }

/-- The channel clears the record's own bit with a plain 4-byte write, counts it, and goes on to the next (R269). -/
def State.clearOwn (s : State) (c : Nat) : State :=
  let k := s.chan c
  match s.engineX k [⟨.glob, (k.recd + 4 : Nat), 4, .store, 1⟩] with
  | .error x => s.recErr c k.recd x
  | .ok (runs, s1) =>
    let s3 := s1.ownWrite c k runs.flatten
    if k.stop then s3.endChain c .stopped
    else if recNext k.dwords = 0 then s3.endChain c .idle
    else s3.modChan c fun k => { k with nextRec := recNext k.dwords, ph := .start, st := .running }

/-- May the completion action be performed: does it not release at .dev what the die's ports still hold (R112, R271)?
(Log entry 32, DEDUCED.) -/
def State.actionMay (s : State) (k : Chan) : Bool :=
  s.portsClear (dieOfCore k.core) ||
  (if recAction k.dwords = 1 then (match s.ring k.part (dieOfCore k.core) (BitVec.ofNat 64 k.table) (recRing k.dwords) false with
    | .ok (r, _) => !r.dev
    | .error _ => true)
  else if recAction k.dwords = 2 then !s.barDev k.part (recObject k.dwords)
  else recAction k.dwords ≠ 3)

/-- RECORD_COMPLETE (R269). While the record's moves stand in its die's ports and its action is a release at .dev, the
channel waits in state 2 (R266). (Log entry 32, DEDUCED.) -/
def State.completeRecord (s : State) (c : Nat) : State :=
  let k := s.chan c
  if !k.active then s
  else if k.ph = .own then s.clearOwn c
  else if k.ph ≠ .finish then s
  else if !s.actionMay k then s.modChan c fun k => { k with st := .waiting }
  else
    let s1 := s.dropLocks c
    match s1.recordAction k with
    | .error e => s1.recErr c k.recd e.asA
    | .ok s2 => (s2.modChan c fun k => { k with ph := .own, st := .running }).clearOwn c

/-- A channel that its grid's fault halts once the record's completion action has been performed: it first makes the
record's own write, parked again while that meets an invalid entry (R276, R354). (Log entry 32, DEDUCED.) -/
def State.haltOwn (s : State) (c : Nat) (k : Chan) (fin : State → State) : State :=
  match s.engineX k [⟨.glob, (k.recd + 4 : Nat), 4, .store, 1⟩] with
  | .ok (runs, s1) => fin (s1.ownWrite c k runs.flatten)
  | .error (.page access a) =>
    if k.st = .parked && (s.part k.part).recs.any (fun r => r.seq = k.seq && r.who = .chan c) then s
    else s.chanPark c access k.recd a
  | .error (.fault _ _) => fin s

/-- CHANNEL_HALT (R278, R354). (Log entry 32, DEDUCED.) -/
def State.haltChan (s : State) (c : Nat) : State :=
  let k := s.chan c
  if !k.busy then s else
  match k.halt with
  | .none => s
  | .fault code =>
    let fin (s : State) : State := (s.endChain c .faulted).modChan c fun k => { k with code := code }
    if k.ph = .own then s.haltOwn c k fin else fin s
  | .reset => (s.endChain c .idle).setChan c Chan.reset
  | .freeze => s.modChan c fun k =>
      if k.st = .parked ∨ k.st = .frozen then { k with halt := .none } else { k with st := .frozen, stash := k.st, halt := .none }

/-! ### The events -/

/-- RECORD_START: the next record is read and checked (R269). -/
def execRecordStart (s : State) : Host.Outcome State Fault Refusal :=
  event (fun a s => match a with
    | .chan c => s.startRecord c
    | _ => s) s

/-- LOCK_ENTRY: a record that waits for lock entries (R270). -/
def execLockEntry (s : State) : Host.Outcome State Fault Refusal :=
  event (fun a s => match a with
    | .chan c => s.lockEntry c
    | _ => s) s

/-- RECORD_COMPLETE (R269, R271). -/
def execRecordComplete (s : State) : Host.Outcome State Fault Refusal :=
  event (fun a s => match a with
    | .chan c => s.completeRecord c
    | _ => s) s

/-- CHANNEL_HALT (R278). -/
def execChannelHalt (s : State) : Host.Outcome State Fault Refusal :=
  event (fun a s => match a with
    | .chan c => s.haltChan c
    | _ => s) s

/-- PROGRAM_FETCH: a step of a running channel's fetch (R264). -/
def execProgramFetch (s : State) : Host.Outcome State Fault Refusal :=
  event (fun a s => match a with
    | .chan c => if (s.chan c).active && (s.chan c).ph = .run && (s.chan c).clause.isNone then s.chanFetch c else s
    | _ => s) s

/-- MC_RESERVE: a channel that waits for credits tries its MV.MC again (R273). -/
def execMcReserve (s : State) : Host.Outcome State Fault Refusal :=
  event (fun a s => match a with
    | .chan c => if (s.chan c).st ≠ .waiting then s else match s.chanTurn c with
      | .run (.mvMc o) s1 => match s1.cur with
        | .chan c hdr hword idx next => engineWord (mcBody o) s1 c hdr hword idx next
        | _ => s
      | _ => s
    | _ => s) s

/-- CLAUSE_FETCH: a step of a path's fetch (R29, R30). -/
def execClauseFetch (s : State) : Host.Outcome State Fault Refusal :=
  event (fun a s => match a with
    | .path w p => match (aget s.waves w).bind fun x => x.path p with
      | some q => if q.clause.isSome then s else match s.waveTurn w p with
        | .done s1 => s1
        | .run _ _ => s
      | none => s
    | _ => s) s

end Sys2Proof.Machine
end

