-- ==== Sys2Proof/Machine/Stack.lean ====
section
/-!
DEFINITION. What words do with return stacks (R22, R172, R173, R194, R249): pushes, the spills that make room for them,
which are stores of the thread, refills and pops.
-/
namespace Sys2Proof.Machine

/-- Lanes whose cache is full: a push spills their oldest cached entry. -/
def WCtx.fullCaches (c : WCtx) : List Nat := c.lanes.filter fun l => decide (8 ≤ c.w.cached l)

/-- A push's spills: one store word of the thread, on c2, before the push itself (R22, R172). (Log entry 11, DESIGN CHOICE.) -/
def WCtx.pushSpills (c : WCtx) (s : State) (f : State → Res) : Res := match c.fullCaches with
  | [] => f s
  | ls =>
    if 63 ≤ c.w.ctr.getD 2 0 then .hold else
    match s.checkGlobal c 8 .store false (fun _ => false) (ls.map fun l => (l, c.w.spillAddr (s.spillBase c.w) l (c.w.spilledOf l))) with
    | .fault code lanes a => .fault code lanes a
    | .go ok parked a =>
      if parked ≠ 0 then c.parkAll s aWrite a else
      match c.storeLanes s ok (fun e => bytesOf 8 (c.w.entry e.lane (c.w.spilledOf e.lane)).toNat) 2 true with
      | .ok s1 => f (s1.modWave c.w.id fun w =>
          { w with spilled := ls.foldl (fun m l => aset m l (c.w.spilledOf l + 1)) w.spilled })
      | r => r

/-- Lanes of which some of the top `n` entries are not cached. -/
def WCtx.uncached (c : WCtx) (n : Nat) : List Nat := c.lanes.filter fun l => decide (c.w.cached l < min n (c.w.depth l))

/-- A word that needs the top `n` entries: what is not cached is read first, under the order of the thread's own loads, on
no counter, and the word issues again when the read is done (R173, R108). (Log entry 11, DESIGN CHOICE.) -/
def WCtx.refill (c : WCtx) (s : State) (n : Nat) (f : Res) : Res := match c.uncached n with
  | [] => f
  | ls =>
    match s.checkGlobal c 8 .load false (fun _ => false) (ls.map fun l => (l, c.w.spillAddr (s.spillBase c.w) l (c.w.spilledOf l - 1))) with
    | .fault code lanes a => .fault code lanes a
    | .go ok parked a =>
      if parked ≠ 0 then c.parkAll s aRead a else
      match s.trackLoad c ((ok.map fun e => piecesOf e 8).flatten) with
      | none => .hold
      | some s1 =>
        let todo := ok.map fun e => (e.lane, c.w.spilledOf e.lane - 1, (piecesOf e 8).map fun p => (p.loc, p.n))
        let s2 := (s1.touchAll c.w.part false ok).addOp c none (lanesOf ls) 0 false (.refill todo) []
        .ok (s2.modWave c.w.id fun w => w.setPath { c.p with st := .op (s2.nextId - 1) })

/-- Push the return point in every active lane (R172). (Log entry 11, DESIGN CHOICE.) -/
def Wave.push (w : Wave) (lanes : List Nat) (ret : Nat) : Wave :=
  let r := BitVec.ofNat 64 ret
  { w with
    stack := lanes.foldl (fun m l => aset m l (r :: (aget m l).getD [])) w.stack
    lk := lanes.foldl (fun m l => sset m l r) w.lk }

/-- Pop one entry in every active lane; lk becomes the new top, or 0 (R173). (Log entry 11, DESIGN CHOICE.) -/
def Wave.pop (w : Wave) (lanes : List Nat) : Wave :=
  let st := lanes.foldl (fun m l => aset m l ((aget m l).getD []).tail) w.stack
  { w with
    stack := st
    lk := lanes.foldl (fun m l => sset m l ((((aget st l).getD []).head?).getD 0)) w.lk }

/-- Lanes whose return stack is full: a push would raise FRAME_EXHAUST (R22, R172). -/
def WCtx.fullStacks (c : WCtx) : Lanes := lanesOf (c.lanes.filter fun l => c.w.rets ≤ c.w.depth l)

/-- A wave's cached entries go to spill memory, where only the thread sees them until its next release (R22, R249).
(Log entry 11, DESIGN CHOICE.) -/
def State.spillAll (s : State) (wid : Nat) : State := match aget s.waves wid with
  | none => s
  | some w => w.stack.foldl (fun s e =>
      s.spillLane wid w.records e.1 ((List.range (w.depth e.1)).drop (w.spilledOf e.1))) s

end Sys2Proof.Machine
end

