-- ==== Sys2Proof/Machine/Control.lean ====
section
/-!
DEFINITION. The meanings of the control transfers, of MEET, TRAP, BRK, RNG, NOP and the instruction-cache hints
(R169 to R181, R188, R189), and of the split-rein words (R203 to R207).
-/
namespace Sys2Proof.Machine

/-! ### Direct branches (R170) -/

/-- A branch target: H + 4 × offset (R33). -/
def WCtx.target (c : WCtx) (off : Int) : Nat := (addOff (BitVec.ofNat 64 c.hdr) (4 * off)).toNat

/-- The whole issuing path goes to an address. -/
def State.pathTo (s : State) (c : WCtx) (a : Nat) : State := s.modWave c.w.id fun w => w.setPath (c.p.goto a)

/-- A direct branch: to its target when taken, else past its clause. -/
def branch (i : Instr) (taken : WCtx → Bool) (off : Int) (s : State) : Host.Outcome State Fault Refusal :=
  guarded i (fun c s => .ok (if taken c then s.pathTo c (c.target off) else s)) s

/-- BRA (R170). -/
def execBra (o : OpsB) (s : State) : Host.Outcome State Fault Refusal := branch (.bra o) (fun _ => true) o.off.toInt s

/-- BRA.ANY: pN true in an active lane (R170). -/
def execBraAny (o : OpsBP) (s : State) : Host.Outcome State Fault Refusal :=
  branch (.braAny o) (fun c => c.lanes.any fun l => c.pred l o.p.toNat) o.off.toInt s

/-- BRA.ALL: pN true in every active lane (R170). -/
def execBraAll (o : OpsBP) (s : State) : Host.Outcome State Fault Refusal :=
  branch (.braAll o) (fun c => c.lanes.all fun l => c.pred l o.p.toNat) o.off.toInt s

/-- BRA.NZ (R170). -/
def execBraNz (o : OpsBS) (s : State) : Host.Outcome State Fault Refusal :=
  branch (.braNz o) (fun c => c.s o.n ≠ 0) o.off.toInt s

/-- BRA.Z (R170). -/
def execBraZ (o : OpsBS) (s : State) : Host.Outcome State Fault Refusal :=
  branch (.braZ o) (fun c => c.s o.n = 0) o.off.toInt s

/-! ### Register targets, calls and returns (R171 to R173) -/

/-- The register targets of the active lanes: v, s or lk (R171). -/
def WCtx.targets (c : WCtx) (o : OpsG) : List (Nat × Word) := c.lanes.map fun l =>
  (l, if o.b = 0 then c.v l o.a else if o.b = 1 then c.s o.a else sget c.w.lk l)

/-- Lanes whose target's low two bits are not 0, with the first such target (R171). -/
def misTargets (l : List (Nat × Word)) : Option (Lanes × Word) :=
  match l.filter fun e => e.2.toNat % 4 ≠ 0 with
  | [] => none
  | (k, a) :: rest => some (lanesOf (k :: rest.map Prod.fst), a)

def natTargets (l : List (Nat × Word)) : List (Nat × Nat) := l.map fun e => (e.1, e.2.toNat)

/-- The lanes of a path that leave handler mode at a BRX wait at their targets; the others go on, dividing by target
(R79, R239). -/
def Wave.leaveAt (w : Wave) (p : Path) (t : Trap) (tgt : List (Nat × Nat)) : Wave :=
  let inside := tgt.filter fun e => t.inWindow e.2
  let out := tgt.filter fun e => !t.inWindow e.2
  let w1 := if inside.isEmpty then w.dropPath p.id else w.divide p inside
  let w2 := (targetsOf out).foldl (fun (w : Wave) a =>
    let lanes := lanesOf ((out.filter fun e => e.2 = a).map Prod.fst)
    let at_ := t.resumeAt a
    let id := if (w.path p.id).isNone then p.id else w.newPath
    let q : Path := ⟨id, lanes, at_.1, at_.2, none, .left, false, decide (a = t.pc.toNat) && t.head, p.turn⟩
    { w with paths := w.paths ++ [q] }) w1
  w2.leaveHandler

/-- BRX: each lane goes to its target; from handler mode, a target outside the window leaves it (R171, R239). -/
def execBrx (o : OpsG) (s : State) : Host.Outcome State Fault Refusal :=
  guarded (.brx o) (fun c s =>
    let tgt := c.targets o
    match misTargets tgt with
    | some (m, a) => .fault cFetchAlign m a
    | none => .ok (s.modWave c.w.id fun w => match w.trap with
      | some t => if c.p.handler then w.leaveAt c.p t (natTargets tgt) else w.divide c.p (natTargets tgt)
      | none => w.divide c.p (natTargets tgt))) s

/-- CALL (R172). -/
def execCall (o : OpsB) (s : State) : Host.Outcome State Fault Refusal :=
  guarded (.call o) (fun c s =>
    if c.fullStacks ≠ 0 then .fault cFrameExhaust c.fullStacks 0 else
    c.pushSpills s fun s => .ok ((s.pathTo c (c.target o.off.toInt)).modWave c.w.id fun w => w.push c.lanes c.after)) s

/-- CALLX: the target's alignment is checked before any push (R171, R172). (Log entry 16, DEDUCED.) -/
def execCallx (o : OpsG) (s : State) : Host.Outcome State Fault Refusal :=
  guarded (.callx o) (fun c s =>
    let tgt := c.targets o
    match misTargets tgt with
    | some (m, a) => .fault cFetchAlign m a
    | none =>
      if c.fullStacks ≠ 0 then .fault cFrameExhaust c.fullStacks 0 else
      c.pushSpills s fun s => .ok (s.modWave c.w.id fun w => (w.push c.lanes c.after).divide c.p (natTargets tgt))) s

/-- The record whose call a lane's return ends: the youngest at whose depth the pop leaves it (R197). -/
def Wave.endsRecord (w : Wave) (l : Nat) : Option Nat :=
  ((w.records.zipIdx).reverse.find? fun e =>
    inLanes e.1.lanes l && !inLanes e.1.back l && aget e.1.depths l = some (w.depth l - 1)).map Prod.snd

/-- Lanes that return into record `k` wait at its return point (R197). -/
def Wave.waitAt (w : Wave) (p : Path) (k : Nat) (lanes : Lanes) (a : Nat) : Wave :=
  let q : Path := { p.goto a with id := w.newPath, lanes := lanes, st := .ret }
  { w.setRecords (w.records.mapIdx fun i f => if i = k then { f with back := f.back ||| lanes } else f) with
    paths := w.paths ++ [q] }

/-- RET: the lanes that end a fork record's call wait there, and the others go to what they popped, dividing by
target (R173, R197, R204). -/
def execRet (o : OpsN) (s : State) : Host.Outcome State Fault Refusal :=
  guarded (.ret o) (fun c s =>
    let empty := lanesOf (c.lanes.filter fun l => c.w.depth l = 0)
    if empty ≠ 0 then .fault cRetEmpty empty 0 else
    c.refill s 2 <|
    let tgt := c.lanes.map fun l => (l, c.w.topOf l)
    match misTargets tgt with
    | some (m, a) => .fault cFetchAlign m a
    | none =>
      let ends := (natTargets tgt).map fun e => (e.1, e.2, c.w.endsRecord e.1)
      let go := (ends.filter fun e => e.2.2.isNone).map fun e => (e.1, e.2.1)
      .ok (s.modWave c.w.id fun w =>
        let w1 := w.pop c.lanes
        let w2 := if go.isEmpty then w1.dropPath c.p.id else w1.divide c.p go
        (List.range w.records.length).foldl (fun w k =>
          let here := ends.filter fun e => e.2.2 = some k
          match here with
          | [] => w
          | (_, a, _) :: _ => w.waitAt c.p k (lanesOf (here.map fun e => e.1)) a) w2)) s

/-! ### Divergence and meeting (R174 to R177) -/

/-- SPLIT: the deferred path's mask goes to jN and the first path's to its partner mask (R77, R174). -/
def Wave.split (w : Wave) (p : Path) (taken : Lanes) (j target next : Nat) (takenFirst : Bool) : Wave :=
  let rest := p.lanes &&& ~~~taken
  if taken = 0 then w.setPath (p.goto next) else if rest = 0 then w.setPath (p.goto target) else
  let first := if takenFirst then { p.goto target with lanes := taken } else { p.goto next with lanes := rest }
  let other := if takenFirst then { p.goto next with lanes := rest } else { p.goto target with lanes := taken }
  let w1 := w.setPath first
  { w1 with
    paths := w1.paths ++ [{ other with id := w.newPath }]
    runPath := some p.id, pinned := true
    j := sset w.j j other.lanes, jp := sset w.jp j first.lanes }

/-- SPLIT: in strict mode the path with the lowest lane runs first, in normal mode either may (R81).
(Log entry 2, DESIGN CHOICE.) -/
def execSplit (o : OpsBJ) (s : State) : Host.Outcome State Fault Refusal :=
  guarded (.split o) (fun c s =>
    let taken := lanesOf (c.lanes.filter fun l => c.pred l o.p.toNat)
    let first := if c.w.strict then decide (lowestLane taken ≤ lowestLane (c.p.lanes &&& ~~~taken))
      else Config.freeBit c.fresh 65536
    .ok (s.modWave c.w.id fun w => w.split c.p taken o.j.toNat (c.target o.off.toInt) c.after first)) s

/-- Passes that complete all joins and meeting points of a wave. -/
def Wave.settled (w : Wave) : Wave := w.recheck (2 * w.paths.length + 2)

/-- JOIN: the path waits for the lanes that jN and its partner mask name, and the join completes when all have exited
or stand here (R78, R175). -/
def execJoin (o : OpsG) (s : State) : Host.Outcome State Fault Refusal :=
  guarded (.join o) (fun c s =>
    let j := o.d.toNat
    .ok (s.modWave c.w.id fun w =>
      let m := sget w.j j ||| sget w.jp j
      (w.setPath { c.p.goto c.after with st := .join j m }).settled)) s

/-- Write mtg in every active lane; a meeting point may then be complete (R177, R80). -/
def Wave.setMeet (w : Wave) (lanes : List Nat) (f : Nat → Word) : Wave :=
  ({ w with mtg := lanes.foldl (fun m l => sset m l (f l)) w.mtg }).settled

/-- MEET with a literal: H + 4 × literal (R177). -/
def execMeet (o : OpsG) (s : State) : Host.Outcome State Fault Refusal :=
  guarded (.meet o) (fun c s =>
    let a := BitVec.ofNat 64 (c.target ((o.lit.getD 0).toInt))
    .ok (s.modWave c.w.id fun w => w.setMeet c.lanes fun _ => a)) s

/-- MEET with a register (R177). -/
def execMeetV (o : OpsG) (s : State) : Host.Outcome State Fault Refusal :=
  guarded (.meetV o) (fun c s => .ok (s.modWave c.w.id fun w => w.setMeet c.lanes fun l => c.v l o.a)) s

/-! ### Barriers, yielding, ending, trapping (R178 to R181) -/

/-- Does an atomic of the wave still owe its old value? (Log entry 43, DEDUCED.) -/
def Wave.owesOld (w : Wave) : Bool := w.ops.any fun o => match o.kind with
  | .atomic .. => true
  | _ => false

/-- BAR.SYNC: a release, the wave's arrival, and the path's wait (R82, R83, R181). It waits until the wave's atomics have
returned their old values, as R253's promise of its result needs. (Log entry 43, DEDUCED.) -/
def execBarSync (o : OpsN) (s : State) : Host.Outcome State Fault Refusal :=
  guarded (.barSync o) (fun c s =>
    if c.p.handler then .ok (doubleFault s c.w)
    else if !c.w.drained || c.w.owesOld then .hold else
    let s1 := (s.publish c.w.id c.act).arrive c.w c.p.id o.imm.toNat
    let waits := (aget s1.waves c.w.id).any fun w => (w.path c.p.id).any fun p => p.st ≠ .run
    .ok (if waits then s1.switch c.w else s1)) s

/-- YIELD: only a switch point (R179, R85). -/
def execYield (o : OpsN) (s : State) : Host.Outcome State Fault Refusal :=
  guarded (.yield o) (fun c s => .ok (if c.p.handler then doubleFault s c.w else s.switchAbove c.w)) s

/-- EXIT: the lanes exit for good; what then completes does, and the wave may end (R178). -/
def execExit (o : OpsN) (s : State) : Host.Outcome State Fault Refusal :=
  guarded (.exit o) (fun c s =>
    let s1 := s.modWave c.w.id fun w =>
      (({ w.dropPath c.p.id with exited := w.exited ||| c.act, pinned := false }).leaveHandler).settled
    let s2 := (s1.exitForks c.w.id c.act).checkBars c.w.block
    let last := (aget s2.waves c.w.id).all fun w => w.live = 0
    .ok ((if last then s2.switch c.w else s2).tryFree c.w.id)) s

/-- TRAP: TRAP_SW for the active lanes (R180). -/
def execTrap (o : OpsN) (s : State) : Host.Outcome State Fault Refusal :=
  guarded (.trap o) (fun c _ => .fault cTrapSw c.act (o.imm.zeroExtend 64)) s

/-- BRK: BREAKPOINT for the active lanes (R180). -/
def execBrk (o : OpsN) (s : State) : Host.Outcome State Fault Refusal :=
  guarded (.brk o) (fun c _ => .fault cBreakpoint c.act (o.imm.zeroExtend 64)) s

/-- NOP (R179). -/
def execNop (o : OpsN) (s : State) : Host.Outcome State Fault Refusal := guarded (.nop o) (fun _ s => .ok s) s

/-- RNG: a fixed function of the seed, the thread and a counter (R188). -/
def execRng (o : OpsG) (s : State) : Host.Outcome State Fault Refusal :=
  guarded (.rng o) (fun c s => .ok (vecWrite c o.d.toNat (fun l =>
    let t := c.w.lreg 138 * c.w.lreg 139 + BitVec.ofNat 64 l
    let id := (c.w.lreg 128 <<< 14) ||| t
    rngMix (rngMix (c.w.lreg 150 ^^^ rngMix (id ^^^ c.w.lreg 151)) + c.v l o.a * 0xD1F05A37C2E98B63#64)) s)) s

/-! ### Instruction-cache hints (R46, R189) -/

/-- The blocks of a hint that translate for fetching: their translations, in address order. -/
def State.hintBlocks (s : State) (c : WCtx) (o : OpsG) : List Xlat :=
  (List.range o.b.toNat).filterMap fun (k : Nat) =>
    match s.translate c.w.part (addOff (c.s o.a &&& ~~~(127#64)) ((128 * k : Nat) : Int)) .fetch with
    | .ok x => some x
    | .error _ => none

def State.touchHints (s : State) (c : WCtx) (l : List Xlat) : State := l.foldl (fun s x => s.touch c.w.part x false) s

/-- IC.PF: fetches the blocks that translate (R189). (Log entry 10, DESIGN CHOICE.) -/
def execIcPf (o : OpsG) (s : State) : Host.Outcome State Fault Refusal :=
  guarded (.icPf o) (fun c s => .ok (s.touchHints c (s.hintBlocks c o))) s

/-- Pin a block, unless it is pinned or the core holds 128 (R46). (Log entry 10, DESIGN CHOICE.) -/
def State.pin (s : State) (core blk grid : Nat) : State :=
  let mine := s.msys.pins.filter fun p => p.core = core
  if decide (128 ≤ mine.length) || mine.any fun p => p.blk = blk then s
  else s.setMsys { s.msys with pins := ⟨core, blk, grid⟩ :: s.msys.pins }

/-- IC.PIN: fetches and pins (R189); a block beyond the 128th pin is fetched and not pinned. (Log entry 10, DESIGN CHOICE.) -/
def execIcPin (o : OpsG) (s : State) : Host.Outcome State Fault Refusal :=
  guarded (.icPin o) (fun c s =>
    let l := s.hintBlocks c o
    .ok (l.foldl (fun s x => s.pin c.w.core (x.pa / 128) c.w.grid) (s.touchHints c l))) s

/-- IC.UNPIN (R189). (Log entry 10, DESIGN CHOICE.) -/
def execIcUnpin (o : OpsG) (s : State) : Host.Outcome State Fault Refusal :=
  guarded (.icUnpin o) (fun c s =>
    let l := (s.hintBlocks c o).map fun x => x.pa / 128
    .ok (s.setMsys { s.msys with pins := s.msys.pins.filter (fun p => !(p.core = c.w.core && l.contains p.blk)) })) s

/-! ### Split-rein words (R203 to R207) -/

/-- The call that FCALL and FCALL.P make, with the fork beside it: the twin copies the wave as it stood, its lk the top
entry, which is read first if it is not cached (R192). -/
def forkCall (i : Instr) (off : Int) (vals : State → WCtx → Option (Nat → Nat → Word)) (trains : Bool) (s : State) :
    Host.Outcome State Fault Refusal :=
  guarded i (fun c s =>
    if c.fullStacks ≠ 0 then .fault cFrameExhaust c.fullStacks 0 else
    let call : Res := c.pushSpills s fun s =>
      .ok (((s.openFork c (vals s c) trains).pathTo c (c.target off)).modWave c.w.id fun w => w.push c.lanes c.after)
    if (vals s c).isSome && (s.mayFork c).isSome then c.refill s 1 call else call) s

/-- The predictor's values for a site, when its entry is valid, confident, and predicts every register (R191, R193). -/
def State.predicted (s : State) (c : WCtx) : Option (Nat → Nat → Word) :=
  match aget (s.core c.w.core).pred (predIdx c.addr) with
  | none => none
  | some e =>
    if e.site = c.addr && decide (1 ≤ e.conf) && (List.range 4).all fun k => e.modes.getD k 0 ≠ 0 then
      some fun k l => (e.value k l (c.w.reg (.v k) l)).getD 0
    else none

/-- FCALL (R203). -/
def execFcall (o : OpsB) (s : State) : Host.Outcome State Fault Refusal :=
  forkCall (.fcall o) o.off.toInt (fun s c => s.predicted c) true s

/-- FCALL.P: v0 of the twin is s[N] in every lane; nothing is predicted or trained (R203). -/
def execFcallP (o : OpsBS) (s : State) : Host.Outcome State Fault Refusal :=
  forkCall (.fcallP o) o.off.toInt
    (fun _ c => some fun k l => if k = 0 then c.s o.n else c.w.reg (.v k) l) false s

/-- A wave's fork state word (R205). -/
def Wave.forkWord (w : Wave) : Word :=
  BitVec.ofNat 64 (w.cause * 256 + (if w.twin.isSome then 16 else 0) + w.forks.length * 4 +
    (w.forks.filter fun f => f.twin.isSome).length)

/-- FORK.STAT (R205). -/
def execForkStat (o : OpsG) (s : State) : Host.Outcome State Fault Refusal :=
  guarded (.forkStat o) (fun c s =>
    let k := s.core c.w.core
    .ok (uniWrite c o.d.toNat (if o.b = 0 then c.w.forkWord else if o.b = 1 then k.committed
      else if o.b = 2 then k.squashed else k.plain) s)) s

/-- FORK.KILL: the youngest fork, or every fork (R206). -/
def execForkKill (o : OpsG) (s : State) : Host.Outcome State Fault Refusal :=
  guarded (.forkKill o) (fun c s => .ok (if o.b = 0 then s.squashYoungest c.w.id 8 else s.squashForks c.w.id 8)) s

/-- FORK.CLR: every predictor entry, or the one whose site is all 64 bits of the register (R207). (Log entry 19, DEDUCED.) -/
def execForkClr (o : OpsG) (s : State) : Host.Outcome State Fault Refusal :=
  guarded (.forkClr o) (fun c s => .ok (s.modCore c.w.core fun k =>
    { k with pred := if o.b = 0 then [] else k.pred.filter fun e => decide (e.2.site ≠ (c.s o.a).toNat) })) s

end Sys2Proof.Machine
end

