-- ==== Sys2Proof/Machine/Atom.lean ====
section
/-!
DEFINITION. What an atomic step or a reduction writes: the new value of a location of `n` bytes (R69, R218 to R220, R342).
-/
namespace Sys2Proof.Machine

/-- Floating controls of an atomic: nearest even, no daz, no ftz, no saturation (R219). -/
def atomCtl : FpCtl := ⟨0, false, false, false⟩

/-- The new value of a location that holds `old`, with operand `x`, and `y` the new value of a CAS. -/
def atomApply (f : AtomFn) (n : Nat) (old x y : Word) : Word :=
  let m : Word := BitVec.ofNat 64 (x.toNat % 2 ^ (8 * n))
  match f with
  | .add => BitVec.ofNat 64 ((old + m).toNat % 2 ^ (8 * n))
  | .addF32 => BitVec.ofNat 64 (fpSumWrite fmtF32 atomCtl [fpDecode fmtF32 (bitsOf old 31 0), fpDecode fmtF32 (bitsOf m 31 0)])
  | .minI => if m.slt old then m else old
  | .minN => if m < old then m else old
  | .maxI => if old.slt m then m else old
  | .maxN => if old < m then m else old
  | .and => old &&& m
  | .or => old ||| m
  | .xor => old ^^^ m
  | .xchg => m
  | .cas => if old = m then BitVec.ofNat 64 (y.toNat % 2 ^ (8 * n)) else old
  | .addHalves => BitVec.ofNat 64 ((bitsOf old 63 32 + bitsOf x 63 32) % 2 ^ 32 * 2 ^ 32 + (bitsOf old 31 0 + bitsOf x 31 0) % 2 ^ 32)

end Sys2Proof.Machine
end

