-- ==== Sys2Proof/Machine/Launch.lean ====
section
/-!
DEFINITION. What top-level and nested launches share: kernel descriptors (R18, R368), whether a block fits (R8, R71),
frames, displays and grid rings (R225, R321 to R326), and which block of a share comes next (R381, R382).
-/
namespace Sys2Proof.Machine

/-! ### Kernel descriptors (R368) -/

def Kernel.threads (k : Kernel) : Nat := k.bx * k.by_ * k.bz
/-- Waves of a block (R70). -/
def Kernel.waves (k : Kernel) : Nat := (k.threads + k.width - 1) / k.width

/-- The kernel that the eight dwords and the declarations give. -/
def kernelOf (d : List Word) (decls : List (Word × Word)) : Kernel where
  entry := bitsOf (dw d 0) 51 0
  bx := bitsOf (dw d 1) 63 48
  by_ := bitsOf (dw d 1) 47 32
  bz := bitsOf (dw d 1) 31 16
  width := 8 * 2 ^ bitsOf (dw d 1) 1 0
  vregs := bitsOf (dw d 2) 63 56
  sregs := bitsOf (dw d 2) 55 48
  level := bitsOf (dw d 2) 47 44
  idem := (dw d 2).getLsbD 34
  scheck := (dw d 2).getLsbD 33
  strict := (dw d 2).getLsbD 32
  scratch := bitsOf (dw d 2) 31 0
  copy := bitsOf (dw d 3) 63 48
  matrix := bitsOf (dw d 3) 47 32
  vector := bitsOf (dw d 3) 31 16
  general := bitsOf (dw d 3) 15 0
  frame := bitsOf (dw d 4) 63 32
  rets := bitsOf (dw d 4) 31 16
  decls := decls

/-- Register counts that R18 allows. -/
def regCountOk (n : Nat) : Bool := n % 8 = 0 && decide (8 ≤ n) && decide (n ≤ 128)

/-- A descriptor malformed by its own eight dwords: a reserved bit, or a field beyond R18. -/
def kernelBad (d : List Word) : Bool :=
  let k := kernelOf d []
  bitsOf (dw d 0) 63 52 ≠ 0 || bitsOf (dw d 0) 1 0 ≠ 0 || bitsOf (dw d 1) 15 2 ≠ 0 || bitsOf (dw d 2) 43 35 ≠ 0 ||
  bitsOf (dw d 4) 15 0 ≠ 0 || bitsOf (dw d 5) 54 52 ≠ 0 || bitsOf (dw d 5) 3 0 ≠ 0 || dw d 6 ≠ 0 || dw d 7 ≠ 0 ||
  k.threads = 0 || decide (12288 < k.threads) || k.copy + k.matrix + k.vector + k.general ≠ k.waves ||
  !regCountOk k.vregs || !regCountOk k.sregs || k.scratch % 256 ≠ 0 || decide (0x200000 < k.scratch) ||
  k.frame % 64 ≠ 0 || decide (k.rets < 8) || decide (1024 < k.rets) || decide (256 < bitsOf (dw d 5) 63 55)

/-- Fields of a declaration. -/
def declChan (e : Word × Word) : Bool := e.1.getLsbD 25
def declDev (e : Word × Word) : Bool := e.1.getLsbD 24
def declPipe (e : Word × Word) : Nat := bitsOf e.2 7 0
def declFlow (e : Word × Word) : Nat := bitsOf e.2 15 8
def declLsize (e : Word × Word) : Nat := bitsOf e.1 20 16
def declLast (e : Word × Word) : Nat := bitsOf e.1 7 0
/-- Bytes of ring memory it needs (R225). -/
def declBytes (e : Word × Word) : Nat := 512 + (declLast e + 1) * 2 ^ declLsize e

/-- A malformed declaration. -/
def declBad (e : Word × Word) : Bool :=
  bitsOf e.1 63 26 ≠ 0 || bitsOf e.1 23 21 ≠ 0 || bitsOf e.1 15 8 ≠ 0 || bitsOf e.2 63 16 ≠ 0 ||
  decide (declLsize e < 4) || decide (16 < declLsize e) || (declChan e && (declFlow e ≠ 0 || !declDev e)) ||
  (!declChan e && declPipe e ≠ 0) || (declFlow e ≠ 0 && !declDev e)

/-- Why a structure the Harness or the Tree unit reads gives no kernel. -/
inductive KErr where
  | page (a : Word) | rights (a : Word) | poison (a : Word) | malformed
deriving DecidableEq, Repr

def KErr.of (e : XErr) (a : Word) : KErr := match e with
  | .pageFault => .page a
  | .rights => .rights a

/-- Read dwords through a partition's translation. -/
def State.readDwords (s : State) (p die : Nat) (a : Word) (n : Nat) (acc : Acc) : Except KErr (List Word × State) :=
  match s.readVia p a (8 * n) acc die with
  | .error e => .error (.of e (s.firstBad p a (8 * n) acc))
  | .ok (b, s1) => if s.poisonedVia p a (8 * n) then .error (.poison a) else .ok (dwordsOf b, s1)

def pairsOf : List Word → List (Word × Word)
  | a :: b :: l => (a, b) :: pairsOf l
  | _ => []

/-- An entry of the flow table (R410). -/
def State.flowDw (s : State) (n k : Nat) : Word := sget s.hw.flows (8 * n + k)

/-- A declaration bound to a flow: enabled, the partition's, of the same slot size and count (R409). -/
def State.flowOk (s : State) (p : Nat) (e : Word × Word) : Bool :=
  let n := declFlow e
  n = 0 || ((s.flowDw n 0).getLsbD 63 && bitsOf (s.flowDw n 0) 62 58 = p && bitsOf (s.flowDw n 1) 55 51 = declLsize e &&
    bitsOf (s.flowDw n 1) 63 56 = declLast e)

/-- Read a kernel descriptor and its declarations, and check them (R368, R409). -/
def State.readKernel (s : State) (p die a : Nat) (acc : Acc) : Except KErr (Kernel × State) :=
  match s.readDwords p die (BitVec.ofNat 64 a) 8 acc with
  | .error e => .error e
  | .ok (d, s1) =>
    if kernelBad d then .error .malformed else
    let n := bitsOf (dw d 5) 63 55
    if n = 0 then .ok (kernelOf d [], s1) else
    match s1.readDwords p die (BitVec.ofNat 64 (bitsOf (dw d 5) 51 4 * 16)) (2 * n) acc with
    | .error e => .error e
    | .ok (l, s2) =>
      let decls := pairsOf l
      if decls.any (fun e => declBad e || !s2.flowOk p e) then .error .malformed else .ok (kernelOf d decls, s2)

/-! ### Does a block fit? (R8, R71) -/

/-- Waves of this kernel that one sub-core holds. -/
def Kernel.perSub (k : Kernel) : Nat := min 12 (131072 / (8 * k.vregs * k.width))

/-- The core of a block spread over `c` cores that wave `w` stands on, and its sub-core. -/
def Kernel.coreOf (k : Kernel) (c w : Nat) : Nat := w / ((k.waves + c - 1) / c)
def subOf (w : Nat) : Nat := w % 8

/-- Waves that stand on sub-core `b` of the `j`-th core. -/
def Kernel.onSub (k : Kernel) (c j b : Nat) : Nat :=
  ((List.range k.waves).filter fun w => k.coreOf c w = j && subOf w = b).length

/-- Waves fit `c` empty cores, and the window does. -/
def Kernel.fits (k : Kernel) (c : Nat) : Bool :=
  decide (k.scratch ≤ c * 0x80000) &&
    (List.range c).all fun j => (List.range 8).all fun b => decide (k.onSub c j b ≤ k.perSub)

/-- The cores a block of the kernel spans. -/
def Kernel.cores (k : Kernel) : Option Nat := [1, 2, 3, 4].find? k.fits

/-- Bytes of each part of its window (R100). -/
def Kernel.partBytes (k : Kernel) (c : Nat) : Nat := 256 * ((k.scratch + 256 * c - 1) / (256 * c))

/-- The clusters of a partition, in ascending number (R400). -/
def Part.clusters (p : Part) : List Nat := (List.range 144).filter fun c => (sget p.entry (6 + c / 64)).getLsbD (c % 64)

/-- Can a block of the kernel ever be placed? -/
def State.blockFits (s : State) (p : Nat) (k : Kernel) : Bool := k.cores.isSome && !(s.part p).clusters.isEmpty

/-! ### Frames and grid rings (R225, R321, R322) -/

/-- A ring that has one instance for the grid: of scope .dev and no flow, or a channel without a pipe's memory. -/
def gridRing (pipes : List (Nat × Nat)) (e : Word × Word) : Bool :=
  if declChan e then !(pipes.any fun x => x.1 = declPipe e) else declDev e && declFlow e = 0

/-- The memory of a declaration that is not a block's: a pipe's, a flow's, or allocated; 0 for a block's own ring. -/
def State.ringBases (s : State) (p die gid : Nat) (pipes : List (Nat × Nat)) : List (Word × Word) → Got × List Nat × State
  | [] => (.at 0, [], s)
  | e :: rest =>
    let here : Got × Nat × State :=
      if gridRing pipes e then match s.alloc p die (declBytes e) 512 (.gridRing gid) with
        | (.at b, s1) => (.at b, b, s1.zeroVia p die b 512)
        | (g, s1) => (g, 0, s1)
      else if declChan e then (.at 0, ((pipes.find? fun x => x.1 = declPipe e).map Prod.snd).getD 0, s)
      else if declFlow e ≠ 0 then (.at 0, bitsOf (s.flowDw (declFlow e) 0) 51 9 * 512, s)
      else (.at 0, 0, s)
    match here with
    | (.at _, b, s1) => match State.ringBases s1 p die gid pipes rest with
      | (g, l, s2) => (g, b :: l, s2)
    | (g, _, s1) => (g, [], s1)

/-- Allocate a grid's frame and rings, zero the frame's data and put the grid, with its frame header, into the state
(R321, R322); none when the region cannot hold them. (Log entry 10, DESIGN CHOICE.) -/
def State.putGrid (s : State) (g : Grid) (pipes : List (Nat × Nat)) : Option State :=
  match s.alloc g.part g.die (256 * g.kern.units) 256 (.frame g.id) with
  | (.at f, s1) => match s1.ringBases g.part g.die g.id pipes g.kern.decls with
    | (.at _, bases, s2) =>
      let dsp := sset (g.dsp.filter fun e => decide (e.1 ≠ g.kern.level)) g.kern.level (BitVec.ofNat 64 f)
      let g' := { g with frame := f, rings := bases, dsp := dsp }
      let s3 : State := { s2.zeroVia g.part g.die f (256 * g.kern.units) with grids := aset s2.grids g.id g' }
      some ((s3.syncFrame g.id).putVia g.part g.die (f + 128) (bytesOfDwords ((List.range 16).map fun i => sget dsp i)))
    | _ => none
  | _ => none

/-- The display of a nested grid below its own level (R323). -/
def childDisplay (dsp : Sparse 64) (p l : Nat) : Sparse 64 := dsp.filter fun e => decide (e.1 < l) && decide (e.1 ≤ p)

/-! ### Shares (R381, R382) -/

def Grid.total (g : Grid) : Nat := g.gx * g.gy * g.gz

/-- The share a block belongs to: its die's, or in strict mode that of a cluster, by its rank in the partition. -/
def Grid.shareOf (g : Grid) (clusters b : Nat) : Nat :=
  if !g.strict then b % 4
  else if g.place.isEmpty then b % clusters else g.place.getD (b % g.place.length) 0

/-- Blocks before any that a share has still to dispatch. -/
def Grid.from_ (g : Grid) (share : Nat) : Nat := (aget g.next share).getD 0

/-- The lowest undispatched block of a share. -/
def Grid.nextOf (g : Grid) (clusters share : Nat) : Option Nat :=
  let span := if !g.strict then 4 else if g.place.isEmpty then clusters else g.place.length
  ((List.range span).map fun i => g.from_ share + i).find? fun b => decide (b < g.total) && g.shareOf clusters b = share

/-- The lowest undispatched block of a grid: its launch record's `next` (R371). -/
def Grid.lowest (g : Grid) (clusters : Nat) : Nat :=
  let shares := List.range (if g.strict then clusters else 4)
  (shares.filterMap fun k => g.nextOf clusters k).foldl min g.total

end Sys2Proof.Machine
end

