-- ==== Sys2Proof/Machine/Harness.lean ====
section
/-!
DEFINITION. A firmware core's own work for a queue: its reads and writes through the partition's translation (R373), the
states of a queue (R364), launch records (R371) and the choice of the next queue (R375).
-/
namespace Sys2Proof.Machine

/-! ### Codes of R372 -/

def qerrCap : Nat := 0x80
def qerrPacket : Nat := 0x81
def qerrFit : Nat := 0x82
def qerrGang : Nat := 0x83
def qerrSeed : Nat := 0x84
def qerrAbort : Nat := 0x85
def qerrPage : Nat := 0x86
def qerrRing : Nat := 0x87

/-! ### Partitions and their queues (R357, R363, R400) -/

/-- State 0 off, 1 running, 2 resetting. -/
def Part.state (p : Part) : Nat := bitsOf (sget p.entry 0) 9 8

/-- The partition's fault ring: its physical base and slots, and whether the context holds a valid one (R361). -/
def Part.fring (p : Part) : Nat := bitsOf (sget p.ctx 3) 51 6 * 64
def Part.fslots (p : Part) : Nat := 2 ^ bitsOf (sget p.ctx 4) 4 0
def Part.fringOk (p : Part) : Bool :=
  let l := bitsOf (sget p.ctx 4) 4 0
  p.fring ≠ 0 && decide (4 ≤ l) && decide (l ≤ 16) && p.carve p.fring (32 * p.fslots)

/-! ### Accesses for a queue (R373) -/

/-- How an access fails: on an invalid entry, or refused. -/
inductive HErr where
  | page (a : Word) | refused
deriving DecidableEq, Repr

/-- Does any page of an access lie in a register page, which takes none of these (R360)? -/
def onPage (l : List (Xlat × Nat)) : Bool := l.any fun e => match region e.1.pa with
  | .page _ _ => true
  | _ => false

/-- Read dwords for the firmware core of a die; a poisoned sector refuses as R418 gives, and another module's refusal gives
zeros (R406). -/
def State.hRead (s : State) (p die a n : Nat) : Except HErr (List Word × State) :=
  let va := BitVec.ofNat 64 a
  match s.translateAll p va (8 * n) .load with
  | .error .pageFault => .error (.page (s.firstBad p va (8 * n) .load))
  | .error .rights => .error .refused
  | .ok l =>
    if onPage l || l.any (fun e => s.poisoned (.glob e.1.pa) e.2) then .error .refused else
    .ok (dwordsOf (s.readRuns die (placesOf l)),
      (l.foldl (fun (s : State) e => s.touch p e.1 false) s).noteRefused p die (placesOf l))

/-- Write the bytes of a record: one that lies behind a die's port follows what the port took in before it (R9, R120, R121).
(Log entry 27, DEDUCED.) -/
def State.hWrite (s : State) (p die a : Nat) (bs : List Byte) : Except HErr State :=
  let va := BitVec.ofNat 64 a
  match s.translateAll p va bs.length .store with
  | .error .pageFault => .error (.page (s.firstBad p va bs.length .store))
  | .error .rights => .error .refused
  | .ok l => if onPage l then .error .refused else match s.writeVia p va bs .store die true with
    | .ok s1 => .ok s1
    | .error _ => .error .refused

/-! ### Queue states (R362, R364) -/

def Queue.slots (q : Queue) : Nat := 2 ^ bitsOf (dw q.kept 0) 4 0
def Queue.cslots (q : Queue) : Nat := 2 ^ bitsOf (dw q.kept 2) 4 0
def Queue.cls (q : Queue) : Nat := bitsOf (dw q.kept 1) 63 62
def Queue.strict (q : Queue) : Bool := (dw q.kept 1).getLsbD 61
/-- May the queue's DEADLINE work hard-pre-empt another partition (R362, R375)? -/
def Queue.hard (q : Queue) : Bool := (dw q.kept 1).getLsbD 60
def Queue.wbase (q : Queue) : Nat := bitsOf (dw q.kept 3) 51 0
def Queue.wlen (q : Queue) : Nat := bitsOf (dw q.kept 4) 51 0
/-- Where the packet at head lies (R365). -/
def Queue.packetAt (q : Queue) : Nat := bitsOf (dw q.kept 0) 51 12 * 4096 + 64 * (q.head % q.slots)

/-- A malformed descriptor. -/
def qdescBad (d : List Word) : Bool :=
  bitsOf (dw d 0) 63 52 ≠ 0 || bitsOf (dw d 0) 11 5 ≠ 0 || decide (bitsOf (dw d 0) 4 0 < 4) || decide (16 < bitsOf (dw d 0) 4 0) ||
  bitsOf (dw d 1) 63 62 = 3 || ((dw d 1).getLsbD 60 && bitsOf (dw d 1) 63 62 ≠ 0) || bitsOf (dw d 1) 59 32 ≠ 0 ||
  bitsOf (dw d 2) 63 52 ≠ 0 || bitsOf (dw d 2) 11 5 ≠ 0 || decide (bitsOf (dw d 2) 4 0 < 4) || decide (16 < bitsOf (dw d 2) 4 0) ||
  bitsOf (dw d 3) 63 52 ≠ 0 || bitsOf (dw d 4) 63 52 ≠ 0 || dw d 4 = 0 || dw d 7 ≠ 0

/-- Distance modulo 2³². -/
def dist32 (a b : Nat) : Nat := (a + 2 ^ 32 - b) % 2 ^ 32

/-- Tail and head decide between IDLE and ACTIVE, and a tail too far ahead is QERR_RING. -/
def State.settleQueue (s : State) (p j : Nat) : State :=
  let q := s.queue p j
  if q.st ≠ .idle ∧ q.st ≠ .active then s
  else if q.tail = q.head then s.setQueue p j { q with st := if q.off then .disabled else .idle, off := false }
  else if q.slots < dist32 q.tail q.head then (s.setQueue p j { q with irq := false }).queueError p j qerrRing 0 0
  else s.setQueue p j { q with st := .active }

/-- A read or write for the queue met an invalid entry: FETCH_PARKED, with a fault record of engine 3 (R373). -/
def State.parkQueue (s : State) (p j : Nat) (left : Left) (write : Bool) (a : Word) : State :=
  let (s1, n) := s.newRec p cPageFault 3 (if write then 2 else 1) ((s.part p).qnum j) a 0 0 (.queue j)
  s1.modQueue p j fun q => { q with st := .parked, left := left, seq := n }

/-- Does the queue still take parts in the table of R364 as a queue at work? -/
def Queue.live (q : Queue) : Bool := q.st = .idle || q.st = .active || q.st = .parked

/-- An error of a queue at work; of another it has no effect. -/
def State.failQueue (s : State) (p j code offset tag : Nat) : State :=
  if (s.queue p j).live then s.queueError p j code offset tag else s

/-- Read the descriptor and enable the queue, or park, or refuse. What is still to be written for packets of an earlier
enabling stays. (Log entry 22, DEDUCED.) -/
def State.enableNow (s : State) (p j : Nat) : State :=
  let q := s.queue p j
  if !(s.part p).fringOk then s.queueErrorMute p j qerrPacket else
  match s.hRead p ((s.part p).qdie j) (bitsOf q.desc 51 6 * 64) 8 with
  | .error (.page a) => s.parkQueue p j .enable false a
  | .error .refused => s.queueErrorMute p j qerrPage
  | .ok (d, s1) =>
    if qdescBad d then s1.queueErrorMute p j qerrPacket else
    s1.setQueue p j
      { Queue.reset with
        st := .idle, desc := q.desc, kept := d, seeds := [(dw d 5, dw d 6)], gen := q.gen + 1
        recs := q.recs, lrecs := q.lrecs, lseq := q.lseq, rseq := q.rseq }

/-- cmd 1. -/
def State.enableQueue (s : State) (p j : Nat) : State :=
  if (s.part p).hasQueue j && (s.part p).state = 1 && (s.queue p j).st = .disabled then s.enableNow p j else s

/-- Is a packet of the queue being decoded: a decode parked, or a gang waiting for its reservations? -/
def Queue.decoding (q : Queue) : Bool := !q.gang.isEmpty || (q.st = .parked && q.left = .decode)

/-- A packet has been decoded: the head passes it, its record is owed, and a queue being disabled is DISABLED.
(Log entry 22, DEDUCED.) -/
def State.decoded (s : State) (p j : Nat) : State :=
  let q := s.queue p j
  let q1 := { q with head := (q.head + 1) % 2 ^ 32, owed := q.owed ++ [q.head], tag := 0, irq := false }
  if q.off then s.setQueue p j { q1 with st := .disabled, off := false } else (s.setQueue p j q1).settleQueue p j

/-- A queue that becomes DISABLED: one that is parked at the write of a launch record or a completion record keeps that write
and its fault record (R373). (Log entry 22, DEDUCED.) -/
def Queue.disabled (q : Queue) : Queue :=
  let q1 := { q with st := .disabled, gang := [], pipes := [] }
  match q.st, q.left with
  | .parked, .lrec g => { q1 with lrecs := g :: q.lrecs.filter (fun h => decide (h ≠ g)), lseq := q.seq }
  | .parked, .record => { q1 with rseq := q.seq }
  | _, _ => q1

/-- cmd 2; the fault record of any other access that the queue waits for is withdrawn. (Log entry 22, DEDUCED.) -/
def State.disableQueue (s : State) (p j : Nat) : State :=
  let q := s.queue p j
  if q.live then
    if q.decoding then s.modQueue p j fun q => { q with off := true } else
    let s1 := s.setQueue p j q.disabled
    if q.st ≠ .parked || q.disabled.lseq = q.seq || q.disabled.rseq = q.seq then s1
    else s1.modPart p fun r => { r with recs := r.recs.filter fun x => decide (x.seq ≠ q.seq) }
  else s

/-- cmd 3. (Log entry 22, DEDUCED.) -/
def State.resetQueue (s : State) (p j : Nat) : State :=
  let q := s.queue p j
  if q.st = .error ∨ q.st = .aborted then
    s.setQueue p j { q with st := .disabled, code := 0, offset := 0, head := 0, tail := 0, chead := 0, seeds := [], mute := false, tag := 0, irq := false }
  else s

/-- A doorbell: the tail is recorded in every state (R364, R374). -/
def State.doorbell (s : State) (p j t : Nat) : State :=
  if (s.part p).hasQueue j then (s.modQueue p j fun q => { q with tail := t % 2 ^ 32 }).settleQueue p j else s

/-! ### Launch records (R371) -/

def GridSt.code : GridSt → Nat
  | .queued => 0
  | .running => 1
  | .stopped => 2
  | .complete => 3
  | .faulted => 4

def Grid.status (g : Grid) : Nat := (g.fault.map Prod.fst).getD 0

/-- The 64 bytes of a grid's launch record. -/
def State.lrecBytes (s : State) (g : Grid) : List Byte :=
  bytesOfDwords [BitVec.ofNat 64 (g.st.code * 2 ^ 61 + g.status % 256),
    BitVec.ofNat 64 (g.lowest (s.part g.part).clusters.length), BitVec.ofNat 64 g.done, g.tstart, g.tend, 0, 0, 0]

/-- A grid's launch record is to be written again once its queue's fault record has its verdict. -/
def State.oweLrec (s : State) (p j gid : Nat) : State :=
  s.modQueue p j fun q => { q with lrecs := q.lrecs.filter (fun g => decide (g ≠ gid)) ++ [gid] }

/-- Write a grid's launch record. An invalid entry parks its queue; one that is parked already writes it again when it goes
on, and one no longer at work has a fault record for it alone, but for one ABORTED, which writes nothing more. A refused write is skipped and its queue enters ERROR
(R373). (Log entry 22, DEDUCED.) -/
def State.writeLrec (s : State) (gid : Nat) : State := match aget s.grids gid with
  | none => s
  | some g =>
    if g.lrec = 0 then s else
    match g.queue with
    | none => s
    | some j => match s.hWrite g.part ((s.part g.qpart).qdie j) g.lrec (s.lrecBytes g) with
      | .ok s1 => s1
      | .error .refused => s.failQueue g.qpart j qerrPage 0 (s.queue g.qpart j).tag
      | .error (.page a) =>
        let q := s.queue g.qpart j
        if q.st = .idle ∨ q.st = .active then s.parkQueue g.qpart j (.lrec gid) true a
        else if q.st = .parked then s.oweLrec g.qpart j gid
        else if q.st = .aborted then s
        else if q.lseq ≠ 0 then s.oweLrec g.qpart j gid
        else
          let (s1, n) := s.newRec g.qpart cPageFault 3 2 ((s.part g.qpart).qnum j) a 0 0 (.queue j)
          (s1.modQueue g.qpart j fun q => { q with lseq := n }).oweLrec g.qpart j gid

/-- Change a grid, and write its launch record. -/
def State.modLaunched (s : State) (gid : Nat) (f : Grid → Grid) : State := (s.modGrid gid f).writeLrec gid

/-! ### The next queue (R370, R375) -/

/-- The packet at a queue's head, where it can be read. -/
def State.peek (s : State) (p j : Nat) : List Word := match s.hRead p ((s.part p).qdie j) (s.queue p j).packetAt 8 with
  | .ok (d, _) => d
  | .error _ => []

/-- May the queue's next packet be decoded: is one there, no gang of the queue waiting, and its fence met? -/
def State.decodable (s : State) (p j : Nat) : Bool :=
  let q := s.queue p j
  q.st = .active && q.gang.isEmpty && (!(dw (s.peek p j) 0).getLsbD 55 || q.owed.isEmpty)

/-- The queues of a firmware core that may be decoded: partition, queue, class, deadline of the next packet, number. -/
def State.waitingQueues (s : State) (fw : Nat) : List (Nat × Nat × Nat × Nat × Nat) :=
  (s.parts.map fun e => (e.2.queues.filter fun x => e.2.qnum x.1 % 32 = fw && s.decodable e.1 x.1).map fun x =>
    (e.1, x.1, x.2.cls, (dw (s.peek e.1 x.1) 5).toNat, e.2.qnum x.1)).flatten

/-- The element with the least key, the first of equals. -/
def leastBy {α : Type} (key : α → Nat) : List α → Option α
  | [] => none
  | a :: l => match leastBy key l with
    | none => some a
    | some b => if key b < key a then some b else some a

def robinKey (fw cls : Nat) : Nat := fw * 4 + cls

/-- The queue a firmware core decodes next. -/
def State.nextQueue (s : State) (fw : Nat) : Option (Nat × Nat) :=
  let l := s.waitingQueues fw
  let of_ (c : Nat) := l.filter fun e => e.2.2.1 = c
  let turn (c : Nat) := leastBy (fun e => (e.2.2.2.2 + 1024 - (aget s.hw.robin (robinKey fw c)).getD 0) % 1024) (of_ c)
  let first := match leastBy (fun e => e.2.2.2.1 * 1024 + e.2.2.2.2) (of_ 0) with
    | some e => some e
    | none => match turn 1 with
      | some e => some e
      | none => turn 2
  first.map fun e => (e.1, e.2.1)

/-- The round-robin position moves past a queue that has been decoded. -/
def State.served (s : State) (p j : Nat) : State :=
  let n := (s.part p).qnum j
  { s with hw := { s.hw with robin := aset s.hw.robin (robinKey (n % 32) (s.queue p j).cls) ((n + 1) % 1024) } }

end Sys2Proof.Machine
end

