-- ==== Sys2Proof/Machine/Place.lean ====
section
/-!
DEFINITION. Placing blocks: the cores that take a block (R8, R71, R100, R298), a block and its waves from their start
(R20, R26, R70 to R73, R225), and which grid's block a distributor dispatches (R88, R326, R375, R381, R382).
-/
namespace Sys2Proof.Machine

/-! ### Cores that take a block (R71, R100, R298) -/

/-- The sets of `c` cores of a cluster, lowest-numbered first. -/
def coreSets : Nat → List (List Nat)
  | 1 => [[0], [1], [2], [3]]
  | 2 => [[0, 1], [0, 2], [0, 3], [1, 2], [1, 3], [2, 3]]
  | 3 => [[0, 1, 2], [0, 1, 3], [0, 2, 3], [1, 2, 3]]
  | _ => [[0, 1, 2, 3]]

def dieOfCluster (c : Nat) : Nat := c / 36

/-- The partition a block belongs to. -/
def State.partOf (s : State) (b : Block) : Nat := ((aget s.grids b.grid).map Grid.part).getD 0

/-- The blocks that hold their cores now. -/
def State.resident (s : State) : List Block :=
  (s.blocks.filter fun e => !e.2.killed && !s.away (s.partOf e.2)).map Prod.snd

def State.blockGone (s : State) (b : Nat) : Bool := match aget s.blocks b with
  | some x => x.killed
  | none => true

/-- Scratchpad ranges of a core in use: of resident blocks, and of channels and matrix operations that outlive their
block (R101). -/
def State.windowsOn (s : State) (core : Nat) : List (Nat × Nat) :=
  ((s.resident.filter fun b => b.cores.contains core).map fun b => (b.sbase, b.size)) ++
  ((s.chans.filter fun e => e.2.busy && e.2.core = core && !s.away e.2.part).map fun e => (e.2.base, e.2.size)) ++
  (s.cores.map fun e => (e.2.mx.ops.filter fun o => o.cores.contains core && s.blockGone o.block).map fun o =>
    (o.base, o.size)).flatten

/-- The lowest s143 that is free on every core. (Log entry 23, DEDUCED.) -/
def State.windowBase (s : State) (cores : List Nat) (size : Nat) : Option Nat :=
  let used := (cores.map s.windowsOn).flatten
  let free (a : Nat) : Bool := decide (a + size ≤ 0x80000) && !used.any fun u => overlaps u.1 u.2 a size
  leastBy id ((0 :: used.map fun u => u.1 + u.2).filter free)

/-- Do a sub-core's slots and registers take `n` more waves of the kernel, its twins apart (R8)? -/
def State.subTakes (s : State) (core sub n : Nat) (k : Kernel) : Bool :=
  let here := (s.onSub core sub).filter fun w => w.twin.isNone
  n = 0 || (decide (here.length + n ≤ 12) &&
    decide (here.foldl (fun m w => m + 8 * w.vregs * w.width) 0 + n * (8 * k.vregs * k.width) ≤ 131072))

/-- May an engine be given to a block (R298)? -/
def State.engineFree (s : State) (core : Nat) : Bool := (s.core core).mx.owner.isNone && (s.core core).mx.ops.isEmpty

/-- Do two partitions share cores? -/
def State.share (s : State) (p r : Nat) : Bool := (s.part p).clusters.any fun c => (s.part r).clusters.contains c

/-- Is another of the partitions that share cores with this one resident (R375)? -/
def State.othersOn (s : State) (p : Nat) : Bool :=
  s.resident.any fun b => s.partOf b ≠ p && s.share p (s.partOf b)

/-- Do these cores of a cluster take a block of the kernel? -/
def State.coresTake (s : State) (p : Nat) (k : Kernel) (cores : List Nat) : Bool :=
  let c := cores.length
  ((List.range c).all fun j => (List.range 8).all fun b => s.subTakes (cores.getD j 0) b (k.onSub c j b) k) &&
  (k.matrix = 0 || cores.all s.engineFree) && (s.windowBase cores (k.partBytes c)).isSome &&
  !s.othersOn p

/-- The lowest-numbered cores of a cluster that take a block. -/
def State.coresIn (s : State) (p : Nat) (k : Kernel) (cluster : Nat) : Option (List Nat) :=
  ((coreSets (k.cores.getD 4)).map fun l => l.map fun i => cluster * 4 + i).find? fun l => s.coresTake p k l

/-- The first of some clusters that takes a block. -/
def State.coresAmong (s : State) (p : Nat) (k : Kernel) (clusters : List Nat) : Option (List Nat) :=
  clusters.findSome? fun c => s.coresIn p k c

/-! ### A block and its waves from their start (R20, R26, R70 to R73) -/

/-- Role of wave `w` (R73). -/
def Kernel.role (k : Kernel) (w : Nat) : Nat :=
  if w < k.copy then 1 else if w < k.copy + k.matrix then 2 else if w < k.copy + k.matrix + k.vector then 3 else 0

/-- s153 (R25). -/
def Grid.mode (g : Grid) : Nat :=
  (if g.strict then 1 else 0) + (if g.kern.scheck then 2 else 0) + (if g.kern.idem then 4 else 0) +
    (if g.detach then 8 else 0) + (if g.coop then 16 else 0)

/-- The launch registers of wave `w` of a block (R26). -/
def launchRegs (g : Grid) (b : Block) (w core : Nat) : Sparse 64 :=
  let k := g.kern
  let l : List (Nat × Nat) := [(128, b.idx), (129, b.idx % g.gx), (130, b.idx / g.gx % g.gy), (131, b.idx / (g.gx * g.gy)),
    (132, g.gx), (133, g.gy), (134, g.gz), (135, k.bx), (136, k.by_), (137, k.bz), (138, w), (139, k.width), (140, k.level),
    (141, g.frame), (142, g.args.toNat), (143, b.sbase), (144, k.scratch), (145, core), (146, core / 4), (147, core / 144),
    (148, g.part), (149, k.role w), (150, g.seed.1.toNat), (151, g.seed.2.toNat), (153, g.mode), (154, g.lrec), (155, b.table)]
  l.foldl (fun m e => sset m e.1 (BitVec.ofNat 64 e.2)) []

/-- Lanes of wave `w` that have a thread (R72). -/
def Kernel.lanes (k : Kernel) (w : Nat) : Lanes := widthMask (min k.width (k.threads - w * k.width))

/-- A wave at its start (R20). -/
def waveAt (g : Grid) (b : Block) (id w core slot : Nat) : Wave :=
  let k := g.kern
  { id := id, grid := g.id, block := b.id, sub := subOf w, slot := slot, vregs := k.vregs, sregs := k.sregs, rets := k.rets
    v := [], s := [], launch := launchRegs g b w core, p := [], j := [], jp := [], mtg := [], lk := [], fctl := []
    stack := [], spilled := [], spills := [], dsp := g.dsp, ctr := List.replicate 6 0, trap := none
    paths := [⟨0, k.lanes w, k.entry, 0, none, .run, false, false, 0⟩], runPath := some 0, pinned := false
    exited := widthMask k.width &&& ~~~k.lanes w, queue := [], ops := [], late := [], ready := 0, issued := 0, redGen := 0, redCnt := 0
    forks := [], cause := 0, twin := none }

/-- Twins give up their slots to a block that needs them (R198, cause 10). (Log entry 19, DEDUCED.) -/
def State.clearTwins (s : State) (core sub v W : Nat) : State :=
  if (s.freeSlot core sub v W).isSome then s else
  ((s.onSub core sub).filter fun w => w.twin.isNone && !w.forks.isEmpty).foldl (fun (s : State) w => s.squashForks w.id 10) s

/-- Start the waves of a block, in index order, each in the lowest free slot of its sub-core. -/
def State.startWaves (s : State) (g : Grid) (b : Block) : State :=
  let k := g.kern
  (List.range k.waves).foldl (fun (s : State) w =>
    let core := b.cores.getD (k.coreOf b.cores.length w) 0
    let s1 := s.clearTwins core (subOf w) k.vregs k.width
    let slot := (s1.freeSlot core (subOf w) k.vregs k.width).getD 0
    { s1 with nextId := s1.nextId + 1 }.setWave (waveAt g b s1.nextId w core slot)) s

/-- The ring-table entry of a declaration whose memory lies at `base` (R225). -/
def tableEntry (e : Word × Word) (base : Nat) : List Word :=
  let dev := declChan e || declDev e
  [BitVec.ofNat 64 base, BitVec.ofNat 64 ((if declChan e then 2 ^ 25 else 0) + (if dev then 2 ^ 24 else 0) +
    declLsize e * 2 ^ 16 + declLast e)]

/-- A ring of the block's own. -/
def blockRing (e : Word × Word) : Bool := !declChan e && !declDev e && declFlow e = 0

/-- Allocate and zero a block's own rings: the memory of every declaration. -/
def State.blockRings (s : State) (g : Grid) (b die : Nat) : List ((Word × Word) × Nat) → Got × List Nat × State
  | [] => (.at 0, [], s)
  | (e, base) :: rest =>
    let here : Got × State :=
      if blockRing e then s.alloc g.part die (declBytes e) 512 (.blockRing g.id b) else (.at base, s)
    match here with
    | (.at a, s1) =>
      match State.blockRings (if blockRing e then s1.zeroVia g.part die a 512 else s1) g b die rest with
      | (r, l, s2) => (r, a :: l, s2)
    | (r, s1) => (r, [], s1)

/-- The memory a block needs in its die's region: spill area, table and rings; and the built table (R225, R321), of
whose header R225 gives dword 0 alone: the other holds 0 (log entry 47, DESIGN CHOICE). (Log entry 11, DESIGN CHOICE.) -/
def State.blockMemory (s : State) (g : Grid) (b die : Nat) : Got × Nat × Nat × State :=
  let k := g.kern
  match s.alloc g.part die (k.rets * 8 * k.threads) 256 (.spill b) with
  | (.at spill, s1) => match s1.alloc g.part die (16 + 16 * k.decls.length) 256 (.blockRing g.id b) with
    | (.at table, s2) => match s2.blockRings g b die (k.decls.zip g.rings) with
      | (.at _, bases, s3) =>
        let words := [BitVec.ofNat 64 k.decls.length, 0] ++ ((k.decls.zip bases).map fun e => tableEntry e.1 e.2).flatten
        (.at 0, spill, table, s3.putVia g.part die table (bytesOfDwords words))
      | (r, _, s3) => (r, 0, 0, s3)
    | (r, s2) => (r, 0, 0, s2)
  | (r, s1) => (r, 0, 0, s1)

/-- Zero a block's window on its cores; its words hold no uncorrectable error then (R100, R103). -/
def State.zeroWindow (s : State) (b : Block) : State := b.cores.foldl (fun (s : State) c =>
  let s1 := s.setBytes (.scr c b.sbase) (List.replicate b.size 0)
  if s1.msys.eccBad.isEmpty then s1 else
  s1.setMsys { s1.msys with eccBad := s1.msys.eccBad.filter fun e => !overlaps (e * 8) 8 (scrKey c b.sbase) b.size }) s

/-- The engines of a block's cores start with nothing in them (R298). -/
def State.giveEngines (s : State) (g : Grid) (b : Block) : State :=
  if g.kern.matrix = 0 then s else
  b.cores.foldl (fun (s : State) c => s.modCore c fun k => { k with mx := { Matrix.reset with owner := some b.id } }) s

/-- Are two partitions one, or do they share cores? -/
def State.together (s : State) (p r : Nat) : Bool := p = r || s.share p r

/-- A partition's residence begins with its first resident block (R375). -/
def State.beginStay (s : State) (p : Nat) : State :=
  if s.resident.any fun b => s.partOf b = p then s else s.modPart p fun q => { q with since := s.time.elapsed }

/-- A block comes to stand on cores that take it: window, engines, waves; its start acquires (R121).
(Log entry 23, DEDUCED.) -/
def State.stand (s : State) (g : Grid) (b : Block) (cores : List Nat) : State :=
  let size := g.kern.partBytes cores.length
  let b' := { b with cluster := cores.headD 0 / 4, cores := cores, size := size, sbase := (s.windowBase cores size).getD 0 }
  let s0 := s.beginStay g.part
  let s1 := ({ s0 with blocks := aset s0.blocks b.id b' } : State).zeroWindow b'
  let s2 := cores.foldl (fun (s : State) c => s.l1Empty c) (s1.giveEngines g b')
  s2.startWaves g b'

/-- What placing blocks comes to: `bad` names the block whose memory does not translate. -/
inductive Placed where
  | ok (s : State) | full | bad (idx : Nat)

/-- The block of a grid with an index, before it stands anywhere. -/
def newBlock (g : Grid) (id idx spill table : Nat) : Block :=
  { id := id, grid := g.id, idx := idx, cluster := 0, cores := [], sbase := 0, part := g.part, size := 0
    nwaves := g.kern.waves, bars := [], run := 0, owed := false, again := false, killed := false, spill := spill, table := table
    saved := false, resolved := false, winOut := false, cont := false, first := none }

/-- A grid's first block starts it (R371, R245). -/
def Grid.started (g : Grid) (t : Time) : Grid :=
  if g.start.isSome then g else { g with st := .running, start := some t.elapsed, tstart := t.dev }

/-- Dispatch block `idx` of a grid on cores that take it (R88, R321, R326). -/
def State.putBlock (s : State) (g : Grid) (idx : Nat) (cores : List Nat) : Placed :=
  let id := s.nextId
  match ({ s with nextId := id + 1 } : State).blockMemory g id (cores.headD 0 / 144) with
  | (.full, _) => .full
  | (.bad, _) => .bad idx
  | (.at _, spill, table, s1) =>
    let s2 := s1.stand g (newBlock g id idx spill table) cores
    let s3 := (s2.chain g.id).foldl (fun (s : State) a => s.modFrame a fun x => { x with blocks := x.blocks + 1 }) s2
    let share := g.shareOf (s.part g.part).clusters.length idx
    .ok (s3.modLaunched g.id fun x => ({ x with next := aset x.next share (idx + 1) } : Grid).started s.time)

/-! ### Which block is dispatched (R88, R326, R375, R381, R382) -/

/-- The number of a partition's clusters. -/
def State.ncl (s : State) (p : Nat) : Nat := (s.part p).clusters.length

/-- The top-level grid that a grid descends from. -/
def State.topN (s : State) : Nat → Nat → Nat
  | 0, gid => gid
  | n + 1, gid => match (aget s.grids gid).bind Grid.launcher with
    | some h => State.topN s n h
    | none => gid
def State.topGrid (s : State) (gid : Nat) : Option Grid := aget s.grids (s.topN (s.grids.length + 1) gid)

/-- Does the grid stem from a cooperative grid that has started, which a soft stop does not stop (R246)? -/
def State.ofCoop (s : State) (gid : Nat) : Bool := (s.topGrid gid).any fun t => t.coop && t.start.isSome && !t.ended

/-- Do the grid and its chain let a block be dispatched now? A soft stop holds every grid, nested ones with their top-level
grid (R246, R371), but those of a cooperative grid that runs. (Log entry 26, DEDUCED.) -/
def State.mayDispatch (s : State) (g : Grid) : Bool :=
  let p := s.part g.part
  p.state = 1 && (p.stage = .run || p.stage = .soft && s.ofCoop g.id) && g.fault.isNone && !g.ended &&
  (g.after.all fun a => (aget s.grids a).all Grid.ended) &&
  (s.chain g.id).all fun a => (aget s.grids a).all fun x => x.maxblk = 0 || decide (x.blocks < x.maxblk)

/-- The clusters of a partition on a die. -/
def State.clustersOn (s : State) (p die : Nat) : List Nat := (s.part p).clusters.filter fun c => dieOfCluster c = die

/-- The clusters that a share's blocks may be dispatched to. -/
def State.shareClusters (s : State) (g : Grid) (share : Nat) : List Nat :=
  if g.strict then [(s.part g.part).clusters.getD share 0] else s.clustersOn g.part share

/-- Module queue number of a grid's top-level queue. -/
def State.gridQnum (s : State) (g : Grid) : Nat := (s.part g.qpart).qnum (g.queue.getD 0)

/-- Is `g` before `h` in the order of R375, with R326's order within a class? -/
def State.gridBefore (s : State) (g h : Grid) : Bool :=
  let key (x : Grid) : List Nat :=
    if x.cls = 0 then [0, x.deadline.toNat, s.gridQnum x, x.packet, 8 - x.prio, x.id] else [x.cls, 8 - x.prio, x.id]
  decide (key g < key h)

/-- Has the cactus region of a die room for what a block needs (R321)? (Log entry 23, DEDUCED.) -/
def State.regionTakes (s : State) (g : Grid) (die : Nat) : Bool := match (s.blockMemory g s.nextId die).1 with
  | .full => false
  | _ => true

/-- Place every block of a grid from index `i` on, `n` of them (R88): on its share's clusters, or in normal mode any.
(Log entry 23, DEDUCED.) -/
def State.placeAll (s : State) (gid : Nat) : Nat → Nat → Placed
  | 0, _ => .ok s
  | n + 1, i => match aget s.grids gid with
    | none => .full
    | some g =>
      if !s.mayDispatch g then .full else
      let home := s.shareClusters g (g.shareOf (s.ncl g.part) i)
      let cores := match s.coresAmong g.part g.kern home with
        | some l => some l
        | none => if g.strict then none else s.coresAmong g.part g.kern (s.part g.part).clusters
      match cores with
      | none => .full
      | some l => match s.putBlock g i l with
        | .ok s1 => State.placeAll s1 gid n (i + 1)
        | x => x

/-- Can a cooperative grid's blocks all be placed now? -/
def State.placesAll (s : State) (g : Grid) : Bool := match s.placeAll g.id g.total 0 with
  | .full => false
  | _ => true

/-- Could the grid's next block of a share be dispatched now, a cooperative grid's with all others? -/
def State.couldPlace (s : State) (g : Grid) (share : Nat) : Bool :=
  s.mayDispatch g && (g.nextOf (s.ncl g.part) share).isSome && (!g.coop || s.placesAll g) &&
    (s.coresAmong g.part g.kern (s.shareClusters g share)).any fun l => s.regionTakes g (l.headD 0 / 144)

/-- The shares of a grid: one for each cluster of its partition in strict mode, else one for each die (R381, R382). -/
def State.sharesOf (s : State) (g : Grid) : List Nat := List.range (if g.strict then s.ncl g.part else 4)

/-- No grid of the partition, or of one that shares its cores, that comes before has a block for the same clusters that could
be dispatched. -/
def State.firstInOrder (s : State) (g : Grid) (share : Nat) : Bool :=
  !s.grids.any fun e => s.together g.part e.2.part && s.gridBefore e.2 g &&
    (s.sharesOf e.2).any fun k =>
      ((s.shareClusters e.2 k).any fun c => (s.shareClusters g share).contains c) && s.couldPlace e.2 k

/-- The same for every share whose clusters the block's dispatch takes: a cooperative grid's blocks go together (R88). -/
def State.mayGo (s : State) (g : Grid) (share : Nat) : Bool :=
  if !g.coop then s.firstInOrder g share
  else (s.sharesOf g).all fun k => (g.strict && (g.nextOf (s.ncl g.part) k).isNone) || s.firstInOrder g k

/-- A grid ends because a block's memory does not translate (R321). (Log entry 23, DEDUCED.) -/
def State.endUnplaced (s : State) (g : Grid) (idx : Nat) : State := s.endGrid g.id cFrameExhaust (BitVec.ofNat 64 idx)

/-- The cores of a cluster, from the named one on, that take a block. -/
def State.coresFrom (s : State) (g : Grid) (core : Nat) : Option (List Nat) :=
  ((coreSets (g.kern.cores.getD 4)).map fun l => l.map fun i => core / 4 * 4 + i).find? fun l =>
    l.headD 0 = core && s.coresTake g.part g.kern l

/-- Where a block goes: in strict mode the lowest-numbered cores of its cluster, else cores of its share's die that
begin with the one named. -/
def State.chooseCores (s : State) (g : Grid) (idx core : Nat) : Option (List Nat) :=
  let share := g.shareOf (s.ncl g.part) idx
  if g.strict then s.coresIn g.part g.kern ((s.part g.part).clusters.getD share 0)
  else if (s.clustersOn g.part share).contains (core / 4) then s.coresFrom g core else none

/-- Blocks that all the module's cores can hold at once: 96 waves on each of 576 cores. -/
def maxResident : Nat := 55296

/-- A state with nothing on the cores. -/
def State.bare (s : State) : State := { s with waves := [], blocks := [], chans := [], cores := [] }

/-- Does every block of the grid fit the partition's cores at once, were they empty? (R88, R367) The memory that
dispatch allocates is no matter of this. -/
def State.fitsAtOnce (s : State) (g : Grid) : Bool :=
  let rec go (s : State) : Nat → Nat → Bool
    | 0, _ => true
    | n + 1, i =>
      let home := s.shareClusters g (g.shareOf (s.ncl g.part) i)
      let cores := match s.coresAmong g.part g.kern home with
        | some l => some l
        | none => if g.strict then none else s.coresAmong g.part g.kern (s.part g.part).clusters
      match cores with
      | none => false
      | some l => go (s.stand g (newBlock g (s.nextId + 1000000 + i) i 0 0) l) n (i + 1)
  decide (g.total ≤ maxResident) && go { s.bare with grids := aset s.grids g.id g } g.total 0

/-! ### The events -/

/-- BLOCK_DISPATCH: a distributor dispatches the next block of a share; a cooperative grid's blocks go together
(R88, R375). -/
def State.dispatch (s : State) (gid idx core : Nat) : State := match aget s.grids gid with
  | none => s
  | some g =>
    let share := g.shareOf (s.ncl g.part) idx
    if !s.mayDispatch g || g.nextOf (s.ncl g.part) share ≠ some idx || !s.mayGo g share then s else
    if g.coop then match s.placeAll gid g.total 0 with
      | .ok s1 => s1
      | .full => s
      | .bad i => s.endUnplaced g i
    else match s.chooseCores g idx core with
      | none => s
      | some l => match s.putBlock g idx l with
        | .ok s1 => s1
        | .full => s
        | .bad i => s.endUnplaced g i

/-- Has the distributor of a die a block of its own share, of any grid of the partition or of one that shares its cores, that
fits now? -/
def State.ownBlock (s : State) (p die : Nat) : Bool := s.grids.any fun e => s.together p e.2.part &&
  (s.sharesOf e.2).any fun k => ((s.shareClusters e.2 k).any fun c => dieOfCluster c = die) && s.couldPlace e.2 k

/-- Would a die with no such block take one of the grid's from another die: is there one, and do its cores take it? -/
def State.wants (s : State) (g : Grid) (die : Nat) : Bool :=
  !g.strict && !g.coop && s.mayDispatch g && !s.ownBlock g.part die &&
    ((List.range 4).any fun v => v ≠ die && (g.nextOf (s.ncl g.part) v).isSome) &&
    (s.coresAmong g.part g.kern (s.clustersOn g.part die)).isSome

/-- The die that a distributor asks next, after `v`: the others in ascending number, around. -/
def askAfter (thief v : Nat) : Nat := if (v + 1) % 4 = thief then (v + 2) % 4 else (v + 1) % 4
def State.asksNow (s : State) (die : Nat) : Nat := (aget s.hw.asks die).getD (askAfter die 3)
def State.setAsk (s : State) (die v : Nat) : State := { s with hw := { s.hw with asks := aset s.hw.asks die v } }

/-- May a die ask a victim for a block of the grid now: does it want one of no grid that comes before, is the victim whom it
asks next, with no block of its own to dispatch, and does no lower die ask there (R381)? (Log entry 23, DEDUCED.) -/
def State.mayAsk (s : State) (g : Grid) (thief victim : Nat) : Bool :=
  thief ≠ victim && s.wants g thief && s.asksNow thief = victim &&
    !(s.grids.any fun e => s.together g.part e.2.part && s.gridBefore e.2 g && s.wants e.2 thief) &&
    !((List.range thief).any fun d => s.asksNow d = victim && s.wants g d) && !s.ownBlock g.part victim

/-- STEAL_REQUEST (R381): a die that has free slots and no block of its own that fits asks the others in ascending number;
of those that ask one victim, the lower die goes first. The victim, which dispatches its own blocks first and serves one
request at a clock, answers with the lowest undispatched block of the first grid in order, or with none.
(Log entry 23, DEDUCED.) -/
def State.steal (s : State) (gid thief victim : Nat) : State := match aget s.grids gid with
  | none => s
  | some g =>
    if !s.mayAsk g thief victim then s else
    let none_ := s.setAsk thief (askAfter thief victim)
    if (aget s.hw.stole victim).getD 0 = s.clock + 1 then none_ else
    match g.nextOf (s.ncl g.part) victim, s.coresAmong g.part g.kern (s.clustersOn g.part thief) with
    | some idx, some l => match s.putBlock g idx l with
      | .ok s1 =>
        let s2 := s1.setAsk thief (askAfter thief 3)
        { s2 with hw := { s2.hw with stole := aset s2.hw.stole victim (s.clock + 1) } }
      | .full => none_
      | .bad i => s.endUnplaced g i
    | _, _ => none_

/-- The lowest sub-core of a core with a free slot for one wave (R8). (Log entry 23, DEDUCED.) -/
def State.subFor (s : State) (core v W : Nat) : Option Nat :=
  (List.range 8).find? fun b => (s.freeSlot core b v W).isSome

/-- The launch registers that name the place of a wave that stands on one core. -/
def placedAt (l : Sparse 64) (core : Nat) : Sparse 64 :=
  [(145, core), (146, core / 4), (147, core / 144)].foldl (fun m e => sset m e.1 (BitVec.ofNat 64 e.2)) l

/-- A resumption's block starts again on a core: with its one wave as that started, its record's values and contributions
still to come among them (R104, R336, R395). -/
def State.resumeAgain (s : State) (g : Grid) (b : Block) (core : Nat) : State := match b.first with
  | none => s
  | some w => match s.subFor core g.kern.vregs w.width with
    | none => s
    | some sub =>
      let w' : Wave := { w with
        id := s.nextId, sub := sub, launch := placedAt w.launch core, ready := 0
        slot := (s.freeSlot core sub g.kern.vregs w.width).getD 0 }
      let s1 := s.beginStay g.part
      let s2 : State := { s1 with
        nextId := s.nextId + 1
        blocks := aset s1.blocks b.id { b with killed := false, cluster := core / 4, cores := [core], run := w.idx } }
      (s2.setWave w').l1Empty core

/-- The cores that a killed block starts again on, begun with the one named: of its die, in strict mode of its cluster, once
its chains have halted (R104). -/
def State.againOn (s : State) (g : Grid) (b : Block) (core : Nat) : Option (List Nat) :=
  let p := s.part g.part
  if (p.stage ≠ .run ∧ p.stage ≠ .soft ∧ p.stage ≠ .stopped) || (s.chans.any fun e => e.2.block = b.id && e.2.busy)
      || core / 144 ≠ dieOfCluster b.cluster || !p.clusters.contains (core / 4) || s.othersOn g.part then none
  else if b.cont then
    if (g.strict && core / 4 ≠ b.cluster) || b.first.all (fun w => (s.subFor core g.kern.vregs w.width).isNone) then none
    else some [core]
  else if g.strict then s.coresIn g.part g.kern b.cluster else s.coresFrom g core

/-- BLOCK_RELAUNCH: a killed block starts again (R104). -/
def State.relaunch (s : State) (gid idx core : Nat) : State :=
  match s.blocks.find? fun e => e.2.grid = gid && e.2.idx = idx && e.2.killed, aget s.grids gid with
  | some (bid, b), some g => match s.againOn g b core with
    | none => s
    | some l =>
      if b.cont then s.resumeAgain g b core else
      let p := s.part g.part
      let rings := (p.allocs.filter fun a => a.kind = .blockRing gid bid && a.base ≠ b.table).map Alloc.base
      let s1 := rings.foldl (fun (s : State) a => s.zeroVia g.part (core / 144) a 512) s
      s1.stand g { b with killed := false } l
  | _, _ => s

/-- BLOCK_DISPATCH (R88, R375). -/
def execBlockDispatch (s : State) : Host.Outcome State Fault Refusal :=
  event (fun a s => match a with
    | .place g idx core => s.dispatch g idx core
    | _ => s) s

/-- STEAL_REQUEST (R381). -/
def execStealRequest (s : State) : Host.Outcome State Fault Refusal :=
  event (fun a s => match a with
    | .steal g thief victim => s.steal g thief victim
    | _ => s) s

/-- BLOCK_RELAUNCH (R104). -/
def execBlockRelaunch (s : State) : Host.Outcome State Fault Refusal :=
  event (fun a s => match a with
    | .place g idx core => s.relaunch g idx core
    | _ => s) s

end Sys2Proof.Machine
end

