-- ==== Sys2Proof/Machine/Queue.lean ====
section
/-!
DEFINITION. Packets: their decode (R358, R359, R365 to R370), seeds (R379, R380), gangs (R376 to R378) and completion
records (R372).
-/
namespace Sys2Proof.Machine

/-! ### What a decode comes to -/

/-- Why a decode has no effect: an access that parks the queue, or a status code with its field's offset (R367). -/
inductive DErr where
  | park (write : Bool) (a : Word) | code (n offset : Nat)
deriving DecidableEq, Repr

def DErr.of : HErr → DErr
  | .page a => .park false a
  | .refused => .code qerrPage 0

def DErr.ofKernel : KErr → DErr
  | .page a => .park false a
  | .rights _ | .poison _ => .code qerrPage 0
  | .malformed => .code qerrPacket 0

abbrev Decoded (α : Type) := Except DErr α

/-- Stop with a code when a check fails. -/
def refuse (bad : Bool) (n offset : Nat) : Decoded Unit := if bad then .error (.code n offset) else .ok ()

/-- Read dwords for a decode. -/
def State.dRead (s : State) (p die a n : Nat) : Decoded (List Word × State) := match s.hRead p die a n with
  | .ok r => .ok r
  | .error e => .error (.of e)

/-! ### Packet headers (R365) -/

def pktType (d : List Word) : Nat := bitsOf (dw d 0) 63 56
def pktTag (d : List Word) : Nat := bitsOf (dw d 0) 47 32
def pktIrq (d : List Word) : Bool := (dw d 0).getLsbD 54
def pktStrict (d : List Word) : Bool := (dw d 0).getLsbD 53
def pktCoop (d : List Word) : Bool := (dw d 0).getLsbD 52
def pktPrio (d : List Word) : Nat := bitsOf (dw d 0) 2 0

/-- A malformed header: an unknown type, a reserved bit, or a LAUNCH field in another type. -/
def packetBad (d : List Word) : Bool :=
  pktType d = 0 || decide (7 < pktType d) || bitsOf (dw d 0) 51 48 ≠ 0 || bitsOf (dw d 0) 31 3 ≠ 0 ||
    (pktType d ≠ 1 && (pktStrict d || pktCoop d || pktPrio d ≠ 0))

/-- Grid dimensions, each at least 1 (R325). -/
def dimsBad (x : Word) : Bool := bitsOf x 63 32 = 0 || bitsOf x 31 16 = 0 || bitsOf x 15 0 = 0

/-- DEADLINE packets have a deadline, others none (R366). -/
def deadlineBad (cls : Nat) (x : Word) : Bool := if cls = 0 then x = 0 else x ≠ 0

/-- A payload that breaks its type's rule (R366, R369, R376). -/
def payloadBad (cls : Nat) (d : List Word) : Bool :=
  let zero (l : List Nat) : Bool := l.any fun i => dw d i ≠ 0
  match pktType d with
  | 1 => bitsOf (dw d 1) 63 52 ≠ 0 || bitsOf (dw d 1) 5 0 ≠ 0 || dimsBad (dw d 2) || bitsOf (dw d 4) 63 52 ≠ 0 ||
      bitsOf (dw d 4) 5 0 ≠ 0 || deadlineBad cls (dw d 5) || bitsOf (dw d 7) 63 52 ≠ 0 || bitsOf (dw d 7) 3 0 ≠ 0
  | 2 => bitsOf (dw d 1) 63 52 ≠ 0 || bitsOf (dw d 1) 5 0 ≠ 0 || bitsOf (dw d 2) 55 0 ≠ 0 || bitsOf (dw d 2) 63 60 = 0 ||
      decide (8 < bitsOf (dw d 2) 63 60) || decide (12 < bitsOf (dw d 2) 59 56) || deadlineBad cls (dw d 5) || zero [3, 4, 6, 7]
  | 3 => zero [3, 4, 5, 6, 7]
  | 4 | 7 => zero [1, 2, 3, 4, 5, 6, 7]
  | 5 => zero [2, 3, 4, 5, 6, 7]
  | _ => bitsOf (dw d 1) 63 52 ≠ 0 || bitsOf (dw d 1) 11 0 ≠ 0 || bitsOf (dw d 2) 11 0 ≠ 0 || zero [3, 4, 5, 6, 7]

/-! ### Capabilities (R358, R359) -/

/-- Bytes outside a window. -/
def outside (base len a n : Nat) : Bool := decide (a < base) || decide (base + len < a + n)

/-- The pointer fields a LAUNCH and a gang part share: kernel with its declaration list, args, launch record. Offsets
are those of the fields. (Log entry 22, DEDUCED.) -/
def State.checkCaps (s : State) (p die base len kernel offK : Nat) (args : Word) (offA lrec offL : Nat) : Decoded State := do
  refuse (outside base len kernel 64) qerrCap offK
  let (d, s1) ← s.dRead p die kernel 8
  let n := bitsOf (dw d 5) 63 55
  refuse (n ≠ 0 && outside base len (bitsOf (dw d 5) 51 4 * 16) (16 * n)) qerrCap offK
  refuse (args ≠ 0 && outside base len args.toNat 1) qerrCap offA
  refuse (lrec ≠ 0 && outside base len lrec 64) qerrCap offL
  return s1

/-- Read a kernel for a decode (R368). -/
def State.dKernel (s : State) (p die a : Nat) : Decoded (Kernel × State) := match s.readKernel p die a .load with
  | .ok r => .ok r
  | .error e => .error (.ofKernel e)

/-! ### Placement tables (R382) -/

/-- The skew bound and the entries of a table. -/
def State.readPlace (s : State) (p die : Nat) (q : Queue) (a : Nat) : Decoded (Nat × List Nat × State) := do
  if a = 0 then return (0, [], s)
  refuse (outside q.wbase q.wlen a 16) qerrCap 56
  let (h, s1) ← s.dRead p die a 2
  let e := bitsOf (dw h 0) 15 0
  refuse (outside q.wbase q.wlen a (16 + 2 * e)) qerrCap 56
  let (l, s2) ← s1.dRead p die (a + 16) ((2 * e + 7) / 8)
  let entry (i : Nat) : Nat := bitsOf (dw l (i / 4)) (16 * (i % 4) + 15) (16 * (i % 4))
  return (bitsOf (dw h 0) 63 32, (List.range e).map entry, s2)

/-- A malformed table: its header, or an entry beyond the partition's clusters. (Log entry 22, DEDUCED.) -/
def placeBad (h0 h1 : Word) (entries : List Nat) (clusters : Nat) : Bool :=
  h1 ≠ 0 || bitsOf h0 31 16 ≠ 0 || entries.isEmpty || decide (4096 < entries.length) || entries.any fun e => decide (clusters ≤ e)

/-! ### Grids of launches (R322, R326, R366, R376) -/

/-- The top-level grid of a decoded launch. -/
def gridOf (l : Launch) (id die qpart queue qgen packet tag cls : Nat) (irq : Bool) (gang : Option Nat) : Grid :=
  { id := id, part := l.part, kern := l.kern, gx := l.gx, gy := l.gy, gz := l.gz, args := l.args, lrec := l.lrec, frame := 0
    die := die, dsp := [], parent := none, launcher := none, up := 0, origin := none, within := none, root := true, detach := false
    strict := l.strict
    coop := l.coop, prio := l.prio, budget := l.budget, maxblk := l.maxblk, used := l.kern.units, blocks := 0, kids := 0, hold := 1
    cfut := 0, qpart := qpart, queue := some queue, qgen := qgen, packet := packet, tag := tag, irq := irq, gang := gang, cls := cls
    deadline := l.deadline, seed := l.seed, place := l.place, skew := l.skew, fin := [], rings := [], st := .queued, next := []
    done := 0, tstart := 0, tend := 0, start := none, fault := none, gfault := none, quiet := false
    after := [], saves := [], applied := 0, code := some l.code
    own := [], ended := false }

/-- A launch from the fields that a LAUNCH and a gang part share. -/
def launchOf (p : Nat) (k : Kernel) (dims args lrec lim deadline : Word) (prio : Nat) (strict coop : Bool) (seed : Word × Word) :
    Launch :=
  { part := p, kern := k, gx := bitsOf dims 63 32, gy := bitsOf dims 31 16, gz := bitsOf dims 15 0, args := args
    lrec := bitsOf lrec 51 6 * 64, deadline := deadline, budget := bitsOf lim 63 32, maxblk := bitsOf lim 31 0, prio := prio
    strict := strict, coop := coop, place := [], skew := 0, seed := seed, code := [] }

/-- Frame within budget: the grid's own units against its own limit (R326). -/
def budgetOk (g : Grid) : Bool := g.budget = 0 || decide (g.kern.units ≤ g.budget)

/-! ### LAUNCH (R366, R367) -/

/-- Checks 2 to 5 of a LAUNCH. -/
def State.decodeLaunch (s : State) (p j : Nat) (d : List Word) : Decoded State := do
  let q := s.queue p j
  let die := (s.part p).qdie j
  let kernel := bitsOf (dw d 1) 51 6 * 64
  let lrec := bitsOf (dw d 4) 51 6 * 64
  let place := bitsOf (dw d 7) 51 4 * 16
  let s1 ← s.checkCaps p die q.wbase q.wlen kernel 8 (dw d 3) 24 lrec 32
  let (skew, entries, s2) ← s1.readPlace p die q place
  let (k, s3) ← s2.dKernel p die kernel
  let (h, s4) ← if place = 0 then pure ([], s3) else s3.dRead p die place 2
  let strict := k.strict || pktStrict d || q.strict
  refuse (place ≠ 0 && (!strict || placeBad (dw h 0) (dw h 1) entries (s.ncl p))) qerrPacket 0
  let l := { launchOf p k (dw d 2) (dw d 3) (dw d 4) (dw d 6) (dw d 5) (pktPrio d) strict (pktCoop d) (q.seeds.headD (0, 0)) with
    place := entries, skew := skew, code := s4.mem }
  let g := gridOf l s4.nextId die p j q.gen q.head (pktTag d) q.cls (pktIrq d) none
  refuse (!s4.blockFits p k || !budgetOk g || (l.coop && !s4.fitsAtOnce g)) qerrFit 0
  match ({ s4 with nextId := g.id + 1 } : State).putGrid g [] with
  | none => throw (.code qerrFit 0)
  | some s5 =>
    if l.lrec = 0 then return s5
    match s5.hWrite p die l.lrec (s5.lrecBytes g) with
    | .ok s6 => return s6
    | .error .refused => throw (.code qerrPage 0)
    | .error (.page a) => throw (.park true a)

/-! ### Seeds (R379, R380) -/

def seedMix (z : Word) : Word :=
  let z1 := (z ^^^ (z >>> 32)) * 0xB7E15A4D93C26F0B#64
  let z2 := (z1 ^^^ (z1 >>> 29)) * 0x8D2F41C7E95A3B65#64
  z2 ^^^ (z2 >>> 32)

def seedFork (t : Word × Word) (key : Word) : Word × Word :=
  let a := seedMix (t.1 ^^^ key)
  let b := seedMix (t.2 + a)
  (seedMix (a ^^^ b), b)

/-- Push a seed on a queue's stack: at most 16. -/
def State.pushSeed (s : State) (p j : Nat) (x : Word × Word) : Decoded State :=
  if 16 ≤ (s.queue p j).seeds.length then .error (.code qerrSeed 0)
  else .ok (s.modQueue p j fun q => { q with seeds := x :: q.seeds })

/-- Pop a seed: never the last. -/
def State.popSeed (s : State) (p j : Nat) : Decoded State :=
  if (s.queue p j).seeds.length ≤ 1 then .error (.code qerrSeed 0)
  else .ok (s.modQueue p j fun q => { q with seeds := q.seeds.drop 1 })

/-! ### The record of a packet that completes at decode (R369) -/

/-- The packet's record is to be written, once some words' accesses have been performed. -/
def State.packetDone (s : State) (p j : Nat) (d : List Word) (after : List Nat) : State :=
  s.pushRec p j ⟨(s.queue p j).gen, (s.queue p j).head, pktTag d, 0, 0, 0, 0, 0, pktIrq d, after⟩

/-! ### TLBINV (R93, R369) -/

/-- Has an operation still to perform an access, at a place that it has translated: does a word that waits at an object, too? -/
def PendOp.open_ (o : PendOp) : Bool := !o.performed || match o.kind with
  | .ring .. | .send .. | .recv .. | .barWait .. | .futAwait .. => true
  | _ => false

/-- The words of a wave that have still to perform an access: those of its open operations and of the stores that its queue,
its spills and a twin's buffer hold. -/
def Wave.openWords (w : Wave) : List Nat :=
  (w.ops.filter PendOp.open_).map PendOp.id ++ (w.queue ++ w.spills ++ (w.twin.map Twin.buf).getD []).map StoreEnt.op

/-- The words of a partition's waves whose accesses have not all been performed. -/
def State.unperformed (s : State) (p : Nat) : List Nat :=
  (((s.waves.filter fun e => e.2.part = p).map fun e => e.2.openWords).flatten).eraseDups

/-- Is a word still to perform an access? -/
def State.stillOpen (s : State) (id : Nat) : Bool := s.waves.any fun e => e.2.openWords.contains id

/-- Drop a partition's cached translations that overlap a range; length 0 means all. -/
def State.dropTlb (s : State) (p base len : Nat) : State :=
  s.setMsys { s.msys with tlb := s.msys.tlb.filter fun t => !(t.part = p && (len = 0 || overlaps t.page t.size base len)) }

/-! ### GANG (R376 to R378) -/

/-- Fields of a pipe entry. -/
def pipeOf (x : List Word) : Pipe :=
  ⟨bitsOf (dw x 0) 63 61, bitsOf (dw x 0) 60 58, bitsOf (dw x 0) 57 50, bitsOf (dw x 1) 51 9 * 512, bitsOf (dw x 2) 51 9 * 512⟩

/-- A pipe entry malformed in itself, among `n` parts. -/
def pipeBad (n : Nat) (x : List Word) : Bool :=
  let y := pipeOf x
  bitsOf (dw x 0) 49 0 ≠ 0 || y.prod = y.cons || decide (n ≤ y.prod) || decide (n ≤ y.cons) || y.pipe = 0 ||
    bitsOf (dw x 1) 63 52 ≠ 0 || bitsOf (dw x 1) 8 0 ≠ 0 || bitsOf (dw x 2) 63 52 ≠ 0 || bitsOf (dw x 2) 8 0 ≠ 0 || dw x 3 ≠ 0

/-- A part's channel declaration with a pipe number. -/
def Kernel.pipeDecl (k : Kernel) (n : Nat) : Option (Word × Word) := k.decls.find? fun e => declChan e && declPipe e = n

/-- A part entry malformed in itself. -/
def partBad (x : List Word) : Bool :=
  bitsOf (dw x 0) 55 52 ≠ 0 || bitsOf (dw x 0) 5 0 ≠ 0 || dimsBad (dw x 1) || bitsOf (dw x 3) 63 52 ≠ 0 ||
    bitsOf (dw x 3) 5 0 ≠ 0 || dw x 6 ≠ 0 || dw x 7 ≠ 0

def Part.gbase (p : Part) : Nat := bitsOf (sget p.ctx 14) 51 0
def Part.glen (p : Part) : Nat := bitsOf (sget p.ctx 15) 51 0

/-- Check part `i` of a gang (R367, R377): its launch. -/
def State.gangPart (s : State) (p : Nat) (q : Queue) (i : Nat) (x : List Word) (deadline : Word) (die : Nat) :
    Decoded (Launch × State) := do
  let n := bitsOf (dw x 0) 63 59
  refuse (partBad x || !(sget (s.part p).ctx 13).getLsbD n) qerrGang 0
  let kernel := bitsOf (dw x 0) 51 6 * 64
  let r := s.part n
  let s1 ← s.checkCaps n die r.gbase r.glen kernel (64 + 64 * i) (dw x 2) (64 + 64 * i + 16) (bitsOf (dw x 3) 51 6 * 64) (64 + 64 * i + 24)
  let (k, s2) ← s1.dKernel n die kernel
  let l := { launchOf n k (dw x 1) (dw x 2) (dw x 3) (dw x 4) deadline (bitsOf (dw x 0) 58 56) (k.strict || q.strict) true
    (seedFork (q.seeds.headD (0, 0)) (dw x 5)) with code := s2.mem }
  let g := gridOf l 0 die p 0 0 0 0 q.cls false none
  refuse (!s2.blockFits n k || !budgetOk g || !s2.fitsAtOnce g || decide (r.clen die < 256 * k.units)) qerrFit 0
  return (l, s2)

/-- Check the parts of a gang in order. -/
def State.gangParts (s : State) (p : Nat) (q : Queue) (deadline : Word) (die : Nat) :
    Nat → List (List Word) → Decoded (List Launch × State)
  | _, [] => .ok ([], s)
  | i, x :: rest => match s.gangPart p q i x deadline die with
    | .error e => .error e
    | .ok (l, s1) => match State.gangParts s1 p q deadline die (i + 1) rest with
      | .error e => .error e
      | .ok (ls, s2) => .ok (l :: ls, s2)

/-- Check pipe `k` (R377), after those before it. -/
def State.gangPipe (s : State) (parts : List Launch) (before : List Pipe) (k : Nat) (x : List Word) : Decoded Pipe := do
  let y := pipeOf x
  refuse (pipeBad parts.length x || before.any fun z => z.pipe = y.pipe) qerrGang 0
  match parts[y.prod]?, parts[y.cons]? with
  | some a, some b => match a.kern.pipeDecl y.pipe, b.kern.pipeDecl y.pipe with
    | some e, some f =>
      refuse (declLsize e ≠ declLsize f || declLast e ≠ declLast f) qerrGang 0
      refuse (outside (s.part a.part).gbase (s.part a.part).glen y.pbase (declBytes e)) qerrCap (576 + 32 * k + 8)
      refuse (outside (s.part b.part).gbase (s.part b.part).glen y.cbase (declBytes f)) qerrCap (576 + 32 * k + 16)
      return y
    | _, _ => throw (.code qerrGang 0)
  | _, _ => throw (.code qerrGang 0)

def State.gangPipes (s : State) (parts : List Launch) : Nat → List Pipe → List (List Word) → Decoded (List Pipe)
  | _, done, [] => .ok done
  | k, done, x :: rest => match s.gangPipe parts done k x with
    | .error e => .error e
    | .ok y => State.gangPipes s parts (k + 1) (done ++ [y]) rest

/-- Lists of `n` dwords each. -/
def slices (l : List Word) (n : Nat) : Nat → List (List Word)
  | 0 => []
  | k + 1 => l.take n :: slices (l.drop n) n k

/-- The checks of a GANG: it then waits for its reservations (R377). -/
def State.decodeGang (s : State) (p j : Nat) (d : List Word) : Decoded State := do
  let q := s.queue p j
  let die := (s.part p).qdie j
  let a := bitsOf (dw d 1) 51 6 * 64
  let n := bitsOf (dw d 2) 63 60
  let m := bitsOf (dw d 2) 59 56
  refuse (outside q.wbase q.wlen a (64 * n + 32 * m)) qerrCap 8
  let (t, s1) ← s.dRead p die a (8 * n + 4 * m)
  let (parts, s2) ← s1.gangParts p q (dw d 5) die 0 (slices t 8 n)
  let pipes ← s2.gangPipes parts 0 [] (slices (t.drop (8 * n)) 4 m)
  return s2.modQueue p j fun q => { q with gang := parts, pipes := pipes }

/-- The pipes of part `i`, with the memory as its partition addresses it. -/
def pipesOfPart (l : List Pipe) (i : Nat) : List (Nat × Nat) := l.filterMap fun y =>
  if y.prod = i then some (y.pipe, y.pbase) else if y.cons = i then some (y.pipe, y.cbase) else none

/-- The parts of a gang, in the order in which they are reserved: ascending partition, then part. -/
def reserveOrder (parts : List Launch) : List (Nat × Launch) :=
  let l := parts.mapIdx fun i x => (i, x)
  ((List.range 32).map fun p => l.filter fun e => e.2.part = p).flatten

/-- Reserve the parts of a gang: the state with every frame and block of it, and the grids that a block's memory ends, which
does not translate (R321), with that block; none when any does not fit. -/
def State.reserve (s : State) (p j gang tag : Nat) (irq : Bool) : List (Nat × Launch) → Option (State × List (Nat × Nat))
  | [] => some (s, [])
  | (i, l) :: rest =>
    let q := s.queue p j
    let r := s.part l.part
    if r.state ≠ 1 ∨ r.stage ≠ .run then none else
    let g := gridOf l s.nextId ((s.part p).qdie j) p j q.gen q.head tag q.cls irq (some gang)
    match ({ s with nextId := g.id + 1 } : State).putGrid g (pipesOfPart q.pipes i) with
    | none => none
    | some s1 => match s1.placeAll g.id g.total 0 with
      | .ok s2 => State.reserve s2 p j gang tag irq rest
      | .bad idx => (State.reserve s1 p j gang tag irq rest).map fun x => (x.1, (g.id, idx) :: x.2)
      | .full => none

/-- The arbiter's round-robin position of a class moves past a queue whose gang has been committed (R375, R377). -/
def State.gangServed (s : State) (p j : Nat) : State :=
  { s with hw := { s.hw with robin := aset s.hw.robin (robinKey 32 (s.queue p j).cls) (((s.part p).qnum j + 1) % 1024) } }

/-- The parts' launch records at a commit: the first that cannot be written puts the queue in ERROR, or parks it before the
commit (R373). -/
def State.gangRecords (s : State) (p j tag : Nat) : List Launch → Option State
  | [] => none
  | l :: rest =>
    if l.lrec = 0 then State.gangRecords s p j tag rest else
    match s.hWrite l.part ((s.part p).qdie j) l.lrec (List.replicate 64 0) with
    | .ok _ => State.gangRecords s p j tag rest
    | .error .refused => some (s.queueError p j qerrPage 0 tag)
    | .error (.page a) => some (s.parkQueue p j .decode true a)

/-- The state with a queue's waiting gang committed, where every reservation succeeds (R377), or refused or parked by a
launch record that cannot be written. -/
def State.tryGang (s : State) (p j : Nat) : Option State :=
  let q := s.queue p j
  if q.gang.isEmpty || q.st ≠ .active then none else
  let d := s.peek p j
  let die := (s.part p).qdie j
  let zeroed := q.pipes.foldl (fun (s : State) y =>
    (s.zeroVia (q.gang[y.prod]?.map Launch.part |>.getD p) die y.pbase 512).zeroVia (q.gang[y.cons]?.map Launch.part |>.getD p) die y.cbase 512) s
  match ({ zeroed with nextId := s.nextId + 1 } : State).reserve p j s.nextId (pktTag d) (pktIrq d) (reserveOrder q.gang) with
  | none => none
  | some (s1, ends) => match s.gangRecords p j (pktTag d) q.gang with
    | some s2 => some s2
    | none =>
      let s2 := ((s1.modQueue p j fun q => { q with gang := [], pipes := [] }).decoded p j).gangServed p j
      some (ends.foldl (fun (s : State) e => s.endGrid e.1 cFrameExhaust (BitVec.ofNat 64 e.2)) s2)

/-- The gangs that wait: partition, queue, and their place in the order of R375. -/
def State.waitingGangs (s : State) : List (Nat × Nat × List Nat) :=
  (s.parts.map fun e => (e.2.queues.filter fun x => !x.2.gang.isEmpty).map fun x =>
    let dl := ((x.2.gang.head?.map Launch.deadline).getD 0).toNat
    (e.1, x.1, if x.2.cls = 0 then [0, dl, e.2.qnum x.1, x.2.head] 
      else [x.2.cls, (e.2.qnum x.1 + 1024 - (aget s.hw.robin (robinKey 32 x.2.cls)).getD 0) % 1024])).flatten

/-- GANG_RESERVE: the single arbiter commits the first gang, in R375's order, all of whose reservations succeed. -/
def State.reserveGang (s : State) (p j : Nat) : State :=
  let l := s.waitingGangs
  match l.find? fun e => e.1 = p && e.2.1 = j with
  | none => s
  | some me =>
    if l.any fun e => decide (e.2.2 < me.2.2) && (s.tryGang e.1 e.2.1).isSome then s
    else (s.tryGang p j).getD s

/-! ### One decode -/

/-- The effect of a packet whose header and payload are well formed: the state, and whether its record is written at
once, after which words. A GANG's head advances at its commit. -/
def State.packetEffect (s : State) (p j : Nat) (d : List Word) : Decoded State :=
  let next (s : State) : State := s.decoded p j
  let atOnce (after : List Nat) (r : Decoded State) : Decoded State := r.map fun s1 => next (s1.packetDone p j d after)
  match pktType d with
  | 1 => (s.decodeLaunch p j d).map next
  | 2 => s.decodeGang p j d
  | 3 => atOnce [] (s.pushSeed p j (dw d 1, dw d 2))
  | 4 => atOnce [] (s.popSeed p j)
  | 5 => atOnce [] (s.pushSeed p j (seedFork ((s.queue p j).seeds.headD (0, 0)) (dw d 1)))
  | 6 => atOnce (s.unperformed p) (.ok (s.dropTlb p (bitsOf (dw d 1) 51 12 * 4096) (dw d 2).toNat))
  | _ => atOnce [] (.ok s)

/-- The firmware core decodes the packet at the head of the queue, if it is the next to be decoded and of type `want`;
a packet that cannot be read or is malformed has no type (R367, R373, R375). -/
def State.decodePacket (s : State) (p j want : Nat) : State :=
  if s.nextQueue ((s.part p).qnum j % 32) ≠ some (p, j) then s else
  let q := s.queue p j
  match s.hRead p ((s.part p).qdie j) q.packetAt 8 with
  | .error (.page a) => (s.served p j).parkQueue p j .decode false a
  | .error .refused => (s.served p j).queueError p j qerrPage 0 0
  | .ok (d, s1) =>
    let s2 := (s1.served p j).modQueue p j fun q => { q with tag := pktTag d, irq := pktIrq d }
    if packetBad d || payloadBad q.cls d then s2.queueError p j qerrPacket 0 (pktTag d)
    else if pktType d ≠ want then s
    else match s2.packetEffect p j d with
      | .ok s3 => s3
      | .error (.park write a) => s2.parkQueue p j .decode write a
      | .error (.code n offset) => s2.queueError p j n offset (pktTag d)

/-! ### Completion records (R372, R373) -/

/-- The 32 bytes of record `r`, the `i`-th of its queue. -/
def CRec.bytes (r : CRec) (q : Queue) (qnum : Nat) (now : Word) : List Byte :=
  let phase := if q.index / q.cslots % 2 = 0 then 1 else 0
  bytesOfDwords [BitVec.ofNat 64 (r.packet % 2 ^ 32 * 2 ^ 32 + r.tag * 2 ^ 16 + r.kind * 2 ^ 8 + r.status % 256), r.block,
    if r.kind = 1 then r.aux else now, BitVec.ofNat 64 (phase * 2 ^ 63 + r.offset % 1024 * 2 ^ 32 + qnum % 1024)]

/-- The record that is written next: the first whose conditions are met. -/
def State.nextCRec (s : State) (q : Queue) : Option Nat := q.recs.findIdx? fun r => !r.after.any s.stillOpen

/-- COMPLETION_RECORD_WRITE: the first record whose conditions are met is written, if its slot has been consumed. An invalid
entry parks a queue at work, and has a fault record for the write alone in a queue that is not. (Log entry 22, DEDUCED.) -/
def State.writeCRec (s : State) (p j : Nat) : State :=
  let q := s.queue p j
  let waits := (q.st = .parked ∧ q.left = .record) ∨ q.rseq ≠ 0
  match s.nextCRec q with
  | none => s
  | some i => match q.recs[i]? with
    | none => s
    | some r =>
      if q.mute || decide waits || decide (q.cslots ≤ dist32 q.index q.chead) then s else
      let rest := q.recs.eraseIdx i
      let at_ := bitsOf (dw q.kept 2) 51 12 * 4096 + 32 * (q.index % q.cslots)
      match s.hWrite p ((s.part p).qdie j) at_ (r.bytes q ((s.part p).qnum j) s.time.dev) with
      | .ok s1 =>
        let owed := if r.kind = 0 ∧ r.gen = q.gen then q.owed.erase r.packet else q.owed
        let s2 := s1.setQueue p j { q with recs := rest, index := (q.index + 1) % 2 ^ 32, owed := owed }
        if r.irq then s2.interrupt p 0 ((s.part p).qdie j) else s2
      | .error (.page a) =>
        if q.st = .idle ∨ q.st = .active then s.parkQueue p j .record true a
        else if q.st = .parked then s
        else
          let (s1, n) := s.newRec p cPageFault 3 2 ((s.part p).qnum j) a 0 0 (.queue j)
          s1.modQueue p j fun q => { q with rseq := n }
      | .error .refused => (s.setQueue p j { q with recs := rest, mute := true }).queueErrorMute p j qerrPage

/-! ### The events -/

/-- A packet's event. -/
def packetEvent (want : Nat) (s : State) : Host.Outcome State Fault Refusal :=
  event (fun a s => match a with
    | .queue p j => s.decodePacket p j want
    | _ => s) s

/-- LAUNCH (R366, R367). -/
def execLaunch (s : State) : Host.Outcome State Fault Refusal := packetEvent 1 s
/-- GANG (R376, R377). -/
def execGang (s : State) : Host.Outcome State Fault Refusal := packetEvent 2 s
/-- SEED.PUSH (R369, R380). -/
def execSeedPush (s : State) : Host.Outcome State Fault Refusal := packetEvent 3 s
/-- SEED.POP (R369, R380). -/
def execSeedPop (s : State) : Host.Outcome State Fault Refusal := packetEvent 4 s
/-- SEED.FORK (R369, R379, R380). -/
def execSeedFork (s : State) : Host.Outcome State Fault Refusal := packetEvent 5 s
/-- TLBINV (R93, R369). -/
def execTlbinv (s : State) : Host.Outcome State Fault Refusal := packetEvent 6 s
/-- NOP (R369). -/
def execNopPacket (s : State) : Host.Outcome State Fault Refusal := packetEvent 7 s

/-- GANG_RESERVE (R377). -/
def execGangReserve (s : State) : Host.Outcome State Fault Refusal :=
  event (fun a s => match a with
    | .queue p j => s.reserveGang p j
    | _ => s) s

/-- COMPLETION_RECORD_WRITE (R372, R373). -/
def execCompletionRecordWrite (s : State) : Host.Outcome State Fault Refusal :=
  event (fun a s => match a with
    | .queue p j => s.writeCRec p j
    | _ => s) s

/-- QUEUE_ENABLE: cmd 1 (R364). -/
def execQueueEnable (s : State) : Host.Outcome State Fault Refusal :=
  event (fun a s => match a with
    | .queue p j => s.enableQueue p j
    | _ => s) s

/-- QUEUE_DISABLE: cmd 2 (R364). -/
def execQueueDisable (s : State) : Host.Outcome State Fault Refusal :=
  event (fun a s => match a with
    | .queue p j => s.disableQueue p j
    | _ => s) s

/-- QUEUE_RESET: cmd 3 (R364). -/
def execQueueReset (s : State) : Host.Outcome State Fault Refusal :=
  event (fun a s => match a with
    | .queue p j => s.resetQueue p j
    | _ => s) s

/-- DOORBELL_WRITE (R364, R374). -/
def execDoorbellWrite (s : State) : Host.Outcome State Fault Refusal :=
  event (fun a s => match a with
    | .tail p j t => s.doorbell p j t
    | _ => s) s

end Sys2Proof.Machine
end

