-- ==== Sys2Proof/Machine/Memory.lean ====
section
/-!
DEFINITION. The meanings of the load, store, ordered, fence, atomic and reduction words of class MEM (R208 to R224).
-/
namespace Sys2Proof.Machine

/-! ### Addresses of an M word (R210) -/

/-- Each active lane's address, from a vector base or a uniform one. -/
def WCtx.addrs (c : WCtx) (b : Base) (o : OpsG) (n : Nat) : List (Nat × Word) := c.lanes.map fun l =>
  (l, addOff (match b with
    | .v => c.v l o.a
    | .s => c.s o.a) (mOffset o n))

/-- Each active lane's address in an AT word (R215). -/
def WCtx.addrsAT (c : WCtx) (o : OpsAT) : List (Nat × Word) := c.lanes.map fun l => (l, c.v l o.a)

/-- The low bytes of a lane's data register, or of a pair (R211, R212). -/
def WCtx.data (c : WCtx) (d : BitVec 7) (n l : Nat) : List Byte :=
  if n = 16 then bytesOf 8 (c.v l d).toNat ++ bytesOf 8 (c.v l (d + 1)).toNat else bytesOf n (c.v l d).toNat

/-! ### Global loads and stores (R211, R212) -/

/-- May every piece come from L1? Only on pages of attr 0 (R99, R117). -/
def cachedAll (l : List LaneAcc) : Bool := l.all fun a => a.xl.all fun x => x.1.attr = 0

/-- A plain global load of `n` bytes into some registers of each lane. -/
def loadG (i : Instr) (b : Base) (o : OpsG) (n : Nat) (signed : Bool) (dst : List RegName) (s : State) :
    Host.Outcome State Fault Refusal :=
  guarded i (fun c s =>
    c.withParked s aRead (s.checkGlobal c n .load false (fun _ => false) (c.addrs b o n)) fun s ok =>
      c.issueLoad (s.touchAll c.w.part false ok) 0 0 false signed n dst (cachedAll ok)
        ((ok.map fun a => piecesOf a n).flatten)) s

/-- A plain global store of `n` bytes of each lane. -/
def storeG (i : Instr) (b : Base) (o : OpsG) (n : Nat) (s : State) : Host.Outcome State Fault Refusal :=
  guarded i (fun c s =>
    c.withParked s aWrite (s.checkGlobal c n .store false (fun _ => false) (c.addrs b o n)) fun s ok =>
      c.storeLanes s ok fun a => c.data o.d n a.lane) s

/-- LD.G: one register per lane, extended from its bytes (R211). -/
def execLdG (t : MemTy) (b : Base) (o : OpsG) (s : State) : Host.Outcome State Fault Refusal :=
  loadG (.ldG t b o) b o t.bytes t.signed [.v o.d.toNat] s

/-- LD.G.N64.X2: vd and vd+1 as one 16-byte access (R212). -/
def execLdGN64X2 (b : Base) (o : OpsG) (s : State) : Host.Outcome State Fault Refusal :=
  loadG (.ldGN64X2 b o) b o 16 false [.v o.d.toNat, .v (o.d.toNat + 1)] s

/-- ST.G: the low bytes of the data register (R211). -/
def execStG (t : StTy) (b : Base) (o : OpsG) (s : State) : Host.Outcome State Fault Refusal :=
  storeG (.stG t b o) b o t.bytes s

/-- ST.G.N64.X2 (R212). -/
def execStGN64X2 (b : Base) (o : OpsG) (s : State) : Host.Outcome State Fault Refusal :=
  storeG (.stGN64X2 b o) b o 16 s

/-! ### Scratchpad and block window (R100, R211, R212) -/

/-- Where a legal scratchpad offset lies: the core and its local address (R100). -/
def State.windowPlace (s : State) (c : WCtx) (window : Bool) (off n : Nat) : Option (Nat × Nat) :=
  match aget s.blocks c.w.block with
  | none => none
  | some b =>
    let base := (c.w.lreg 143).toNat
    if window then
      if off + n ≤ (c.w.lreg 144).toNat then some (b.cores.getD (off / b.size) 0, base + off % b.size) else none
    else if off + n ≤ b.size then some (c.w.core, base + off) else none

/-- Checks 2, 4, 7 and 8 of R209 over lanes in ascending order, and the places that pass them. -/
def State.checkScratch (s : State) (c : WCtx) (window read : Bool) (n : Nat) (lanes : List (Nat × Word)) :
    Except (Nat × Lanes × Word) (List (Nat × Nat × Nat)) :=
  let xs := lanes.map fun e => (e, s.windowPlace c window e.2.toNat n)
  let bad (code : Nat) (l : List (Nat × Word)) : Except (Nat × Lanes × Word) (List (Nat × Nat × Nat)) :=
    .error (code, lanesOf (l.map Prod.fst), (l.head?.map Prod.snd).getD 0)
  let out := (xs.filter fun e => e.2.isNone).map Prod.fst
  if !out.isEmpty then bad cScratchBounds out else
  let odd := lanes.filter fun e => e.2.toNat % n ≠ 0
  if !odd.isEmpty then bad cMisaligned odd else
  let lock := (xs.filter fun e => match e.2 with
    | some (core, a) => s.locked core true a n
    | none => false).map Prod.fst
  if !lock.isEmpty then bad cRangeLock lock else
  let ecc := (xs.filter fun e => match e.2 with
    | some (core, a) => read && s.eccHit (.scr core a) n
    | none => false).map Prod.fst
  if !ecc.isEmpty then bad cScratchEcc ecc else
  .ok (xs.filterMap fun e => e.2.map fun p => (e.1.1, p.1, p.2))

/-- A load of `n` bytes of the part on the wave's core, or of the whole window. -/
def loadS (i : Instr) (window : Bool) (o : OpsG) (n : Nat) (signed : Bool) (dst : List RegName) (s : State) :
    Host.Outcome State Fault Refusal :=
  guarded i (fun c s => match s.checkScratch c window true n (c.addrs .v o n) with
    | .error (code, lanes, a) => .fault code lanes a
    | .ok l => c.issueLoad s 1 0 false signed n dst false (l.map fun e => ⟨e.1, 0, n, .scr e.2.1 e.2.2, none⟩)) s

/-- A store of `n` bytes into the part on the wave's core, or into the whole window. -/
def storeS (i : Instr) (window : Bool) (o : OpsG) (n : Nat) (s : State) : Host.Outcome State Fault Refusal :=
  guarded i (fun c s => match s.checkScratch c window false n (c.addrs .v o n) with
    | .error (code, lanes, a) => .fault code lanes a
    | .ok l => c.issueStore s (l.map fun e => ⟨e.1, .scr e.2.1 e.2.2, c.data o.d n e.1, none⟩)) s

/-- LD.S (R100, R211). -/
def execLdS (t : MemTy) (o : OpsG) (s : State) : Host.Outcome State Fault Refusal :=
  loadS (.ldS t o) false o t.bytes t.signed [.v o.d.toNat] s

/-- LD.S.N64.X2 (R212). -/
def execLdSN64X2 (o : OpsG) (s : State) : Host.Outcome State Fault Refusal :=
  loadS (.ldSN64X2 o) false o 16 false [.v o.d.toNat, .v (o.d.toNat + 1)] s

/-- ST.S (R100, R211). -/
def execStS (t : StTy) (o : OpsG) (s : State) : Host.Outcome State Fault Refusal := storeS (.stS t o) false o t.bytes s

/-- ST.S.N64.X2 (R212). -/
def execStSN64X2 (o : OpsG) (s : State) : Host.Outcome State Fault Refusal := storeS (.stSN64X2 o) false o 16 s

/-- LD.R.N64: the block window, on whichever core it lies (R100). -/
def execLdRN64 (o : OpsG) (s : State) : Host.Outcome State Fault Refusal :=
  loadS (.ldRN64 o) true o 8 false [.v o.d.toNat] s

/-- LD.R.N64.X2 (R212). -/
def execLdRN64X2 (o : OpsG) (s : State) : Host.Outcome State Fault Refusal :=
  loadS (.ldRN64X2 o) true o 16 false [.v o.d.toNat, .v (o.d.toNat + 1)] s

/-- ST.R.N64 (R100). -/
def execStRN64 (o : OpsG) (s : State) : Host.Outcome State Fault Refusal := storeS (.stRN64 o) true o 8 s

/-- ST.R.N64.X2 (R212). -/
def execStRN64X2 (o : OpsG) (s : State) : Host.Outcome State Fault Refusal := storeS (.stRN64X2 o) true o 16 s

/-! ### Uniform loads and stores (R214) -/

/-- A uniform access: one address for the path, whose faults concern the whole path. -/
def WCtx.uniform (c : WCtx) (s : State) (access : Nat) (acc : Acc) (a : Word) (body : State → LaneAcc → Res) : Res :=
  match s.checkGlobal c 8 acc false (fun _ => false) [(0, a)] with
  | .fault code _ addr => .fault code c.act addr
  | .go [l] _ _ => body s l
  | .go _ _ addr => c.parkAll s access addr

/-- ULD (R214). -/
def execUld (o : OpsG) (s : State) : Host.Outcome State Fault Refusal :=
  guarded (.uld o) (fun c s => c.uniform s aRead .load (addOff (c.s o.a) (mOffset o 8)) fun s l =>
    c.issueLoad (s.touchAll c.w.part false [l]) 0 0 false false 8 [.s o.d.toNat] (cachedAll [l]) (piecesOf l 8)) s

/-- UST (R214). -/
def execUst (o : OpsG) (s : State) : Host.Outcome State Fault Refusal :=
  guarded (.ust o) (fun c s => c.uniform s aWrite .store (addOff (c.s o.a) (mOffset o 8)) fun s l =>
    c.storeLanes s [l] fun _ => bytesOf 8 (c.s o.d).toNat) s

/-! ### Ordered accesses and fences (R215 to R217) -/

/-- The scope checks of an ordered word: strict mode refuses .dev and .sys (order 1), and host or Cinch memory takes
.sys alone (order 5) (R222). -/
def WCtx.scopeBad (c : WCtx) (ordered : Bool) (sc : Scope) : Bool := c.w.strict && ordered && sc.wide
def regionBad (ordered : Bool) (sc : Scope) (x : Xlat) : Bool := ordered && sc ≠ .sys && portMem x.pa

/-- How a word acquires: not, at .wave, or at .blk or wider (R113, R117). -/
def acquireOf (acq : Bool) (sc : Scope) : Nat := if !acq then 0 else if sc.atBlk then 2 else 1

/-- LDO (R216). -/
def execLdo (t : NW) (o : OpsAT) (s : State) : Host.Outcome State Fault Refusal :=
  guarded (.ldo t o) (fun c s =>
    let acq := o.order.acquires
    if c.scopeBad acq o.scope then .fault cAtomicScope c.act ((c.addrsAT o).headD (0, 0)).2 else
    c.withParked s aRead (s.checkGlobal c t.bytes .ldo true (regionBad acq o.scope) (c.addrsAT o)) fun s ok =>
      c.issueLoad (s.touchAll c.w.part false ok) 0 (acquireOf acq o.scope) acq false t.bytes [.v o.d.toNat] false
        ((ok.map fun a => piecesOf a t.bytes).flatten)) s

/-- The steps of an atomic word, a lane each, in ascending order. -/
def stepsOf (ok : List LaneAcc) (x y : Nat → Word) : List AtomStep :=
  ok.map fun a => ⟨a.lane, placeOf a.xl 0, x a.lane, y a.lane⟩

/-- How a word releases: not, at a scope within its die, or at .dev or .sys (R112). -/
def releaseOf (rel : Bool) (sc : Scope) : Nat := if !rel then 0 else if sc.wide then 2 else 1

/-- STO: a relaxed one enters the store queue; a release one is performed after it has emptied (R216). -/
def execSto (t : NW) (o : OpsAT) (s : State) : Host.Outcome State Fault Refusal :=
  guarded (.sto t o) (fun c s =>
    let rel := o.order.releases
    if c.scopeBad rel o.scope then .fault cAtomicScope c.act ((c.addrsAT o).headD (0, 0)).2 else
    c.withParked s aWrite (s.checkGlobal c t.bytes .ldo true (regionBad rel o.scope) (c.addrsAT o)) fun s ok =>
      if rel then
        let todo := stepsOf ok (fun l => c.v l o.d) fun _ => 0
        .ok (((s.touchAll c.w.part true ok).touchSteps c.w.id t.bytes todo).addOp c (some 2) c.act 0 true
          (.sto t.bytes todo) [] [] (releaseOf true o.scope))
      else c.storeLanes s ok fun a => c.data o.d t.bytes a.lane) s

/-- FENCE: performed when the wave has drained, and at .dev or .sys its die's ports, if it releases; an acquire or sc
kind at .blk or wider is an acquire (R217). -/
def execFence (o : OpsN) (s : State) : Host.Outcome State Fault Refusal :=
  guarded (.fence o) (fun c s =>
    let rel := o.imm.toNat / 4 % 4 ≠ 0
    if !c.mayRelease s (rel && decide (2 ≤ o.imm.toNat % 4)) then .hold else
    let s1 := if rel then s.publish c.w.id c.act else s
    .ok (if o.imm.toNat / 4 % 4 ≠ 1 && o.imm.toNat % 4 ≠ 0 then s1.acquire c.w else s1)) s

/-- FENCE.SC.SYS: it also waits for its die's ports to have delivered every write (R120, R217). -/
def execFenceScSys (o : OpsN) (s : State) : Host.Outcome State Fault Refusal :=
  guarded (.fenceScSys o) (fun c s =>
    if !c.mayRelease s true then .hold else .ok ((s.publish c.w.id c.act).acquire c.w)) s

/-! ### Atomics (R218 to R222) -/

/-- An atomic word: its steps are performed at the home slices, and it returns the old values. -/
def atomic (i : Instr) (o : OpsAT) (f : AtomFn) (n : Nat) (y : WCtx → Nat → Word) (s : State) :
    Host.Outcome State Fault Refusal :=
  guarded i (fun c s =>
    if c.scopeBad true o.scope then .fault cAtomicScope c.act ((c.addrsAT o).headD (0, 0)).2 else
    c.withParked s aAtomic (s.checkGlobal c n .atomic true (regionBad true o.scope) (c.addrsAT o)) fun s ok =>
      let todo := stepsOf ok (fun l => c.v l o.d) (y c)
      .ok (((s.touchAll c.w.part true ok).touchSteps c.w.id n todo).addOp c (some 2) c.act
        (acquireOf o.order.acquires o.scope) true (.atomic f n (.v o.d.toNat) todo) [.v o.d.toNat] []
        (releaseOf o.order.releases o.scope))) s

/-- ATOM.ADD (R218, R219). -/
def execAtomAdd (t : AddTy) (o : OpsAT) (s : State) : Host.Outcome State Fault Refusal :=
  atomic (.atomAdd t o) o (match t with | .f32 => .addF32 | _ => .add) (match t with | .n64 => 8 | _ => 4) (fun _ _ => 0) s

/-- ATOM.MIN (R218). -/
def execAtomMin (t : Sgn) (o : OpsAT) (s : State) : Host.Outcome State Fault Refusal :=
  atomic (.atomMin t o) o (match t with | .i => .minI | .n => .minN) 8 (fun _ _ => 0) s

/-- ATOM.MAX (R218). -/
def execAtomMax (t : Sgn) (o : OpsAT) (s : State) : Host.Outcome State Fault Refusal :=
  atomic (.atomMax t o) o (match t with | .i => .maxI | .n => .maxN) 8 (fun _ _ => 0) s

/-- ATOM.MAXIX: the larger key (R218, R219, R68). -/
def execAtomMaxix (o : OpsAT) (s : State) : Host.Outcome State Fault Refusal :=
  atomic (.atomMaxix o) o .maxN 8 (fun _ _ => 0) s

/-- ATOM.AND (R218). -/
def execAtomAnd (o : OpsAT) (s : State) : Host.Outcome State Fault Refusal := atomic (.atomAnd o) o .and 8 (fun _ _ => 0) s

/-- ATOM.OR (R218). -/
def execAtomOr (o : OpsAT) (s : State) : Host.Outcome State Fault Refusal := atomic (.atomOr o) o .or 8 (fun _ _ => 0) s

/-- ATOM.XOR (R218). -/
def execAtomXor (o : OpsAT) (s : State) : Host.Outcome State Fault Refusal := atomic (.atomXor o) o .xor 8 (fun _ _ => 0) s

/-- ATOM.XCHG (R218). -/
def execAtomXchg (o : OpsAT) (s : State) : Host.Outcome State Fault Refusal := atomic (.atomXchg o) o .xchg 8 (fun _ _ => 0) s

/-- CAS: vd is expected and vd+1 is new (R220). -/
def execCas (t : NW) (o : OpsAT) (s : State) : Host.Outcome State Fault Refusal :=
  atomic (.cas t o) o .cas t.bytes (fun c l => c.v l (o.d + 1)) s

/-! ### Slice reductions (R223, R224) -/

/-- Does the wave's generation wait for a window to be applied? Generations are compared modulo 16 (R224). -/
def State.genWaits (s : State) (w : Wave) : Bool :=
  w.strict && match aget s.grids w.grid with
  | some g => decide (g.applied + 16 ≤ w.redGen)
  | none => false

/-- A contribution of each lane (R223). -/
def reduce (i : Instr) (o : OpsAT) (f32 : Bool) (s : State) : Host.Outcome State Fault Refusal :=
  guarded i (fun c s =>
    let n := if f32 then 4 else 8
    if s.genWaits c.w then .hold else
    c.withParked s aAtomic (s.checkGlobal c n .atomic true (fun x => portMem x.pa) (c.addrsAT o)) fun s ok =>
      let todo := stepsOf ok (fun l => c.v l o.d) fun _ => 0
      let win := if c.w.strict then some (c.w.redGen, c.w.redCnt) else none
      let s1 := ((s.touchAll c.w.part true ok).touchSteps c.w.id n todo).addOp c (some 2) c.act 0 true (.red f32 win todo) []
      .ok (s1.modWave c.w.id fun w => { w with redCnt := w.redCnt + 1 })) s

/-- RED.ADD.F32 (R223). -/
def execRedAddF32 (o : OpsAT) (s : State) : Host.Outcome State Fault Refusal := reduce (.redAddF32 o) o true s

/-- RED.ADD.N64 (R223). -/
def execRedAddN64 (o : OpsAT) (s : State) : Host.Outcome State Fault Refusal := reduce (.redAddN64 o) o false s

/-- RED.FLUSH: it completes when the wave's earlier contributions are in; in strict mode it closes the window (R224). -/
def execRedFlush (o : OpsG) (s : State) : Host.Outcome State Fault Refusal :=
  guarded (.redFlush o) (fun c s =>
    if s.genWaits c.w then .hold else
    let s1 := s.addOp c (some 2) c.act 0 false .redFlush []
    .ok (if c.w.strict then s1.modWave c.w.id fun w => { w with redGen := w.redGen + 1, redCnt := 0 } else s1)) s

end Sys2Proof.Machine
end

