-- ==== Sys2Proof/Machine/Rings.lean ====
section
/-!
DEFINITION. The meanings of the ring and channel words (R225 to R234) and of the counted-barrier words (R182 to R187).
-/
namespace Sys2Proof.Machine

/-! ### Rings -/

/-- The table index a word names (R226). -/
def ringIdx (o : OpsG) : Nat := match o.lit with
  | some l => l.toNat
  | none => o.b.toNat

/-- A wave's step on an entry of its ring table, checked in the order of R209: the entry's scope in strict mode, refusals
of table and ring memory, malformed entries and states, the range locks over the first 512 bytes of ring memory and over
the slot the step names, if it compares one, uncorrectable reads of ring memory, and invalid entries. The step itself waits for what the thread has pending
there (R113, R226). (Log entry 16, DEDUCED; log entry 17, DEDUCED.) -/
def WCtx.ringStep {α : Type} (c : WCtx) (s : State) (o : OpsG) (chan : Bool) (step : State → Ring → Except ObjErr α)
    (slot : State → Ring → Option Nat) (f : Ring → α → Res) : Res :=
  let table := BitVec.ofNat 64 c.w.rings
  if c.w.strict && !chan && s.ringDev c.w.part c.w.die table (ringIdx o) then
    .fault cAtomicScope c.act (table + BitVec.ofNat 64 (16 + 16 * ringIdx o)) else
  c.ofObj s (s.ring c.w.part c.w.die table (ringIdx o) chan) fun x =>
    let locked := x.2.locked c.w.core false x.1.base 512 ||
      (slot x.2 x.1).any fun i => x.2.locked c.w.core false (x.1.slotAddr i) (2 ^ x.1.lsize)
    match step x.2 x.1 with
    | .error (.bad code a) =>
      if code = cScratchEcc && locked then .fault cRangeLock c.act (BitVec.ofNat 64 x.1.base) else .fault code c.act a
    | r =>
      if locked then .fault cRangeLock c.act (BitVec.ofNat 64 x.1.base)
      else if c.ownPending s table 8 || c.ownPending s x.1.ent 16 || c.ownPending s (BitVec.ofNat 64 x.1.base) 512 then .hold
      else c.ofObj s r (f x.1)

/-- The slot of the next count of a ring's counter, while its memory can be reached. -/
def State.nextSlot (s : State) (p which : Nat) (r : Ring) : Option Nat := match s.ringMem p r with
  | .ok x => some ((s.dword (x.pa + which)).toNat % r.slots)
  | .error _ => none

/-- The core's copies of an object's bytes go with a step of one of its waves on it (R108). -/
def WCtx.seen (c : WCtx) (s : State) (pa n : Nat) : State := s.l1Drop c.w.core pa n

/-- Wait for a slot's state and phase, then give its address: at once when it stands so (R227, R229). -/
def WCtx.awaitSlot (c : WCtx) (s0 : State) (d : BitVec 7) (full : Bool) (r : Ring) (x : Nat × Bool × Nat × State) : Res :=
  let (i, ph, pa, s) := x
  if s.slotIs pa i full ph && !s.waiterBefore (pa + 64 + i) s.nextId then
    .ok ((s.acquire c.w).answerWith c (.s d.toNat) [(0, BitVec.ofNat 64 (r.slotAddr i))])
  else
    .ok (c.blocks s0 (s.addOp c (some 4) c.act 2 false
      (.ring (pa + 64 + i) full ph (.s d.toNat) (r.slotAddr i) true) [.s d.toNat]))

/-- RING.CLAIM: the next count is taken at issue (R227). -/
def execRingClaim (o : OpsG) (s : State) : Host.Outcome State Fault Refusal :=
  guarded (.ringClaim o) (fun c s =>
    c.ringStep s o false (fun s r => s.ringCount c.w.part r 0) (fun _ _ => none) fun r x => c.awaitSlot s o.d false r x) s

/-- A consumer's own sequence number names slot and phase (R229). -/
def State.ringLook (s : State) (p : Nat) (r : Ring) (k : Word) : Except ObjErr (Nat × Bool × Nat × State) :=
  match s.ringMem p r with
  | .error e => .error e
  | .ok x =>
    let i := k.toNat % r.slots
    if s.slotSpoiled x.pa i then .error (.bad cScratchEcc r.ent)
    else if !byteOk (s.slotByte x.pa i) then .error (.bad cRingState r.ent)
    else .ok (i, k.toNat / r.slots % 2 = 1, x.pa, s.touch p x true)

/-- RING.AWAIT (R229). -/
def execRingAwait (o : OpsG) (s : State) : Host.Outcome State Fault Refusal :=
  guarded (.ringAwait o) (fun c s =>
    c.ringStep s o false (fun s r => s.ringLook c.w.part r (c.s o.a)) (fun _ _ => none) fun r x => c.awaitSlot s o.d true r x) s

/-- A release step on a ring's slot: one of a .dev ring waits for the die's ports (R112, R120). -/
def WCtx.released (c : WCtx) (s : State) (r : Ring) (slot : Word) (s1 : State) : Res :=
  if !c.mayRelease s r.dev then .hold else
  let s2 := s1.publish c.w.id c.act
  .ok ((match s2.ringMem c.w.part r with
    | .ok x => c.seen s2 (x.pa + 64 + (r.slotOf slot).getD 0) 1
    | .error _ => s2).answer c)

/-- RING.POST: a release, once the wave has drained (R228). -/
def execRingPost (o : OpsG) (s : State) : Host.Outcome State Fault Refusal :=
  guarded (.ringPost o) (fun c s =>
    if !c.w.drained then .hold else
    c.ringStep s o false (fun s r => s.ringPost c.w.part r (c.s o.a)) (fun _ _ => none) fun r s1 => c.released s r (c.s o.a) s1) s

/-- RING.REL: a release (R230). -/
def execRingRel (o : OpsG) (s : State) : Host.Outcome State Fault Refusal :=
  guarded (.ringRel o) (fun c s =>
    if !c.w.drained then .hold else
    c.ringStep s o false (fun s r => s.ringRel c.w.part r (c.s o.a)) (fun _ _ => none) fun r s1 => c.released s r (c.s o.a) s1) s

/-! ### Channels (R231, R232) -/

/-- Take the next count of a channel whose slots hold the wave's message, and find the slot's place; refusals go before
states, and states before invalid entries (R209). -/
def State.chanCount (s : State) (p W : Nat) (r : Ring) (which : Nat) : Except ObjErr (Nat × Bool × Nat × Nat × State) :=
  let slot := match s.ringMem p r with
    | .ok x => s.objXlat p (BitVec.ofNat 64 (r.slotAddr ((s.dword (x.pa + which)).toNat % r.slots))) .atomic
    | .error e => .error e
  match refusedFirst slot (decide (2 ^ r.lsize < 8 * W)) (.bad cRingState r.ent), s.ringCount p r which with
  | .error (.bad code a), _ => .error (.bad code a)
  | _, .error e => .error e
  | .error e, _ => .error e
  | .ok x, .ok (i, ph, pa, s1) => .ok (i, ph, pa, x.pa, s1.touch p x true)

/-- A SEND's step: the message, how many lanes it has, then the full bit (R231, R397). -/
def State.sendStep (s : State) (byte : Nat) (phase : Bool) (slot : Nat) (msg : List Byte) : State :=
  let s1 := s.setBytes (.glob slot) msg
  (s1.setMsys { s1.msys with sent := aset s1.msys.sent slot (msg.length / 8) }).setBytes (.glob byte) [mkByte true phase]

/-- A RECV's step: the slot empties and its phase flips (R232). -/
def State.recvStep (s : State) (byte : Nat) (phase : Bool) : State := s.setBytes (.glob byte) [mkByte false (!phase)]

/-- A message's dwords in a slot: zeros for lanes that its sender has not (R232). -/
def State.message (s : State) (slot : Nat) (lanes : Lanes) : List (Nat × Word) :=
  (laneList lanes).map fun l => (l, if (aget s.msys.sent slot).all fun n => decide (l < n) then s.dword (slot + 8 * l) else 0)

/-- Does a RECV's read of a message meet a poisoned sector (R418)? -/
def State.messageSpoiled (s : State) (slot : Nat) (lanes : Lanes) : Bool :=
  (laneList lanes).any fun l => s.poisoned (.glob (slot + 8 * l)) 8

/-- SEND: one register per lane, 0 in lanes not active; a release at .dev (R231). -/
def execSend (o : OpsG) (s : State) : Host.Outcome State Fault Refusal :=
  guarded (.send o) (fun c s =>
    if !c.w.drained then .hold else
    c.ringStep s o true (fun s r => s.chanCount c.w.part c.w.width r 0) (fun s r => s.nextSlot c.w.part 0 r) fun _ x =>
      if !c.mayRelease s true then .hold else
      let (i, ph, pa, slot, s1) := x
      let msg := bytesOfDwords ((List.range c.w.width).map fun l => if inLanes c.act l then c.v l o.a else 0)
      let s2 := s1.publish c.w.id c.act
      if s2.slotIs pa i false ph && !s2.waiterBefore (pa + 64 + i) s2.nextId then
        .ok ((c.seen (c.seen (s2.sendStep (pa + 64 + i) ph slot msg) slot 512) pa 512).answer c)
      else .ok (c.blocks s ((c.seen s2 pa 8).addOp c (some 4) c.act 0 false (.send (pa + 64 + i) ph slot msg) []))) s

/-- RECV: the next message, an acquire and then a release of the slot (R232). -/
def execRecv (o : OpsG) (s : State) : Host.Outcome State Fault Refusal :=
  guarded (.recv o) (fun c s =>
    if !c.w.drained then .hold else
    c.ringStep s o true (fun s r => s.chanCount c.w.part c.w.width r 8) (fun s r => s.nextSlot c.w.part 8 r) fun _ x =>
      if !c.mayRelease s true then .hold else
      let (i, ph, pa, slot, s1) := x
      let s2 := s1.publish c.w.id c.act
      if s2.slotIs pa i true ph && !s2.waiterBefore (pa + 64 + i) s2.nextId then
        if s2.messageSpoiled slot c.act then .fault cScratchEcc c.act 0 else
        .ok (((s2.recvStep (pa + 64 + i) ph).acquire c.w).answerWith c (.v o.d.toNat) (s2.message slot c.act))
      else .ok (c.blocks s (s2.addOp c (some 4) c.act 2 false (.recv (pa + 64 + i) ph slot (.v o.d.toNat)) [.v o.d.toNat]))) s

/-! ### Counted barriers (R183 to R187) -/

/-- A wave's operation on a barrier: the checks of R209, then the step (R183, R187). -/
def WCtx.barOp (c : WCtx) (s : State) (a : Word) (op : BarOp) (f : Bool → State → Res) : Res :=
  match s.checkObj c a 16 16 with
  | .fault code => .fault code c.act a
  | .page => c.parkAll s aAtomic a
  | .ok o =>
    if c.ownPending s a 16 then .hold else
    c.ofObj s (s.barrier c.w.part c.w.strict a op) fun x => f x.1 (c.seen x.2 o.pa 16)

/-- BAR.ARRIVE: a release, then the phase it counted in (R184). -/
def execBarArrive (o : OpsG) (s : State) : Host.Outcome State Fault Refusal :=
  guarded (.barArrive o) (fun c s =>
    if !c.w.drained then .hold else
    c.barOp s (c.s o.a) .arrive fun ph s1 =>
      if !c.mayRelease s (s.barDev c.w.part (c.s o.a)) then .hold
      else .ok ((s1.publish c.w.id c.act).answerWith c (.s o.d.toNat) [(0, boolW ph)])) s

/-- BAR.WAIT: the path waits until the phase differs from the token (R185). -/
def execBarWait (o : OpsG) (s : State) : Host.Outcome State Fault Refusal :=
  guarded (.barWait o) (fun c s =>
    let tok := (c.s o.b).getLsbD 0
    if c.p.handler then .ok (doubleFault s c.w) else
    c.barOp s (c.s o.a) .look fun ph s1 =>
      if ph != tok then .ok (s1.acquire c.w)
      else match s1.objXlat c.w.part (c.s o.a) .atomic with
        | .ok x => .ok (c.blocks s (s1.addOp c none c.act 2 false (.barWait x.pa tok) []))
        | .error _ => .hold) s

/-- BAR.EXPECT: bytes announced; an amount of 2^35 or more raises RING_STATE (R186). -/
def execBarExpect (o : OpsG) (s : State) : Host.Outcome State Fault Refusal :=
  guarded (.barExpect o) (fun c s =>
    let n := match o.lit with
      | some l => l.toNat
      | none => (c.s o.b).toNat
    c.barOp s (c.s o.a) (.pend n) fun _ s1 =>
      if 2 ^ 35 ≤ n then .fault cRingState c.act (c.s o.a) else .ok (s1.answer c)) s

end Sys2Proof.Machine
end

