-- ==== Sys2Proof/Machine/Tree.lean ====
section
/-!
DEFINITION. The meanings of the Tree words: nested launches (R341), frame accesses (R342, R350), MOVD (R343), futures
(R344 to R346) and continuations (R347, R348).
-/
namespace Sys2Proof.Machine

/-! ### Nested launches (R325, R326, R341) -/

/-- How the three forms differ. -/
inductive NForm where
  | plain | seq | det
deriving DecidableEq, Repr

/-- A malformed launch descriptor (R325, R341). -/
def descBad (d : List Word) : Bool :=
  bitsOf (dw d 0) 63 52 ≠ 0 || bitsOf (dw d 0) 5 0 ≠ 0 || bitsOf (dw d 1) 63 32 = 0 || bitsOf (dw d 1) 31 16 = 0 ||
  bitsOf (dw d 1) 15 0 = 0 || bitsOf (dw d 3) 63 52 ≠ 0 || bitsOf (dw d 3) 2 0 ≠ 0 || bitsOf (dw d 5) 63 8 ≠ 0 ||
  bitsOf (dw d 5) 1 0 ≠ 0 || dw d 6 ≠ 0 || dw d 7 ≠ 0

/-- The grid a descriptor asks for, launched by a wave of grid `g` (R323, R326, R330, R341, R380); its code is what
memory holds at the launch. (Log entry 10, DESIGN CHOICE.) -/
def childGrid (s : State) (w : Wave) (g : Grid) (d : List Word) (k : Kernel) (f : NForm) : Grid :=
  let det := decide (f = .det)
  let prio := bitsOf (dw d 5) 6 4
  { id := s.nextId, part := w.part, kern := k
    gx := bitsOf (dw d 1) 63 32, gy := bitsOf (dw d 1) 31 16, gz := bitsOf (dw d 1) 15 0
    args := dw d 2, lrec := 0, frame := 0, die := g.die, dsp := childDisplay w.dsp w.level k.level
    parent := if det then none else some g.id
    launcher := some g.id, up := if det then 0 else g.frame, origin := some w.block, within := some (s.domain g.id)
    root := det || ((dw d 5).getLsbD 3 && (dw d 5).getLsbD 2)
    detach := det, strict := g.strict || k.strict, coop := false
    prio := if (dw d 5).getLsbD 7 then min prio g.prio else g.prio
    budget := bitsOf (dw d 4) 63 32, maxblk := bitsOf (dw d 4) 31 0
    used := k.units, blocks := 0, kids := 0, hold := 1, cfut := bitsOf (dw d 3) 51 3 * 8
    qpart := g.qpart, queue := g.queue, qgen := g.qgen, packet := g.packet, tag := g.tag, irq := false, gang := none
    cls := g.cls, deadline := g.deadline, seed := (w.lreg 150, w.lreg 151), place := [], skew := 0, fin := []
    rings := [], st := .queued, next := [], done := 0, tstart := 0, tend := 0, start := none, fault := none, gfault := none, quiet := false
    after := if f = .seq then (s.grids.filter fun e => e.2.launcher = some g.id && !e.2.ended).map Prod.fst else []
    saves := [], applied := 0, code := some s.mem, own := [], ended := false }

/-- The grids whose frames a new grid's display names below its level (R328). -/
def State.namedGrids (s : State) (p : Nat) (h : Grid) : List Nat := h.heldFrames.filterMap fun F => s.frameGrid p F

/-- Do the limits of R326 and R328 let the grid start: chain depth, budgets and hold counts? -/
def State.withinLimits (s : State) (h : Grid) : Bool :=
  let chain := match h.parent with
    | some g => s.chain g
    | none => []
  let fitsBudget (b u : Nat) : Bool := b = 0 || decide (u ≤ b)
  decide (chain.length < 64) && fitsBudget h.budget h.kern.units &&
  (chain.all fun a => (aget s.grids a).all fun x => fitsBudget x.budget (x.used + h.kern.units)) &&
  (s.namedGrids h.part h).all fun a => (aget s.grids a).all fun x => decide (x.hold + 1 < 2 ^ 24)

/-- Charge the chain, count the child and raise the holds of a grid just put into the state (R326, R328, R341). -/
def State.chargeLaunch (s : State) (h : Grid) : State :=
  let s1 := match h.parent with
    | none => s
    | some g =>
      let s1 := (s.chain g).foldl (fun (s : State) a => s.modFrame a fun x => { x with used := x.used + h.kern.units }) s
      s1.modFrame g fun x => { x with kids := x.kids + 1 }
  (s1.namedGrids h.part h).foldl (fun (s : State) a => s.modFrame a fun x => { x with hold := x.hold + 1 }) s1

/-- Launch a nested grid: its frame's base, or none when a limit is hit. -/
def State.launchChild (s : State) (h : Grid) : Option (Nat × State) :=
  if !s.blockFits h.part h.kern || !s.withinLimits h then none else
  match ({ s with nextId := s.nextId + 1 } : State).putGrid h [] with
  | none => none
  | some s1 => some (((aget s1.grids h.id).map Grid.frame).getD 0, s1.chargeLaunch h)

/-- NLAUNCH in its three forms (R341): the checks of R209 on the descriptor, then the launch's own; a release at .dev,
and the path waits until sd is written. (Log entry 17, DEDUCED.) -/
def nlaunch (i : Instr) (f : NForm) (o : OpsG) (s : State) : Host.Outcome State Fault Refusal :=
  guarded i (fun c s =>
    if !c.mayRelease s true then .hold else
    let a := c.s o.a
    match s.checkObj c a 64 64 with
    | .fault code => .fault code c.act a
    | .page => c.parkAll s aAtomic a
    | .ok _ => match s.readDwords c.w.part c.w.die a 8 .atomic, aget s.grids c.w.grid with
      | .ok (d, s1), some g =>
        if descBad d then .fault cFrameLevel c.act a else
        match s1.readKernel c.w.part c.w.die (bitsOf (dw d 0) 51 6 * 64) .atomic with
        | .error (.page k) => c.parkAll s aAtomic k
        | .error (.rights k) => .fault cAccessRights c.act k
        | .error (.poison k) => .fault cScratchEcc c.act k
        | .error .malformed => .fault cFrameLevel c.act a
        | .ok (k, s2) => match s2.launchChild (childGrid s2 c.w g d k f) with
          | none => .fault cFrameExhaust c.act a
          | some (frame, s3) => .ok (((s3.publish c.w.id c.act).answerWith c (.s o.d.toNat) [(0, BitVec.ofNat 64 frame)]).pathWaits c)
      | .error (.poison k), _ => .fault cScratchEcc c.act k
      | _, _ => .hold) s

/-- NLAUNCH (R341). -/
def execNlaunch (o : OpsG) (s : State) : Host.Outcome State Fault Refusal := nlaunch (.nlaunch o) .plain o s
/-- NLAUNCH.SEQ: it starts when its earlier siblings have completed (R330, R341). -/
def execNlaunchSeq (o : OpsG) (s : State) : Host.Outcome State Fault Refusal := nlaunch (.nlaunchSeq o) .seq o s
/-- NLAUNCH.DET: its own chain and fault domain (R326, R341). -/
def execNlaunchDet (o : OpsG) (s : State) : Host.Outcome State Fault Refusal := nlaunch (.nlaunchDet o) .det o s

/-! ### Frame accesses (R324, R342, R350) -/

/-- The byte offset of an F word. -/
def frameOff (o : OpsF) : Nat := match o.lit with
  | some l => l.toNat
  | none => 8 * o.off.toNat

/-- The address a frame word names, or none for FRAME_LEVEL (R324): the level is linked and no deeper than the
wave's, and the word lies in the frame's data. (Log entry 34, DESIGN CHOICE.) -/
def State.frameAddr (s : State) (w : Wave) (k o : Nat) : Option Word :=
  let F := sget w.dsp k
  if w.level < k || F = 0 then none else
  match (s.frameGrid w.part F.toNat).bind (aget s.grids) with
  | some g => if o + 8 ≤ g.kern.frame then some (F + BitVec.ofNat 64 (256 + o)) else none
  | none => none

/-- An access to a frame word by every active lane: the scope check of ATOMF, the frame check, then R209's.
(Log entry 17, DEDUCED.) -/
def WCtx.frameWord (c : WCtx) (s : State) (o : OpsF) (scopeBad : Bool) (access : Nat) (acc : Acc)
    (body : State → List LaneAcc → Res) : Res :=
  let off := frameOff o
  let k := o.level.toNat
  if scopeBad then .fault cAtomicScope c.act (sget c.w.dsp k + BitVec.ofNat 64 (256 + off)) else
  match s.frameAddr c.w k off with
  | none => .fault cFrameLevel c.act (BitVec.ofNat 64 off)
  | some a => c.withParked s access (s.checkGlobal c 8 acc true (fun _ => false) (c.lanes.map fun l => (l, a))) body

/-- LDF: every active lane reads the word (R342). -/
def execLdf (o : OpsF) (s : State) : Host.Outcome State Fault Refusal :=
  guarded (.ldf o) (fun c s => c.frameWord s o false aRead .load fun s ok =>
    c.issueLoad (s.touchAll c.w.part false ok) 5 0 false false 8 [.v o.d.toNat] (cachedAll ok)
      ((ok.map fun a => piecesOf a 8).flatten)) s

/-- STF: lanes in ascending order (R342). -/
def execStf (o : OpsF) (s : State) : Host.Outcome State Fault Refusal :=
  guarded (.stf o) (fun c s => c.frameWord s o false aWrite .store fun s ok =>
    c.storeLanes s ok (fun a => c.data o.d 8 a.lane) 5) s

/-- ATOMF: the two halves add apart, one step a lane, acquire-release at .dev (R338, R342). Its steps wait for its release:
the word is pending with release 2. -/
def execAtomf (o : OpsF) (s : State) : Host.Outcome State Fault Refusal :=
  guarded (.atomf o) (fun c s => c.frameWord s o c.w.strict aAtomic .atomic fun s ok =>
    let todo := stepsOf ok (fun l => c.v l o.d) fun _ => 0
    .ok (((s.touchAll c.w.part true ok).touchSteps c.w.id 8 todo).addOp c (some 5) c.act 2 true
      (.atomic .addHalves 8 (.v o.d.toNat) todo) [.v o.d.toNat] [] 2)) s

/-- MOVD: a display register (R343). -/
def execMovd (o : OpsG) (s : State) : Host.Outcome State Fault Refusal :=
  guarded (.movd o) (fun c s => .ok (uniWrite c o.d.toNat (sget c.w.dsp o.b.toNat) s)) s

/-! ### Futures (R332, R340, R344 to R346) -/

/-- The checks of R209 and R340 on a future's address. -/
def State.checkFut (s : State) (c : WCtx) (a : Word) : UniX := match s.futXlat c.w.part a with
  | .error (.bad code _) => .fault code
  | r =>
    if s.locked c.w.core false a.toNat 8 then .fault cRangeLock else
    match r with
    | .ok x => .ok x
    | .error _ => .page

/-- A word on a future: its place once the checks are passed; the step waits for what the thread has pending there, and
the core's copy of the word goes (R108, R113). A poisoned word cannot be read (R418). -/
def WCtx.future (c : WCtx) (s : State) (a : Word) (f : State → Xlat → Res) : Res := match s.checkFut c a with
  | .fault code => .fault code c.act a
  | .page => c.parkAll s aAtomic a
  | .ok x =>
    if c.ownPending s a 8 then .hold
    else if s.poisoned (.glob x.pa) 8 then .fault cScratchEcc c.act a
    else f (c.seen s x.pa 8) x

/-- FUT.NEW: the word becomes EMPTY, unless it is WAITING or malformed (R344). -/
def execFutNew (o : OpsG) (s : State) : Host.Outcome State Fault Refusal :=
  guarded (.futNew o) (fun c s => c.future s (c.s o.a) fun s x =>
    let w := s.dword x.pa
    if futBad w || bitsOf w 63 62 = 1 then .fault cFutState c.act (c.s o.a)
    else .ok (((s.touch c.w.part x true).setDword x.pa 0).answer c)) s

/-- The block has settled a future: it is not relaunched (R104). -/
def State.hasResolved (s : State) (b : Nat) : State := s.modBlock b fun x => { x with resolved := true }

/-- FUT.RESOLVE and FUT.FAIL settle with the low 40 bits of sb or of a literal; releases at .dev (R345). -/
def settleWord (i : Instr) (st : Nat) (o : OpsG) (s : State) : Host.Outcome State Fault Refusal :=
  guarded i (fun c s =>
    if !c.mayRelease s true then .hold else
    let val := match o.lit with
      | some l => litZext l
      | none => c.s o.b
    c.future s (c.s o.a) fun s _ =>
      c.ofObj s (s.settle c.w.part (c.s o.a) st val.toNat) fun s1 => .ok (((s1.publish c.w.id c.act).hasResolved c.w.block).answer c)) s

/-- FUT.RESOLVE (R345). -/
def execFutResolve (o : OpsG) (s : State) : Host.Outcome State Fault Refusal := settleWord (.futResolve o) 2 o s
/-- FUT.FAIL (R345). (Log entry 21, DEDUCED.) -/
def execFutFail (o : OpsG) (s : State) : Host.Outcome State Fault Refusal := settleWord (.futFail o) 3 o s

/-- Read a future's word whole; the return of a settled word is an acquire (R346). -/
def State.readFut (s : State) (c : WCtx) (d : BitVec 7) (w : Word) : State :=
  (if futSettled w then s.acquire c.w else s).answerWith c (.s d.toNat) [(0, w)]

/-- FUT.AWAIT: the path waits until the word is settled (R346). -/
def execFutAwait (o : OpsG) (s : State) : Host.Outcome State Fault Refusal :=
  guarded (.futAwait o) (fun c s => c.future s (c.s o.a) fun s x =>
    let w := s.dword x.pa
    let s1 := s.touch c.w.part x true
    if futBad w then .fault cFutState c.act (c.s o.a)
    else if futSettled w then .ok (s1.readFut c o.d w)
    else .ok (c.blocks s (s1.addOp c (some 5) c.act 2 false (.futAwait x.pa (.s o.d.toNat)) [.s o.d.toNat]))) s

/-- FUT.POLL: the word at once (R346). -/
def execFutPoll (o : OpsG) (s : State) : Host.Outcome State Fault Refusal :=
  guarded (.futPoll o) (fun c s => c.future s (c.s o.a) fun s x =>
    let w := s.dword x.pa
    if futBad w then .fault cFutState c.act (c.s o.a)
    else .ok ((s.touch c.w.part x true).readFut c o.d w)) s

/-! ### Continuations (R334, R335, R347, R348) -/

/-- Registers saved, minus 1, and the first of them. -/
def recCount (d : List Word) : Nat := bitsOf (dw d 1) 10 7 + 1
def recFirst (d : List Word) : Nat := bitsOf (dw d 1) 6 0
/-- The futures a record names, with their slots. -/
def recFuts (d : List Word) : List (Nat × Word) :=
  ((List.range 4).map fun k => (k, dw d (2 + k))).filter fun e => e.2 ≠ 0

/-- Check 2 of R347 on a record's first six dwords. (Log entry 21, DEDUCED.) -/
def recBad (d : List Word) : Bool :=
  bitsOf (dw d 0) 63 62 = 1 || bitsOf (dw d 0) 63 62 = 2 || bitsOf (dw d 1) 63 11 ≠ 0 ||
    (List.range 4).any fun k => bitsOf (dw d (2 + k)) 63 52 ≠ 0

/-- The first future whose translation or region refuses the link step, or that parks the path. -/
def State.checkFuts (s : State) (c : WCtx) : List (Nat × Word) → Option (UniX × Word)
  | [] => none
  | (_, a) :: rest => match s.checkFut c a with
    | .ok _ => State.checkFuts s c rest
    | x => some (x, a)

/-- One link step on future `a` for slot `k` of a record, for an agent of a die: the state after it, and whether it was
already settled; or the code of FUT_STATE (R347), or of a poisoned word (R418). -/
def State.linkFut (s : State) (p die rec_ k : Nat) (a : Word) : Except Nat (State × Bool) :=
  match s.futXlat p a with
  | .error _ => .error cFutState
  | .ok x =>
    let w := s.dword x.pa
    let head := rec_ / 256 * 4 + k
    let link (n old : Nat) : State :=
      ((s.touch p x true).setDword x.pa (BitVec.ofNat 64 (2 ^ 62 + n * 2 ^ 40 + head))).putVia p die (rec_ + 48 + 8 * k)
        (bytesOf 8 old)
    if s.poisoned (.glob x.pa) 8 then .error cScratchEcc
    else if futBad w then .error cFutState
    else if futSettled w then .ok (s.touch p x true, true)
    else if bitsOf w 63 62 = 0 then .ok (link 1 0, false)
    else if bitsOf w 61 40 = 2 ^ 22 - 1 then .error cFutState
    else .ok (link (bitsOf w 61 40 + 1) (bitsOf w 39 0), false)

/-- The links of a record in ascending slot: the state after those made, how many were made or found settled, how many
found settled, and the fault that ended them with its future. -/
def State.linkAll (s : State) (p die rec_ : Nat) : List (Nat × Word) → Nat → Nat → State × Nat × Nat × Option (Nat × Word)
  | [], made, settled => (s, made, settled, none)
  | (k, a) :: rest, made, settled => match s.linkFut p die rec_ k a with
    | .error code => (s, made, settled, some (code, a))
    | .ok (s1, old) => State.linkAll s1 p die rec_ rest (made + 1) (if old then settled + 1 else settled)

/-- The bytes a save writes behind dword 5: links, lanes, the launch part, whose form is not given, and the registers
(R334). -/
def WCtx.recBytes (c : WCtx) (first n : Nat) : List Byte :=
  let launch := (List.range 21).map fun i => Config.freeWord c.fresh i
  let regs := ((List.range n).map fun r => (List.range c.w.width).map fun l =>
    if inLanes c.act l then c.rd (.v (first + r)) l else 0).flatten
  bytesOfDwords ([0, 0, 0, 0, c.act] ++ launch ++ regs)

/-- Drop what a grid keeps of a record. (Log entry 13, DESIGN CHOICE.) -/
def State.dropSave (s : State) (p rec_ : Nat) : State := match aget (s.part p).saves rec_ with
  | none => s
  | some v => (s.modPart p fun q => { q with saves := aerase q.saves rec_ }).modGrid v.grid fun g =>
      { g with saves := g.saves.filter fun r => decide (r ≠ rec_) }

/-- The save's record and keeping, before any link (R347). (Log entry 13, DESIGN CHOICE.) -/
def State.writeRec (s : State) (c : WCtx) (rec_ pc m first n : Nat) : State :=
  let v : Saved := ⟨c.w.grid, c.w.width, c.w.launch, c.w.dsp, c.w.redGen, c.w.redCnt⟩
  let s1 := (s.dropSave c.w.part rec_).putVia c.w.part c.w.die (rec_ + 48) (c.recBytes first n)
  let s2 := s1.putVia c.w.part c.w.die rec_ (bytesOf 8 (recWord 1 (m + 1) pc).toNat)
  (s2.modPart c.w.part fun q => { q with saves := aset q.saves rec_ v }).modBlock c.w.block fun b => { b with saved := true }

/-- The guard is dropped: the record is linked, or ready at once (R335). The second part is what sd receives. -/
def State.dropGuard (s : State) (c : WCtx) (rec_ pc pending : Nat) : State × Word :=
  let put (st n : Nat) (s : State) : State := s.putVia c.w.part c.w.die rec_ (bytesOf 8 (recWord st n pc).toNat)
  if pending ≠ 0 then (put 1 pending s, 1)
  else if c.w.strict then ((put 2 0 s).queueRec c.w.part rec_, 1)
  else (put 3 0 s, 0)

/-- The core's copies of objects' words go (R108). -/
def WCtx.forgets (c : WCtx) (s : State) (l : List Nat) : State := l.foldl (fun s a =>
  match s.translate c.w.part (BitVec.ofNat 64 a) .atomic with
  | .ok x => c.seen s x.pa 256
  | .error _ => s) s

/-- The save proper, a release, its checks passed: links in order, then the guard. A FUT_STATE after the first link leaves an
abandoned record (R337). (Log entry 17, DEDUCED; log entry 21, DEDUCED.) -/
def WCtx.saveCont (c : WCtx) (s : State) (o : OpsG) (rec_ pc : Nat) (d : List Word) : Res :=
  let futs := recFuts d
  let m := futs.length
  let s1 := (c.forgets s (rec_ :: futs.map fun e => e.2.toNat)).writeRec c rec_ pc m (recFirst d) (recCount d)
  match s1.linkAll c.w.part c.w.die rec_ futs 0 0 with
  | (s2, made, settled, some (code, a)) =>
    if made = 0 then .fault code c.act a
    else .faultIn (s2.putVia c.w.part c.w.die rec_ (bytesOf 8 (recWord 1 (m + 1 - settled) pc).toNat)) code c.act a
  | (s2, _, settled, none) =>
    let (s3, x) := s2.dropGuard c rec_ pc (m - settled)
    let s4 := if settled = 0 then s3 else s3.acquire c.w
    let keep (g : Grid) : Grid := { g with saves := rec_ :: g.saves }
    .ok (((s4.publish c.w.id c.act).modGrid c.w.grid keep).answerWith c (.s o.d.toNat) [(0, x)])

/-- CONT.SAVE: its checks in R347's order, between those of R209 on the record and its futures. -/
def execContSave (o : OpsG) (s : State) : Host.Outcome State Fault Refusal :=
  guarded (.contSave o) (fun c s =>
    if !c.mayRelease s true then .hold else
    let a := c.s o.a
    let pc := c.s o.b
    match s.checkObj c a 256 256 with
    | .fault code => .fault code c.act a
    | .page => c.parkAll s aAtomic a
    | .ok _ => match s.readDwords c.w.part c.w.die a 6 .atomic with
      | .error _ => .fault cScratchEcc c.act a
      | .ok (d, s1) =>
        if 2 ^ 46 ≤ a.toNat || recBad d then .fault cFutState c.act a
        else if c.w.vregs < recFirst d + recCount d then .fault cContOversize c.act a
        else if pc.toNat % 4 ≠ 0 then .fault cFetchAlign c.act pc
        else match (recFuts d).find? fun e => e.2.toNat % 8 ≠ 0 with
          | some e => .fault cMisaligned c.act e.2
          | none => match s1.checkFuts c (recFuts d) with
            | some (.fault code, b) => .fault code c.act b
            | some (_, b) => c.parkAll s aAtomic b
            | none =>
              let len := 256 + recCount d * c.w.width * 8
              if s1.locked c.w.core false a.toNat len then .fault cRangeLock c.act a else
              match s1.translateAll c.w.part a len .atomic with
              | .error .rights => .fault cAccessRights c.act a
              | .error .pageFault => c.parkAll s aAtomic a
              | .ok _ => c.saveCont s1 o a.toNat pc.toNat d) s

/-- CONT.WAKE: a ready record that was never queued is queued (R348). -/
def execContWake (o : OpsG) (s : State) : Host.Outcome State Fault Refusal :=
  guarded (.contWake o) (fun c s =>
    let a := c.s o.a
    match s.checkObj c a 8 256 with
    | .fault code => .fault code c.act a
    | .page => c.parkAll s aAtomic a
    | .ok x =>
      if 2 ^ 46 ≤ a.toNat then .fault cFutState c.act a
      else if c.ownPending s a 8 then .hold
      else if s.poisoned (.glob x.pa) 8 then .fault cScratchEcc c.act a else
      let d := s.dword x.pa
      let s1 := (c.seen s x.pa 8).touch c.w.part x true
      if bitsOf d 63 62 = 3 then
        .ok (((s1.setDword x.pa (recWord 2 (bitsOf d 61 59) (bitsOf d 51 0))).queueRec c.w.part a.toNat).answerWith c
          (.s o.d.toNat) [(0, 1)])
      else .ok (s1.answerWith c (.s o.d.toNat) [(0, 0)])) s

end Sys2Proof.Machine
end

