-- ==== Sys2Proof/Machine/Finish.lean ====
section
/-!
DEFINITION. How grids end (R10, R11, R329, R337, R378), reduction windows (R224, R394, R395), list walks and resumptions
(R333, R336), and the watchdogs (R245, R248).
-/
namespace Sys2Proof.Machine

/-! ### GRID_COMPLETION -/

/-- Have a grid's chains halted or ended, and its matrix operations gone, those in the Saddlebag too? -/
def State.enginesDone (s : State) (gid : Nat) : Bool :=
  !(s.chans.any fun e => e.2.grid = gid && e.2.busy) && (!s.cores.any fun e => e.2.mx.ops.any fun o => o.grid = gid) &&
    !s.parts.any fun q => (q.2.chans.any fun e => e.2.grid = gid && e.2.busy) ||
      q.2.engines.any fun e => e.2.ops.any fun o => o.grid = gid

/-- Are all blocks dispatched and gone? -/
def State.blocksDone (s : State) (g : Grid) : Bool :=
  g.lowest (s.ncl g.part) = g.total && !s.blocks.any fun e => e.2.grid = g.id

/-- R10, with the conditions of R224 and R337. -/
def State.mayComplete (s : State) (g : Grid) : Bool :=
  s.blocksDone g && s.enginesDone g.id && g.kids = 0 && g.saves.isEmpty && !(s.part g.part).ready.any (fun r => r.2 = g.id) &&
    !s.msys.contribs.any fun c => c.grid = g.id

/-- The topmost grid of a chain that has ended by a fault. -/
def State.faultTop (s : State) (gid : Nat) : Nat :=
  ((s.chain gid).filter fun a => (aget s.grids a).any fun x => x.fault.isSome).getLastD gid

/-- R11: every grid that ends together with it has stopped, and its nested grids have ended before it.
(Log entry 21, DEDUCED.) -/
def State.mayEnd (s : State) (g : Grid) : Bool := g.kids = 0 && (s.dying (s.faultTop g.id)).all s.enginesDone

/-- Step 1 of R329: the completion future. Its failure ends the launcher's domain with the failure's code,
which may live on when the launcher has ended.
(Log entry 21, DEDUCED.) -/
def State.settleCfut (s : State) (g : Grid) : State :=
  if g.cfut = 0 then s else
  let r := match g.fault with
    | none => s.settle g.part (BitVec.ofNat 64 g.cfut) 2 0
    | some (code, blk) => s.settle g.part (BitVec.ofNat 64 g.cfut) 3 (code + blk.toNat % 2 ^ 32 * 256)
  match r, g.launcher with
  | .ok s1, _ => s1
  | .error _, none => s
  | .error e, some l =>
    let code := match e with
      | .page _ => cPageFault
      | .bad code _ => code
    s.endGrid (g.within.getD l) code noBlock

/-- Steps 2 to 4 of R329, and what a grid's end frees (R46, R321). -/
def State.leaveChain (s : State) (g : Grid) : State :=
  let s1 := (s.chain g.id).foldl (fun (s : State) a => s.modFrame a fun x => { x with used := x.used - g.kern.units }) s
  let s2 := match g.parent with
    | some l => s1.modFrame l fun x => { x with kids := x.kids - 1 }
    | none => s1
  let named := s2.namedGrids g.part g
  let s3 := s2.modPart g.part fun q => { q with allocs := q.allocs.filter fun a => match a.kind with
    | .gridRing x => decide (x ≠ g.id)
    | .blockRing x _ => decide (x ≠ g.id)
    | _ => true }
  let s4 := if s3.msys.pins.isEmpty then s3 else s3.setMsys { s3.msys with pins := s3.msys.pins.filter fun k => decide (k.grid ≠ g.id) }
  named.foldl (fun (s : State) a => s.lowerHold a) (s4.lowerHold g.id)

/-- A gang's part is over: its fault is the gang's if it is the first, and after the last part the one record is
written in the issuing queue, if that has not been aborted (R378, R402, R403). -/
def State.gangOver (s : State) (g : Grid) (gang j : Nat) (fault : Option (Nat × Word)) : State :=
  let first := match g.gfault with
    | some f => some f
    | none => fault
  if s.grids.any fun e => e.2.gang = some gang && !e.2.ended && e.1 ≠ g.id then
    { s with grids := s.grids.map fun e => (e.1, if e.2.gang = some gang then { e.2 with gfault := first } else e.2) }
  else if g.quiet then s else
    let (code, blk) := first.getD (0, 0)
    s.pushRec g.qpart j ⟨g.qgen, g.packet, g.tag, 0, code, blk, 0, 0, true, []⟩

/-- The completion record of a top-level grid (R10, R11, R372). -/
def State.gridRecord (s : State) (g : Grid) : State := match g.launcher, g.queue, g.gang with
  | none, some j, none =>
    let (code, blk) := g.fault.getD (0, 0)
    s.pushRec g.qpart j ⟨g.qgen, g.packet, g.tag, 0, code, blk, 0, 0, g.irq, []⟩
  | none, some j, some gang => s.gangOver g gang j g.fault
  | _, _, _ => s

/-- GRID_COMPLETION; the record releases the grid's writes, which the dies' ports have delivered then (R121). -/
def State.completeGrid (s : State) (gid : Nat) : State := match aget s.grids gid with
  | none => s
  | some g =>
    let ready := if g.fault.isSome then s.mayEnd g else s.mayComplete g
    if g.ended || !ready || !s.portsClearOf g.part then s else
    let st := if g.fault.isSome then GridSt.faulted else .complete
    let s1 := s.modLaunched gid fun x => { x with st := st, tend := s.time.dev, ended := true }
    ((s1.gridRecord g).settleCfut g).leaveChain g

/-! ### Reduction windows (R224, R394, R395) -/

/-- Source identifiers, field by field from the left. (Log entry 48, DESIGN CHOICE.) -/
def Contrib.before (a b : Contrib) : Bool := decide ([a.block, a.wave, a.lane, a.q] < [b.block, b.wave, b.lane, b.q])

/-- Put a contribution in its place. One whose identifier another has, as a resumption's may that of the wave it goes on
from, comes after it, in the order of arrival. (Log entry 48, DESIGN CHOICE.) -/
def insertContrib (c : Contrib) : List Contrib → List Contrib
  | [] => [c]
  | d :: l => if c.before d then c :: d :: l else d :: insertContrib c l

/-- Has every wave of the grid closed the window, and holds no continuation it open? -/
def State.windowClosed (s : State) (g : Grid) (w : Nat) : Bool :=
  g.lowest (s.ncl g.part) = g.total && !(s.blocks.any fun e => e.2.grid = g.id && e.2.killed) &&
  (s.waves.all fun e => e.2.grid ≠ g.id || (decide (w < e.2.redGen) && e.2.ops.all fun o => match o.kind with
    | .red _ (some (n, _)) todo => decide (n ≠ w) || todo.isEmpty
    | _ => true)) &&
  g.saves.all fun r => (aget (s.part g.part).saves r).all fun v => decide (w < v.gen)

/-- Add the contributions to one location, in the order given, to what it holds, and write it once (R69, R223, R394). -/
def State.applyAt (s : State) (pa : Nat) (f32 : Bool) (l : List Contrib) : State :=
  let n := if f32 then 4 else 8
  let old := BitVec.ofNat 64 (ofBytes (s.bytes (.glob pa) n))
  let new := l.foldl (fun x c => atomApply (if f32 then .addF32 else .add) n x c.x 0) old
  s.setBytes (.glob pa) (bytesOf n new.toNat)

/-- Apply contributions location by location. (Log entry 31, DESIGN CHOICE.) -/
def State.applyAll (s : State) (l : List Contrib) : State :=
  ((l.map fun c => (c.pa, c.f32)).eraseDups).foldl (fun (s : State) k =>
    s.applyAt k.1 k.2 (l.filter fun c => c.pa = k.1 && c.f32 == k.2)) s

/-- The locations of some contributions that lie in a poisoned sector, which their reader meets (R418). -/
def State.spoiledAt (s : State) (l : List Contrib) : List Contrib :=
  l.filter fun c => s.poisoned (.glob c.pa) (if c.f32 then 4 else 8)

/-- A window's contributions meet an uncorrectable error: the blocks they came from are killed, or their grid ends with them
(R104, R418). (Log entry 33, DEDUCED.) -/
def State.windowError (s : State) (gid : Nat) (l : List Contrib) : State :=
  ((l.map Contrib.bid).eraseDups).foldl (fun (s : State) b => match aget s.blocks b with
    | some _ => s.killBlock b
    | none => s.endGrid gid cScratchEcc ((l.find? fun c => c.bid = b).map (fun c => BitVec.ofNat 64 c.block) |>.getD noBlock)) s

/-- WINDOW_APPLY: the lowest window not yet applied is applied once it is closed. -/
def State.applyWindow (s : State) (gid w : Nat) : State := match aget s.grids gid with
  | none => s
  | some g =>
    let here := s.msys.contribs.filter fun c => c.grid = gid && c.win = w
    let busy := s.waves.any (fun e => e.2.grid = gid) || s.msys.contribs.any fun c => c.grid = gid
    if !g.strict || g.applied ≠ w || !busy || !s.windowClosed g w then s else
    if !(s.spoiledAt here).isEmpty then s.windowError gid (s.spoiledAt here) else
    let s1 := s.applyAll (here.foldl (fun l c => insertContrib c l) [])
    let s2 := s1.setMsys { s1.msys with contribs := s1.msys.contribs.filter fun c => !(c.grid = gid && c.win = w) }
    let mark (b : Block) : Block :=
      if b.grid = gid && here.any fun c => c.bid = b.id then { b with winOut := true } else b
    ({ s2 with blocks := s2.blocks.map fun e => (e.1, mark e.2) } : State).modGrid gid fun x => { x with applied := w + 1 }

/-! ### List walks and resumptions (R333, R336) -/

/-- LIST_WALK: the first list waiting to be walked moves on by one entry: the record's pending count falls; not while the
partition freezes or is saved (R339). (Log entry 21, DEDUCED.) -/
def State.walkList (s : State) (p : Nat) : State :=
  let q := s.part p
  if q.stage = .freeze ∨ q.stage = .saved then s else
  match q.walks with
  | [] => s
  | h :: rest =>
    let rec_ := headRec h
    let next := match s.objXlat p (BitVec.ofNat 64 (rec_ + 48 + 8 * headSlot h)) .atomic with
      | .ok x => bitsOf (s.dword x.pa) 39 0
      | .error _ => 0
    (s.setPart p { q with walks := if next = 0 then rest else next :: rest }).lowerPending p rec_

/-- The launch registers of a resumption wave (R336). -/
def resumeRegs (v : Saved) (core : Nat) : Sparse 64 := placedAt (sset (sset (sset v.launch 143 0) 144 0) 149 0) core

/-- The registers a record holds: `n` from the `first` on, for the lanes in its mask (R334, R336). -/
def recRegs (vals : List Word) (first n width : Nat) (mask : Lanes) : Sparse 64 :=
  (List.range n).foldl (fun (m : Sparse 64) r => (laneList mask).foldl (fun (m : Sparse 64) l =>
    sset m (l * 128 + first + r) (dw vals (r * width + l))) m) []

/-- A resumption wave and its block (R336). -/
def State.putResumption (s : State) (g : Grid) (v : Saved) (rec_ sub core spill : Nat) (d vals : List Word) : State :=
  let k := g.kern
  let mask : Lanes := dw d 10 &&& widthMask v.width
  let bid := s.nextId
  let table := (sget v.launch 155).toNat
  let idx := (sget v.launch 128).toNat
  let wi := (sget v.launch 138).toNat
  let b : Block := { newBlock g bid idx spill table with
    cluster := core / 4, cores := [core], nwaves := 1, run := wi, cont := true }
  let w : Wave := { waveAt g b (bid + 1) wi core ((s.freeSlot core sub k.vregs v.width).getD 0) with
    sub := sub, launch := resumeRegs v core, dsp := v.dsp, v := recRegs vals (recFirst d) (recCount d) v.width mask
    paths := [⟨0, mask, bitsOf (dw d 0) 51 0, 0, none, .run, false, false, 0⟩], exited := widthMask v.width &&& ~~~mask
    redGen := v.gen, redCnt := v.cnt }
  let s0 := s.beginStay g.part
  let s1 : State := { s0 with nextId := bid + 2, blocks := aset s0.blocks bid { b with first := some w } }
  let s2 := (s.chain g.id).foldl (fun (s : State) a => s.modFrame a fun x => { x with blocks := x.blocks + 1 }) (s1.setWave w)
  let s3 := (s2.putVia g.part (core / 144) rec_ (bytesOf 8 (recWord 0 0 (bitsOf (dw d 0) 51 0)).toNat)).dropSave g.part rec_
  (s3.modPart g.part fun q => { q with ready := q.ready.filter fun r => decide (r.1 ≠ rec_) }).l1Empty core

/-- Does another ready record's grid come before in the order of R375, and the core take it? -/
def State.resumesBefore (s : State) (ready : List (Nat × Nat)) (g : Grid) (core : Nat) : Bool :=
  ready.any fun r => (aget s.grids r.2).any fun h => s.gridBefore h g && s.mayDispatch h && (s.subFor core h.kern.vregs h.kern.width).isSome

/-- The ready records of a partition and of those that share its cores. -/
def State.readyWith (s : State) (p : Nat) : List (Nat × Nat) :=
  ((s.parts.filter fun e => s.together p e.1).map fun e => e.2.ready).flatten

/-- RESUMPTION: the `i`-th queued record starts on a core of its partition that has a free slot, with a return-stack spill
area of its own (R321), after the records of grids that come before (R375).
(Log entry 13, DESIGN CHOICE; log entry 21, DEDUCED.) -/
def State.resumeRec (s : State) (p i core : Nat) : State :=
  let q := s.part p
  match q.ready[i]? with
  | none => s
  | some (rec_, gid) => match aget s.grids gid, aget q.saves rec_ with
    | some g, some v =>
      if !s.mayDispatch g || !q.clusters.contains (core / 4) || s.othersOn p || s.resumesBefore (s.readyWith p) g core then s else
      match s.subFor core g.kern.vregs v.width, s.readDwords p (core / 144) (BitVec.ofNat 64 rec_) 32 .atomic with
      | some sub, .ok (d, s1) => match s1.readDwords p (core / 144) (BitVec.ofNat 64 (rec_ + 256)) (recCount d * v.width) .atomic with
        | .ok (vals, s2) => match s2.alloc p (core / 144) (g.kern.rets * 8 * v.width) 256 (.spill s2.nextId) with
          | (.at spill, s3) => s3.putResumption g v rec_ sub core spill d vals
          | (.full, _) => s
          | (.bad, _) => s.endGrid g.id cFrameExhaust (sget v.launch 128)
        | .error _ => s
      | _, _ => s
    | _, _ => s

/-! ### Watchdogs (R245, R248) -/

/-- WATCHDOG: a top-level grid has run longer, in elapsed time, than its queue's limit. (Log entry 26, DEDUCED.) -/
def State.watchdog (s : State) (gid : Nat) : State := match aget s.grids gid with
  | none => s
  | some g => match g.start, g.queue with
    | some t, some j =>
      let limit := bitsOf (dw (s.queue g.qpart j).kept 1) 31 0
      if g.launcher.isSome || g.ended || g.fault.isSome || limit = 0 || s.away g.part
          || decide ((s.time.elapsed - t).toNat ≤ limit * 1000) then s
      else s.endGrid gid cWatchdog noBlock
    | _, _ => s

/-- Has a drain on a die outlasted 16 µs, which count longer while the die's clock is lowered (R248, R415)? -/
def State.drainOver (s : State) (since : Word) (die : Nat) : Bool :=
  decide (16000 * 33 < (s.time.elapsed - since).toNat * ((aget s.hw.mons die).getD Monitor.reset).fstep)

/-- DRAIN_WATCHDOG: a drain of the grid has not left handler mode within 16 µs. -/
def State.drainWatchdog (s : State) (gid : Nat) : State := match aget s.grids gid with
  | none => s
  | some g =>
    let p := s.part g.part
    if p.stage = .freeze && s.waves.any fun e => e.2.grid = gid && e.2.draining && s.drainOver p.since e.2.die then
      s.endGrid gid cWatchdog noBlock
    else s

/-! ### The events -/

/-- GRID_COMPLETION (R10, R11, R329). -/
def execGridCompletion (s : State) : Host.Outcome State Fault Refusal :=
  event (fun a s => match a with
    | .grid g => s.completeGrid g
    | _ => s) s

/-- WINDOW_APPLY (R224, R394). -/
def execWindowApply (s : State) : Host.Outcome State Fault Refusal :=
  event (fun a s => match a with
    | .window g w => s.applyWindow g w
    | _ => s) s

/-- LIST_WALK (R333). -/
def execListWalk (s : State) : Host.Outcome State Fault Refusal :=
  event (fun a s => match a with
    | .part p => s.walkList p
    | _ => s) s

/-- RESUMPTION (R336). -/
def execResumption (s : State) : Host.Outcome State Fault Refusal :=
  event (fun a s => match a with
    | .resume p i core => s.resumeRec p i core
    | _ => s) s

/-- WATCHDOG (R245). -/
def execWatchdog (s : State) : Host.Outcome State Fault Refusal :=
  event (fun a s => match a with
    | .grid g => s.watchdog g
    | _ => s) s

/-- DRAIN_WATCHDOG (R248). -/
def execDrainWatchdog (s : State) : Host.Outcome State Fault Refusal :=
  event (fun a s => match a with
    | .grid g => s.drainWatchdog g
    | _ => s) s

end Sys2Proof.Machine
end

