-- ==== Sys2Proof/Machine/MatrixUnit.lean ====
section
/-!
DEFINITION. The matrix engine itself: parameter blocks and their checks (R300 to R303, R305), the K-chunk (R64, R304)
and the steps of an operation (R306, R420).
-/
namespace Sys2Proof.Machine

/-! ### Parameter blocks (R300 to R303) -/

/-- One operand of a multiplication: format, sign, layout, scale bit, placement, scale placement and outer size. -/
structure MxSide where
  fmt    : Nat
  sgn    : Bool
  lay    : Nat
  scl    : Bool
  core   : Nat
  pitch  : Nat
  addr   : Nat
  score  : Nat
  spitch : Nat
  saddr  : Nat
  outer  : Nat
deriving DecidableEq, Repr

def mxAcc (d : List Word) : Nat := bitsOf (dw d 0) 42 40
def mxAction (d : List Word) : Nat := bitsOf (dw d 0) 39 38
def mxRingIdx (d : List Word) : Nat := bitsOf (dw d 0) 37 30
def mxM (d : List Word) : Nat := bitsOf (dw d 0) 29 23
def mxN (d : List Word) : Nat := bitsOf (dw d 0) 22 16
def mxK (d : List Word) : Nat := bitsOf (dw d 0) 15 0
def mxGate (d : List Word) : Bool := (dw d 6).getLsbD 63
def mxGrel (d : List Word) : Bool := (dw d 6).getLsbD 62
def mxGring (d : List Word) : Nat := bitsOf (dw d 6) 61 54
def mxObject (d : List Word) : Word := BitVec.ofNat 64 (bitsOf (dw d 5) 51 0)
def mxChunks (d : List Word) : Nat := (mxK d + 31) / 32

def mxA (d : List Word) : MxSide :=
  ⟨bitsOf (dw d 0) 63 60, (dw d 0).getLsbD 55, bitsOf (dw d 0) 53 52, (dw d 0).getLsbD 49, bitsOf (dw d 1) 63 62,
    bitsOf (dw d 1) 51 32, bitsOf (dw d 1) 19 0, bitsOf (dw d 3) 63 62, bitsOf (dw d 3) 51 32, bitsOf (dw d 3) 19 0, mxM d⟩

def mxB (d : List Word) : MxSide :=
  ⟨bitsOf (dw d 0) 59 56, (dw d 0).getLsbD 54, bitsOf (dw d 0) 51 50, (dw d 0).getLsbD 48, bitsOf (dw d 2) 63 62,
    bitsOf (dw d 2) 51 32, bitsOf (dw d 2) 19 0, bitsOf (dw d 4) 63 62, bitsOf (dw d 4) 51 32, bitsOf (dw d 4) 19 0, mxN d⟩

/-- Bits of an element: a KQ8 weight has two. -/
def mxBits (fmt : Nat) : Nat := if fmt ≤ 1 then 16 else if fmt = 4 ∨ fmt = 6 then 4 else if fmt = 7 then 2 else 8
def mxInt (fmt : Nat) : Bool := fmt = 5 || fmt = 6

/-- R301. -/
def mxPairOk (a b k : Nat) : Bool :=
  match a, b with
  | 0, 0 | 1, 1 | 5, 5 => true
  | 2, 2 | 2, 3 | 3, 2 | 3, 3 => true
  | 2, 7 | 3, 7 => k % 8 = 0
  | 4, 4 | 6, 6 => k % 2 = 0
  | _, _ => false
def mxScalable (a : Nat) : Bool := a = 2 || a = 3 || a = 4

/-- Does a side break R301 or R302, with `d` added to its address? -/
def MxSide.bad (x : MxSide) (scalable : Bool) (d : Nat) : Bool :=
  (x.sgn && !mxInt x.fmt) || x.lay = 3 || (x.lay = 1 && (x.fmt = 4 || x.fmt = 6 || x.fmt = 7)) ||
  (x.lay = 2 && x.pitch ≠ 0) || ((x.fmt ≤ 1 || x.fmt = 7) && ((x.addr + d) % 2 ≠ 0 || x.pitch % 2 ≠ 0)) ||
  (x.scl && !scalable) || decide (x.outer = 0) || decide (64 < x.outer)

/-- Check 1 of R305. -/
def mxParamBad (d : List Word) (dA dB : Nat) : Bool :=
  let w0 := dw d 0
  let scalable := mxScalable (mxA d).fmt
  w0.getLsbD 43 || decide (6 < (mxA d).fmt) || decide (7 < (mxB d).fmt) || mxAction d = 3 ||
  [dw d 1, dw d 2, dw d 3, dw d 4].any (fun x => bitsOf x 61 52 ≠ 0 || bitsOf x 31 20 ≠ 0) ||
  bitsOf (dw d 5) 63 52 ≠ 0 || bitsOf (dw d 6) 53 40 ≠ 0 || dw d 7 ≠ 0 ||
  !mxPairOk (mxA d).fmt (mxB d).fmt (mxK d) || (mxA d).bad scalable dA || (mxB d).bad scalable dB ||
  (!(mxA d).scl && dw d 3 ≠ 0) || (!(mxB d).scl && dw d 4 ≠ 0) || mxK d = 0 ||
  (mxAction d ≠ 1 && mxRingIdx d ≠ 0) || (mxAction d = 0 && dw d 5 ≠ 0) || (mxAction d ≠ 0 && dw d 5 = 0) ||
  (mxAction d = 2 && bitsOf (dw d 5) 2 0 ≠ 0) || (mxAction d ≠ 2 && bitsOf (dw d 6) 39 0 ≠ 0) ||
  (!mxGate d && (mxGrel d || mxGring d ≠ 0))

/-- First byte of element (o, k), or of the KQ8 index that holds it, and its bytes (R302). -/
def MxSide.place (x : MxSide) (K o k : Nat) : Nat × Nat :=
  let pos := if x.lay = 2 then (o / 8 * ((K + 31) / 32) + k / 32) * 256 + o % 8 * 32 + k % 32 else k
  let row := if x.lay = 0 then o * x.pitch else 0
  let bits := mxBits x.fmt
  if x.lay = 1 then (x.addr + k * x.pitch + o * (bits / 8), bits / 8)
  else if x.fmt = 7 then (x.addr + row + pos / 8 * 2, 2)
  else (x.addr + row + pos * bits / 8, max 1 (bits / 8))

/-- The byte after the last that an operand reads: addresses rise with o and k, so it belongs to the last element. -/
def MxSide.stop (x : MxSide) (K : Nat) : Nat :=
  let e := x.place K (x.outer - 1) (K - 1)
  e.1 + e.2

/-- The scale byte of outer index `o` in chunk `c` (R303). -/
def MxSide.scaleAt (x : MxSide) (o c : Nat) : Nat := x.saddr + o * x.spitch + c
def MxSide.scaleStop (x : MxSide) (chunks : Nat) : Nat := x.scaleAt (x.outer - 1) (chunks - 1) + 1

/-- Does a side break check 4 of R305, on a block of `cores` cores with the part `[base, base + size)`? -/
def MxSide.outside (x : MxSide) (K cores base size : Nat) : Bool :=
  decide (cores ≤ x.core) || decide (x.addr < base) || decide (base + size < x.stop K) || decide (0x100000 < x.stop K) ||
  (x.scl && (decide (cores ≤ x.score) || decide (x.saddr < base) || decide (base + size < x.scaleStop ((K + 31) / 32)) ||
    decide (0x100000 < x.scaleStop ((K + 31) / 32))))

/-- The block as the engine keeps it: dA and dB added in (R313). -/
def mxDelta (d : List Word) (dA dB : Nat) : List Word :=
  (d.set 1 (dw d 1 + BitVec.ofNat 64 dA)).set 2 (dw d 2 + BitVec.ofNat 64 dB)

/-! ### A K-chunk (R64, R304) -/

/-- An element's value from the bytes at its place. -/
def MxSide.value (x : MxSide) (k raw : Nat) : FVal := match x.fmt with
  | 0 => fpDecode fmtBF16 raw
  | 1 => fpDecode fmtF16 raw
  | 2 => fpDecode fmtE4M3 raw
  | 3 => fpDecode fmtE5M2 raw
  | 4 => fpDecode fmtE2M1 (raw / 16 ^ (k % 2) % 16)
  | 5 => fpOfInt (toI x.sgn 8 raw)
  | 6 => fpOfInt (toI x.sgn 4 (raw / 16 ^ (k % 2) % 16))
  | _ => (kq8 raw).getD (k % 8) (.num false 0 0)

/-- Integer products are exact integers: a zero has no sign. -/
def mxProduct (int : Bool) (a b : FVal) : FVal := match fpMul a b with
  | .num s m e => .num (s && !(int && m = 0)) m e
  | x => x

/-- The bytes of one outer row of a side that chunk `c` reads: their places. -/
def MxOp.rowPlaces (o : MxOp) (x : MxSide) (K i c : Nat) : List (Loc × Nat) :=
  let core := o.cores.getD x.core 0
  let el := (List.range (min 32 (K - 32 * c))).map fun k =>
    let e := x.place K i (32 * c + k)
    (Loc.scr core e.1, e.2)
  if x.scl then (.scr (o.cores.getD x.score 0) (x.scaleAt i c), 1) :: el else el

/-- The scaled values of one outer row of a side in chunk `c`. -/
def State.mxRow (s : State) (o : MxOp) (x : MxSide) (K i c : Nat) : List FVal :=
  let core := o.cores.getD x.core 0
  let sc := ofBytes (s.bytes (.scr (o.cores.getD x.score 0) (x.scaleAt i c)) 1)
  (List.range (min 32 (K - 32 * c))).map fun k =>
    let e := x.place K i (32 * c + k)
    let v := x.value (32 * c + k) (ofBytes (s.bytes (.scr core e.1) e.2))
    if x.scl then fpScaled v sc else v

/-- Key of element (i, j) of tile `t`. -/
def accKey (t i j : Nat) : Nat := t * 4096 + i * 64 + j

/-- The tile after one chunk. -/
def State.mxChunk (s : State) (o : MxOp) (d : List Word) (c : Nat) (acc : Sparse 32) : Sparse 32 :=
  let K := mxK d
  let rows := (List.range (mxM d)).map fun i => s.mxRow o (mxA d) K i c
  let cols := (List.range (mxN d)).map fun j => s.mxRow o (mxB d) K j c
  let ctl : FpCtl := ⟨0, (dw d 0).getLsbD 46, false, false⟩
  (List.range (mxM d)).foldl (fun (acc : Sparse 32) i => (List.range (mxN d)).foldl (fun (acc : Sparse 32) j =>
    let key := accKey (mxAcc d) i j
    let terms := List.zipWith (mxProduct (mxInt (mxA d).fmt)) (rows.getD i []) (cols.getD j [])
    sset acc key (BitVec.ofNat 32 (fpSumWrite fmtF32 ctl (fpDecode fmtF32 (sget acc key).toNat :: terms)))) acc) acc

/-- Elements (i, j) with i < M and j < N start from +0. -/
def zeroTile (t M N : Nat) (acc : Sparse 32) : Sparse 32 :=
  acc.filter fun e => !(e.1 / 4096 = t && decide (e.1 % 4096 / 64 < M) && decide (e.1 % 64 < N))

/-! ### The engine's steps (R306, R420) -/

def State.modMx (s : State) (k : Nat) (f : Matrix → Matrix) : State := s.modCore k fun c => { c with mx := f c.mx }
def State.mxHead (s : State) (k : Nat) : Option MxOp := (s.core k).mx.ops.head?

/-- Change the operation at the head. -/
def State.modHead (s : State) (k : Nat) (f : MxOp → MxOp) : State := s.modMx k fun m => { m with ops := match m.ops with
  | o :: rest => f o :: rest
  | [] => [] }

def State.mxStep (s : State) (k n : Nat) : State := s.modHead k fun o => { o with step := n }

/-- Does the engine start anything? Not while it is frozen or parked (R309, R420). -/
def Matrix.runs (m : Matrix) : Bool := !m.frozen && m.parked.isNone

/-- A step that fails: the queued operations are discarded and the grid faults, or an uncorrectable error kills the
block (R306, R418, R420). (Log entry 29, DEDUCED.) -/
def State.mxFail (s : State) (k : Nat) (o : MxOp) (code : Nat) : State :=
  let s1 := s.discardMx k
  if code = cScratchEcc && (aget s.blocks o.block).isSome then s1.killBlock o.block
  else s1.endGrid o.grid code (BitVec.ofNat 64 o.bidx)

/-- A step that meets an invalid translation entry parks the engine with a fault record of engine 2 (R420). -/
def State.mxPark (s : State) (k : Nat) (o : MxOp) (a : Word) : State :=
  let (s1, n) := s.newRec o.part cPageFault 2 6 k a 0 0 (.mx k)
  s1.modMx k fun m => { m with parked := some n }

/-- Log entry 29, DEDUCED. -/
def State.mxErr (s : State) (k : Nat) (o : MxOp) : ObjErr → State
  | .page a => s.mxPark k o a
  | .bad code _ => s.mxFail k o code

/-- The gate's slot: its ring, number and phase. -/
def State.mxGateSlot (s : State) (k : Nat) (o : MxOp) (d : List Word) (seq : Nat) :
    Except ObjErr (Ring × Nat × Bool × State) :=
  match s.ring o.part (dieOfCore k) (BitVec.ofNat 64 o.table) (mxGring d) false with
  | .error e => .error e
  | .ok (r, s1) => .ok (r, seq % r.slots, seq / r.slots % 2 = 1, s1)

/-- The step after the gate. -/
def mxAfterGate (d : List Word) : Nat := if (dw d 0).getLsbD 44 then 3 else 4

/-- Step 2: the gate's slot is full and of its phase (R229, R306). (Log entry 29, DEDUCED.) -/
def State.gateObserve (s : State) (k : Nat) : State := match s.mxHead k with
  | none => s
  | some o => match o.kind with
    | .mul d seq =>
      if o.step ≠ 2 || !(s.core k).mx.runs then s else
      match s.mxGateSlot k o d seq with
      | .error e => s.mxErr k o e
      | .ok (r, i, ph, s1) => match s1.ringMem o.part r with
        | .error e => s.mxErr k o e
        | .ok x =>
          if s1.slotSpoiled x.pa i then s.mxFail k o cScratchEcc
          else if !byteOk (s1.slotByte x.pa i) then s.mxFail k o cRingState
          else if s1.slotIs x.pa i true ph then (s1.touch o.part x true).mxStep k (mxAfterGate d) else s
    | _ => s

/-- A release by a core's engine at .dev waits until its die's ports have delivered what they took in (R112, R114, R120).
(Log entry 9, DESIGN CHOICE.) -/
def State.mxMayRelease (s : State) (k : Nat) (dev : Bool) : Bool := !dev || s.portsClear (dieOfCore k)

/-- Step 5: the gate's slot is released and the locks go, in one (R230, R306, R420). -/
def State.mxRelease (s : State) (k : Nat) (o : MxOp) (d : List Word) (seq : Nat) : State :=
  let next := if mxAction d = 0 then 7 else 6
  if !mxGrel d then (s.dropLocks (mxOwner k)).mxStep k next else
  match s.mxGateSlot k o d seq with
  | .error e => s.mxErr k o e
  | .ok (r, i, _, s1) =>
    if !s.mxMayRelease k r.dev then s else
    match s1.ringRel o.part r (BitVec.ofNat 64 (r.slotAddr i)) with
    | .error e => s.mxErr k o e
    | .ok s2 => (s2.dropLocks (mxOwner k)).mxStep k next

/-- Step 6: the completion action (R271, R306). -/
def State.mxPerform (s : State) (k : Nat) (o : MxOp) (d : List Word) : State :=
  if mxAction d = 1 then
    match s.ring o.part (dieOfCore k) (BitVec.ofNat 64 o.table) (mxRingIdx d) false with
    | .error e => s.mxErr k o e
    | .ok (r, s1) =>
      if !s.mxMayRelease k r.dev then s else
      match s1.ringPost o.part r (mxObject d) with
      | .error e => s.mxErr k o e
      | .ok s2 => s2.mxStep k 7
  else if !s.mxMayRelease k true then s else
  match s.settle o.part (mxObject d) 2 (bitsOf (dw d 6) 39 0) with
    | .error e => s.mxErr k o e
    | .ok s1 => (s1.modBlock o.block fun b => { b with resolved := true }).mxStep k 7

/-- The tile an operation works on. -/
def MxOp.tile (o : MxOp) : Nat := match o.kind with
  | .mul d _ => mxAcc d
  | .zero t | .loadacc t _ | .stacc t _ => t

/-- Rows that an operation hands to the pop queue. -/
def MxOp.rows (o : MxOp) : List (Nat × Nat) := match o.kind with
  | .mul d _ => if (dw d 0).getLsbD 45 then (List.range (mxM d)).map fun i => (mxAcc d, i) else []
  | _ => []

/-- Step 7: the rows enter the pop queue, and the completed ticket rises (R306). -/
def State.mxFinish (s : State) (k : Nat) (o : MxOp) : State := s.modMx k fun m =>
  { m with ops := m.ops.drop 1, pops := m.pops ++ o.rows, completed := o.ticket, last := o.tile }

/-- Steps 5 to 7, from where the operation at the head stands, as far as they go. -/
def State.mxComplete (s : State) (k : Nat) : Nat → State
  | 0 => s
  | n + 1 => match s.mxHead k with
    | none => s
    | some o =>
      if !(s.core k).mx.runs || decide (o.step < 5) then s else
      match o.kind with
      | .mul d seq =>
        if o.step = 5 then (s.mxRelease k o d seq).mxComplete k n
        else if o.step = 6 then (s.mxPerform k o d).mxComplete k n
        else s.mxFinish k o
      | _ => s.mxFinish k o

/-- Does the pop queue hold a row of the tile? (R306, step 1) (Log entry 29, DEDUCED.) -/
def Matrix.holdsRow (m : Matrix) (t : Nat) : Bool := m.pops.any fun e => e.1 = t

/-- The 16 KiB of a tile in scratchpad, as elements. -/
def State.loadTile (s : State) (core a t : Nat) (acc : Sparse 32) : Sparse 32 :=
  (List.range 4096).foldl (fun (acc : Sparse 32) i =>
    sset acc (t * 4096 + i) (BitVec.ofNat 32 (ofBytes (s.bytes (.scr core (a + 4 * i)) 4)))) acc
def tileBytes (acc : Sparse 32) (t : Nat) : List Byte :=
  ((List.range 4096).map fun i => bytesOf 4 (sget acc (t * 4096 + i)).toNat).flatten

/-- Step 1, and for an operation on one tile its whole effect (R306, R315). -/
def State.mxStart (s : State) (k : Nat) : State := match s.mxHead k with
  | none => s
  | some o =>
    let m := (s.core k).mx
    if o.step ≠ 1 || !m.runs then s else
    match o.kind with
    | .mul d _ =>
      if m.holdsRow (mxAcc d) then s else s.mxStep k (if mxGate d then 2 else mxAfterGate d)
    | .zero t => if m.holdsRow t then s else (s.modMx k fun m => { m with acc := zeroTile t 64 64 m.acc }).mxStep k 7
    | .loadacc t a =>
      if m.holdsRow t then s else
      if s.eccHit (.scr k a) 16384 then s.mxFail k o cScratchEcc else
      (s.modMx k fun m => { m with acc := s.loadTile k a t m.acc }).mxStep k 7
    | .stacc t a => (s.setBytes (.scr k a) (tileBytes m.acc t)).mxStep k 7

/-- The places chunk `c` reads. -/
def MxOp.places (o : MxOp) (d : List Word) (c : Nat) : List (Loc × Nat) :=
  ((List.range (mxM d)).map fun i => o.rowPlaces (mxA d) (mxK d) i c).flatten ++
    ((List.range (mxN d)).map fun j => o.rowPlaces (mxB d) (mxK d) j c).flatten

/-- The tile as chunk `c` finds it: zeroed before the first, when the block says so (R304). -/
def tileBefore (d : List Word) (c : Nat) (acc : Sparse 32) : Sparse 32 :=
  if c = 0 && (dw d 0).getLsbD 47 then zeroTile (mxAcc d) (mxM d) (mxN d) acc else acc

/-- Step 4: the next chunk; after the last, step 5 (R304, R306). (Log entry 15, DESIGN CHOICE.) -/
def State.kChunk (s : State) (k : Nat) : State := match s.mxHead k with
  | none => s
  | some o => match o.kind with
    | .mul d seq =>
      if o.step ≠ 4 || !(s.core k).mx.runs then s
      else if !s.msys.eccBad.isEmpty && (o.places d o.chunk).any fun e => s.eccHit e.1 e.2 then s.mxFail k o cScratchEcc
      else
        let s1 := s.modMx k fun m => { m with acc := s.mxChunk o d o.chunk (tileBefore d o.chunk m.acc) }
        if o.chunk + 1 < mxChunks d then s1.modHead k fun o => { o with chunk := o.chunk + 1 }
        else (s1.mxStep k 5).mxRelease k o d seq
    | _ => s

end Sys2Proof.Machine
end

