-- ==== Sys2Proof/Machine/Preempt.lean ====
section
/-!
DEFINITION. Fault records and verdicts (R241 to R244, R276, R373, R420), and what a pre-emption does before the swap: the
freeze, drains, what is at rest and what places are free (R246 to R251, R339).
-/
namespace Sys2Proof.Machine

/-! ### Fault records (R241, R242) -/

/-- The 32 bytes of a fault record. -/
def FRec.bytes (r : FRec) : List Byte :=
  bytesOfDwords [BitVec.ofNat 64 (r.seq % 2 ^ 32 * 2 ^ 32 + r.code % 256 * 2 ^ 24 + r.engine % 4 * 2 ^ 19 + r.access % 8 * 2 ^ 16
      + r.core % 1024), r.addr, r.lanes, BitVec.ofNat 64 (r.pc % 2 ^ 52)]

def Part.slotOfSeq (p : Part) (seq : Nat) : Nat := (seq + 2 ^ 32 - 1) % 2 ^ 32 % p.fslots

/-- The die of the engine that met the fault: a firmware core's, or that of the core (R5, R242). -/
def FRec.die (r : FRec) (p : Part) : Nat := match r.who with
  | .queue j => p.qdie j
  | _ => dieOfCore r.core

/-- Write a record into its slot of the fault ring, once no outstanding record holds the slot, and raise vector 1. -/
def State.writeFRec (s : State) (p seq : Nat) : State :=
  let q := s.part p
  match q.recs.find? fun r => r.seq = seq && !r.written with
  | none => s
  | some r =>
    if q.recs.any fun x => x.written && q.slotOfSeq x.seq = q.slotOfSeq seq then s else
    let s1 := s.setBytes (.glob (q.fring + 32 * q.slotOfSeq seq)) r.bytes
    (s1.setPart p { q with recs := q.recs.map fun x => if x.seq = seq then { x with written := true } else x }).interrupt p 1 (r.die q)

/-! ### Verdicts (R243, R244) -/

/-- A path that a record is for: parked by it. -/
def Wave.parkedBy (w : Wave) (seq : Nat) : Option Path := w.paths.find? fun p => p.st = .parked seq

/-- A path's refusal: a precise PAGE_FAULT at its word (R244). -/
def State.refusePath (s : State) (w : Nat) (r : FRec) : State := match (aget s.waves w).bind fun x => x.parkedBy r.seq with
  | none => s
  | some q =>
    let p := q.id
    let cls := if q.idx = 0 then 0 else (q.clause.map fun c => hdrClass c.hdr).getD 0
    takeFault s w p ⟨cPageFault, r.lanes, r.addr, r.pc, (r.pc - q.hdr) / 4, cls, false⟩

/-- The launch records that wait for a queue's verdict are written again (R373). -/
def State.writeLrecs (s : State) (p j : Nat) : State :=
  (s.queue p j).lrecs.foldl State.writeLrec (s.modQueue p j fun q => { q with lrecs := [] })

/-- A completion record whose write is refused is lost, and with it all that would follow (R373). -/
def State.loseCRec (s : State) (p j : Nat) : State :=
  let q := s.queue p j
  let rest := match s.nextCRec q with
    | some i => q.recs.eraseIdx i
    | none => q.recs
  (s.setQueue p j { q with recs := rest, mute := true }).queueErrorMute p j qerrPage

/-- A queue leaves FETCH_PARKED: by a replay it goes on where it stopped, by a refusal it enters ERROR (R364, R373).
(Log entry 22, DEDUCED.) -/
def State.answerParked (s : State) (p j : Nat) (refuse : Bool) : State :=
  let q := s.queue p j
  match q.left, refuse with
  | .enable, false => (s.setQueue p j { q with st := .disabled }).enableNow p j
  | .enable, true => s.queueErrorMute p j qerrPage
  | .record, true => s.loseCRec p j
  | _, true => s.queueError p j qerrPage 0 q.tag
  | .lrec g, false => ((s.setQueue p j { q with st := .idle }).settleQueue p j).writeLrec g
  | _, false => (s.setQueue p j { q with st := .idle }).settleQueue p j

/-- The verdict on a fault record of a queue: on the access that parks it, or on the write of a completion record or of launch
records alone, of which a refusal leaves out the one (R373). (Log entry 22, DEDUCED.) -/
def State.answerQueue (s : State) (p j seq : Nat) (refuse : Bool) : State :=
  let q := s.queue p j
  if q.rseq = seq then
    let s1 := s.setQueue p j { q with rseq := 0 }
    if refuse then s1.loseCRec p j else s1
  else if q.lseq = seq then
    (s.setQueue p j { q with lseq := 0, lrecs := if refuse then q.lrecs.drop 1 else q.lrecs }).writeLrecs p j
  else if q.st = .parked ∧ q.seq = seq then
    let s1 := s.answerParked p j refuse
    if q.lseq = 0 then s1.writeLrecs p j else s1
  else s

/-- A replay lets the path parked by a record run, or the path that a drain or restore entry took out of that park, once it
leaves handler mode (R243, R248). (Log entry 18, DEDUCED.) -/
def Wave.replayed (w : Wave) (seq : Nat) : Wave := match w.parkedBy seq with
  | some q => w.setPath { q with st := .run }
  | none => { w with trap := w.trap.map fun t => if t.held = .parked seq then { t with held := .run } else t }

/-- The effect of a verdict. -/
def State.applyVerdict (s : State) (p : Nat) (r : FRec) (refuse : Bool) : State := match r.who with
  | .path w _ => if refuse then s.refusePath w r else s.modWave w fun x => x.replayed r.seq
  | .chan c =>
    let k := s.chan c
    if k.st ≠ .parked ∨ k.seq ≠ r.seq then s
    else if refuse then match k.halt with
      | .fault code => (s.endChain c .faulted).modChan c fun k => { k with code := code }
      | _ => s.chanFault c cAwlPage k.fpc k.faddr
    else s.modChan c fun k => { k with st := .running, code := 0 }
  | .mx k =>
    if (s.core k).mx.parked ≠ some r.seq then s else
    let s1 := s.modMx k fun m => { m with parked := none }
    match s1.mxHead k with
    | some o => if refuse then s1.mxFail k o cPageFault else s1
    | none => s1
  | .queue j => s.answerQueue p j r.seq refuse

/-- Must a verdict wait? During a freeze and a swap (R250, R251); and a refusal while its wave is in handler mode but for a
fault of the handler's own path: R238 holds the wave's other paths, the one that a drain entry took among them. (Log entry 18, DEDUCED; log entry 26, DEDUCED.) -/
def State.verdictHeld (s : State) (p : Nat) (r : FRec) (refuse : Bool) : Bool :=
  let stage := (s.part p).stage
  stage = .freeze || stage = .saved || (refuse && match r.who with
    | .path w _ => match aget s.waves w with
      | some x => x.trap.isSome && !(x.parkedBy r.seq).any Path.handler
      | none => false
    | _ => false)

/-- Take a record out and apply its verdict, or keep the verdict until it may take effect. -/
def State.verdict (s : State) (p seq : Nat) (refuse : Bool) : State :=
  match (s.part p).recs.find? fun r => r.seq = seq && r.written with
  | none => s
  | some r =>
    if s.verdictHeld p r refuse then
      s.modPart p fun q => { q with recs := q.recs.map fun x => if x.seq = seq then { x with verdict := some refuse } else x }
    else (s.modPart p fun q => { q with recs := q.recs.filter fun x => decide (x.seq ≠ seq) }).applyVerdict p r refuse

/-- The first record whose verdict waits and may now take effect. -/
def State.heldVerdict (s : State) (p : Nat) : Option (Nat × Bool) :=
  (s.part p).recs.findSome? fun r => match r.verdict with
    | some v => if s.verdictHeld p r v then none else some (r.seq, v)
    | none => none

/-- A write of the replay register (R243). -/
def State.writeReplay (s : State) (p : Nat) (x : Word) : State :=
  if 2 ≤ bitsOf x 63 62 then s else (s.modPart p fun q => { q with replay := x }).verdict p (bitsOf x 31 0) (x.getLsbD 62)

/-! ### Soft pre-emption (R246) -/

/-- Is it a grid that a soft stop stops: top-level, not over, with undispatched blocks? (Log entry 26, DEDUCED.) -/
def State.stoppable (s : State) (g : Grid) : Bool :=
  g.launcher.isNone && g.fault.isNone && !g.ended && decide (g.lowest (s.ncl g.part) < g.total)

/-- The grids of a partition, by number. -/
def State.gridsOf (s : State) (p : Nat) (which : Grid → Bool) : List Nat :=
  (s.grids.filter fun e => e.2.part = p && which e.2).map Prod.fst

/-- Each stopped grid of a partition dispatches on from its lowest undispatched block (R383). -/
def State.resumeGrids (s : State) (p : Nat) : State :=
  (s.gridsOf p fun g => g.st = .stopped).foldl (fun (s : State) g =>
    s.modLaunched g fun x => { x with st := if x.start.isSome then .running else .queued }) s

/-- Resume after a soft stop (R383). -/
def State.resumeSoft (s : State) (p : Nat) : State :=
  (s.modPart p fun q => { q with stage := .run, since := s.time.elapsed }).resumeGrids p

/-! ### Hard pre-emption (R247 to R250) -/

/-- The cores a partition's resident blocks stand on. -/
def State.coresOf (s : State) (p : Nat) : List Nat :=
  (((s.blocks.filter fun e => s.partOf e.2 = p).map fun e => e.2.cores).flatten).eraseDups

/-- Kibibytes of Saddlebag a core's state takes, and those a die has (R249). -/
def coreKiB : Nat := 1664
def saddlebagKiB : Nat := 512 * 1024

/-- Is there room in every die's Saddlebag beside the partitions and the spilled contributions it holds? (R249, R393)
(Log entry 26, DEDUCED; log entry 31, DESIGN CHOICE.) -/
def State.saddlebagFits (s : State) (p : Nat) : Bool :=
  let others := (s.parts.filter fun e => e.1 ≠ p && e.2.stage = .saved).map fun e => s.coresOf e.1
  (List.range 4).all fun d =>
    let n := ((s.coresOf p).filter fun c => dieOfCore c = d).length + ((others.flatten).filter fun c => dieOfCore c = d).length
    let spilled := s.spilledOn d
    decide (n * coreKiB + (if spilled = 0 then 0 else (spilled * Config.spillBytes + 1023) / 1024) ≤ saddlebagKiB)

/-- May a hard request be made hard? (R248, R249) (Log entry 26, DEDUCED.) -/
def State.hardAllowed (s : State) (p : Nat) : Bool :=
  ((s.part p).hentry ≠ 0 || (s.gridsOf p fun g => !g.ended && g.kern.matrix ≠ 0).isEmpty) && s.saddlebagFits p

/-- Steps 1 to 5 begin: dispatch and issue stop, twins are squashed, channels are asked to halt (R247). -/
def State.freeze (s : State) (p : Nat) : State :=
  let s1 := s.modPart p fun q => { q with stage := .freeze, since := s.time.elapsed, drained := [] }
  let s2 := (s1.waves.filter fun e => e.2.part = p && e.2.twin.isNone && !e.2.forks.isEmpty).foldl
    (fun (s : State) e => s.squashForks e.1 10) s1
  s2.haltChans (fun c => c.part = p && c.halt = .none) .freeze

/-- The class field of the clause that a path stands at: of the one fetched, or as its header reads in memory, where it can be
read (R237). (Log entry 17, DEDUCED.) -/
def State.classAt (s : State) (w : Wave) (p : Path) : Nat := match p.clause with
  | some c => hdrClass c.hdr
  | none => match s.translate w.part (BitVec.ofNat 64 p.hdr) .fetch with
    | .ok x => hdrClass (s.codeWord w.grid x.pa)
    | .error _ => 0

/-- The path that a drain or restore entry takes: the one that goes on next, else the one that issued last, else any that
runs, else the first. (Log entry 18, DEDUCED.) -/
def Wave.drained_ (w : Wave) : Option Path :=
  (w.paths.find? w.mayRun).orElse fun _ => (w.runPath.bind w.path).orElse fun _ => (w.paths.find? w.runnable).orElse fun _ => w.paths.head?

/-- A matrix-role wave enters handler mode with code 0 (R248); `after` is taddr. (Log entry 17, DEDUCED; log entry 18, DEDUCED.) -/
def State.drainEntry (s : State) (w : Wave) (h : Part) (after : Word) : Wave :=
  match w.drained_ with
  | none => w
  | some p =>
    let f : FaultAt := ⟨0, p.lanes, after, p.hdr + 4 * p.idx, p.idx, s.classAt w p, false⟩
    let w1 := w.enterHandler p f h
    { w1 with trap := w1.trap.map fun t => { t with held := p.st, head := p.idx = 1 && p.head } }

/-- The matrix-role waves of a core that belong to a partition. (Log entry 26, DEDUCED.) -/
def State.matrixWaves (s : State) (p k : Nat) : List Nat :=
  (s.waves.filter fun e => e.2.part = p && e.2.core = k && e.2.role = 2 && e.2.twin.isNone).map Prod.fst

/-- A wave makes a drain entry (taddr 0) or a restore entry (1), or, in handler mode, owes it until it leaves (R248).
(Log entry 18, DEDUCED.) -/
def State.enterDrain (s : State) (p taddr wid : Nat) : State := match aget s.waves wid with
  | none => s
  | some w =>
    if w.trap.isSome then s.modPart p fun q => { q with drains := q.drains ++ [(wid, taddr)] }
    else s.modWave wid fun x => s.drainEntry x (s.part p) (BitVec.ofNat 64 taddr)

/-- The first entry owed by a wave of a core that has left handler mode is made. (Log entry 18, DEDUCED.) -/
def State.entryOwed (s : State) (p k : Nat) : State :=
  let due (e : Nat × Nat) : Bool := (aget s.waves e.1).all fun w => w.core = k && w.trap.isNone
  match (s.part p).drains.find? due with
  | none => s
  | some e => (s.modPart p fun q => { q with drains := q.drains.erase e }).enterDrain p e.2 e.1

/-- MATRIX_FREEZE: an engine of a partition that freezes freezes between chunks, and its waves run the drain entry, though
the engine may have been frozen before; when none freezes, an entry that a wave owes is made. -/
def State.freezeEngine (s : State) (k : Nat) : State :=
  let m := (s.core k).mx
  let p? := match (m.owner.bind fun b => aget s.blocks b).map s.partOf with
    | some p => some p
    | none => m.ops.head?.map MxOp.part
  match p? with
  | none => s
  | some p =>
    let q := s.part p
    if q.stage = .saved then s
    else if q.stage ≠ .freeze then s.entryOwed p k
    else if q.drained.contains k then s else
    let s1 := (s.modMx k fun m => { m with frozen := true }).modPart p fun q => { q with drained := k :: q.drained }
    (s1.matrixWaves p k).foldl (fun s w => s.enterDrain p 0 w) s1

/-- Does an operation wait for another agent, so that its path keeps its wait through a freeze (R247)? -/
def PendOp.keepsWait (o : PendOp) : Bool := match o.kind with
  | .ring .. | .send .. | .recv .. | .barWait .. | .futAwait .. | .ticket .. | .pop .. => true
  | _ => false

/-- The engines that work for a partition. -/
def State.enginesOf (s : State) (p : Nat) : Assoc Matrix :=
  (s.cores.filter fun e => ((e.2.mx.owner.bind fun b => aget s.blocks b).any fun b => s.partOf b = p) ||
    e.2.mx.ops.any fun o => o.part = p).map fun e => (e.1, e.2.mx)

/-- Is everything of the partition at rest: memory words complete, engines frozen by this freeze, drains over, channels
halted? -/
def State.atRest (s : State) (p : Nat) : Bool :=
  (s.waves.all fun e => e.2.part ≠ p || (e.2.queue.isEmpty && !e.2.draining && e.2.ops.all PendOp.keepsWait)) &&
  (s.chans.all fun e => e.2.part ≠ p || (e.2.halt = .none && e.2.st ≠ .running && e.2.st ≠ .waiting)) &&
  ((s.enginesOf p).all fun e => e.2.frozen && (s.part p).drained.contains e.1)

/-- A partition's windows as bytes of the one list of scratchpads. -/
def State.windowBytes (s : State) (p : Nat) : Sparse 8 :=
  let keys := ((s.blocks.filter fun e => s.partOf e.2 = p).map fun e => e.2.cores.map fun c => (scrKey c e.2.sbase, e.2.size)).flatten
  s.scr.filter fun e => keys.any fun k => decide (k.1 ≤ e.1) && decide (e.1 < k.1 + k.2)

/-- Does a lock belong to one of a partition's channels or engines? -/
def State.lockOf (s : State) (p : Nat) (l : Lock) : Bool :=
  if l.owner < 1152 then (s.chan l.owner).part = p
  else (s.enginesOf p).any fun e => mxOwner e.1 = l.owner

/-- Drop what a swap empties: TLB entries, L1 lines and predictors of the partition's cores, its pins (R46, R250). -/
def State.dropCaches (s : State) (p : Nat) : State :=
  let cores := s.coresOf p
  let m := s.msys
  let s1 := s.setMsys { m with
    tlb := m.tlb.filter (fun t => decide (t.part ≠ p))
    l1 := m.l1.filter (fun l => !cores.contains l.core)
    pins := m.pins.filter (fun k => !((aget s.grids k.grid).any fun g => g.part = p)) }
  { s1 with cores := s1.cores.map fun e => if cores.contains e.1 then (e.1, { e.2 with pred := [] }) else e }

/-- Are the cores and channels that a saved partition's blocks stood on free of other partitions? -/
def State.placesFree (s : State) (p : Nat) : Bool :=
  !s.othersOn p && (s.part p).chans.all fun e => !(s.chan e.1).busy

/-- A channel comes back to the state it was frozen in (R250, R278). -/
def Chan.thaw (c : Chan) : Chan := if c.st = .frozen then { c with st := c.stash } else c

/-- Apply the verdicts that waited, one after another (R250, R251). -/
def State.applyHeld (s : State) (p : Nat) : Nat → State
  | 0 => s
  | n + 1 => match s.heldVerdict p with
    | some (seq, v) => State.applyHeld (s.verdict p seq v) p n
    | none => s

/-! ### The events -/

/-- An event that concerns a partition. -/
def partEvent (f : State → Nat → State) (s : State) : Host.Outcome State Fault Refusal :=
  event (fun a s => match a with
    | .part p => f s p
    | _ => s) s

/-- FAULT_RECORD: a record is written (R241); a verdict that waited for its wave takes effect (R251). -/
def execFaultRecord (s : State) : Host.Outcome State Fault Refusal :=
  event (fun a s => match a with
    | .seq p n => (s.writeFRec p n).applyHeld p 1
    | _ => s) s

/-- VERDICT_REPLAY (R243). -/
def execVerdictReplay (s : State) : Host.Outcome State Fault Refusal :=
  event (fun a s => match a with
    | .seq p n => s.writeReplay p (BitVec.ofNat 64 (n % 2 ^ 32))
    | _ => s) s

/-- VERDICT_REFUSE (R243, R244). -/
def execVerdictRefuse (s : State) : Host.Outcome State Fault Refusal :=
  event (fun a s => match a with
    | .seq p n => s.writeReplay p (BitVec.ofNat 64 (2 ^ 62 + n % 2 ^ 32))
    | _ => s) s

/-- MATRIX_FREEZE (R247, R248). (Log entry 29, DEDUCED.) -/
def execMatrixFreeze (s : State) : Host.Outcome State Fault Refusal :=
  event (fun a s => match a with
    | .core k => s.freezeEngine k
    | _ => s) s

end Sys2Proof.Machine
end

