-- ==== Sys2Proof/Machine/Partition.lean ====
section
/-!
DEFINITION. Partitions: enable, reset and disable (R12, R400 to R402), and the resets of the module (R416, R419).
-/
namespace Sys2Proof.Machine

/-! ### Enable (R400, R401) -/

/-- The bits of dword `i` of a partition's entry that are fields (R400). -/
def entryMask : Nat → Word
  | 1 => 0x000FFFFFFFFFF000
  | 2 | 3 | 4 | 5 => 0xFFFFFFFFC0000000
  | 6 | 7 => 0xFFFFFFFFFFFFFFFF
  | 8 => 0xFFFF
  | 9 => 0x3FF000007FF
  | 10 => 0xFFFFFFFF
  | 11 => 0xFFFFFFFF0000001F
  | 12 => 3
  | _ => 0

def Part.reservedBad (p : Part) : Bool := (List.range 15).any fun i => sget p.entry (i + 1) &&& ~~~entryMask (i + 1) ≠ 0

/-- A range that lies outside stacked DRAM and LPDDR. -/
def rangeOutside (r : Nat × Nat) : Bool := r.2 ≠ 0 && (match region r.1, region (r.1 + r.2 - 1) with
  | .dram d, .dram e => decide (d ≠ e)
  | .lpddr, .lpddr => false
  | _, _ => true)

def Part.group (p : Part) : Nat := bitsOf (sget p.entry 11) 4 0
def Part.qbase (p : Part) : Nat := bitsOf (sget p.entry 9) 41 32
def Part.qcount (p : Part) : Nat := bitsOf (sget p.entry 9) 10 0
/-- The shares of slices, matrix time and Cinch bandwidth. -/
def Part.shares (p : Part) : List Nat := [bitsOf (sget p.entry 10) 31 24, bitsOf (sget p.entry 10) 23 16, bitsOf (sget p.entry 10) 15 8]

/-- The other partitions that run. -/
def State.othersRunning (s : State) (p : Nat) : List Part := (s.parts.filter fun e => e.1 ≠ p && e.2.state = 1).map Prod.snd
/-- The other partitions that are not off. -/
def State.othersUp (s : State) (p : Nat) : List Part := (s.parts.filter fun e => e.1 ≠ p && e.2.state ≠ 0).map Prod.snd

/-- Does the module refuse the enable? Queue numbers that would pass 1,023 are no such reason, as R400 and R401 name none: they
show modulo 1,024. (Log entry 46, DEDUCED.) -/
def State.enableBad (s : State) (p : Nat) : Bool :=
  let q := s.part p
  let others := s.othersRunning p
  q.reservedBad || q.ranges.any rangeOutside ||
  (others.any fun r => r.qcount ≠ 0 && q.qcount ≠ 0 && overlaps r.qbase r.qcount q.qbase q.qcount) ||
  (others.any fun r => r.group ≠ q.group && r.clusters.any fun c => q.clusters.contains c) ||
  (List.range 3).any fun i => decide (256 < (others.map fun r => r.shares.getD i 0).foldl (· + ·) (q.shares.getD i 0))

/-- Dword 0 of an entry: err and state. -/
def entryWord (err : Bool) (st : Nat) : Word := BitVec.ofNat 64 ((if err then 2 ^ 16 else 0) + st * 2 ^ 8)

def Part.setState (p : Part) (err : Bool) (st : Nat) : Part := { p with entry := sset p.entry 0 (entryWord err st) }

/-- A partition that is off has its context at the reset values, as its next configuration finds it (R3, R361), and no
breakpoints. Its replay register, its queues' descriptors, heads, tails and record indices, its pre-emption register and its
vectors keep their values: no rule names a reset that returns them to their own. (Log entry 25, DEDUCED.) -/
def Part.turnedOff (p : Part) : Part := { p.setState false 0 with ctx := [], toOff := false, breaks := [] }

/-- Cores and channels of the partition's clusters that no other partition shares start afresh (R20, R278); of a shared core
the predictor's entries are invalid and the fork counts 0, as at every partition start (R193, R205).
(Log entry 25, DEDUCED.) -/
def State.freshClusters (s : State) (p : Nat) : State :=
  let others := s.othersUp p
  let all := (s.part p).clusters
  let mine := all.filter fun c => !others.any fun r => r.clusters.contains c
  let restart (e : Nat × Core) : Nat × Core :=
    if all.contains (e.1 / 4) then (e.1, { e.2 with pred := [], committed := 0, squashed := 0, plain := 0 }) else e
  { s with
    cores := (s.cores.filter fun e => !mine.contains (e.1 / 4)).map restart
    chans := s.chans.filter fun e => !mine.contains (e.1 / 8) }

/-- PARTITION_ENABLE: cmd 1 in state 0. Its state becomes 1, and nothing of its register page
changes. (Log entry 25, DEDUCED.) -/
def State.enablePart (s : State) (p : Nat) : State :=
  let q := s.part p
  if !s.hw.ready || s.hw.off || q.state ≠ 0 then s
  else if s.enableBad p then s.setPart p (q.setState true 0)
  else (s.freshClusters p).setPart p { q.setState false 1 with since := s.time.elapsed }

/-! ### Reset and disable (R12, R401, R402) -/

/-- Every queue that is not DISABLED goes to ABORTED, and no queue writes a record of what went before.
(Log entry 22, DEDUCED.) -/
def Queue.abort (q : Queue) : Queue :=
  let q1 := { q with recs := [], owed := [], lrecs := [], lseq := 0, rseq := 0 }
  if q.st = .disabled then q1 else
  { q1 with st := .aborted, code := qerrAbort, offset := 0, gang := [], pipes := [], off := false }

/-- Gangs with a part in a partition that is reset carry QERR_ABORT; one whose other parts are all over has its one record
written, unless its queue has been aborted too (R378, R402). -/
def State.abortGangs (s : State) (p : Nat) (gone : List Grid) : State :=
  ((gone.filterMap Grid.gang).eraseDups).foldl (fun (s : State) n =>
    let mark (h : Grid) : Grid := if h.gang = some n then { h with gfault := some (qerrAbort, noBlock) } else h
    let s1 : State := { s with grids := s.grids.map fun e => (e.1, mark e.2) }
    match gone.find? fun g => g.gang = some n with
    | some g => match g.queue with
      | some j =>
        if g.qpart = p || g.quiet || s1.grids.any fun e => e.2.gang = some n && !e.2.ended then s1
        else s1.pushRec g.qpart j ⟨g.qgen, g.packet, g.tag, 0, qerrAbort, noBlock, 0, 0, true, []⟩
      | none => s1
    | none => s1) s

/-- The flows a partition owns (R402, R410). -/
def State.flowsOf (s : State) (p : Nat) : List Nat :=
  (List.range 255).filterMap fun i => if bitsOf (s.flowDw (i + 1) 0) 62 58 = p then some (i + 1) else none

/-- Engines of a partition drop everything, and its channels' and engines' locks are released. -/
def State.resetEngines (s : State) (p : Nat) : State :=
  let mine := s.enginesOf p
  let s1 := mine.foldl (fun (s : State) e => (s.modMx e.1 fun _ => Matrix.reset).dropLocks (mxOwner e.1)) s
  let s2 := s1.haltChans (fun c => c.part = p) .reset
  { s2 with chans := s2.chans.filter fun e => !(e.2.part = p && !e.2.busy) }

/-- Waves, blocks, grids, reductions and cactus objects of a partition go (R402). -/
def State.clearPart (s : State) (p : Nat) : State :=
  let dead := (s.grids.filter fun e => e.2.part = p).map Prod.snd
  let s1 := s.removeWaves fun w => w.part = p
  let s2 := s1.resetEngines p
  let cores := s2.coresOf p
  let ids := dead.map Grid.id
  let s3 := s2.setMsys { s2.msys with
    contribs := s2.msys.contribs.filter (fun c => !ids.contains c.grid)
    tlb := s2.msys.tlb.filter (fun t => decide (t.part ≠ p))
    l1 := s2.msys.l1.filter (fun l => !cores.contains l.core)
    pins := s2.msys.pins.filter (fun k => !ids.contains k.grid) }
  let s4 : State := { s3 with
    blocks := s3.blocks.filter fun e => !ids.contains e.2.grid
    grids := s3.grids.filter fun e => decide (e.2.part ≠ p) }
  s4.abortGangs p (dead.filter fun g => !g.ended)

/-- Begin a partition reset: state 2, and everything of R402 but the halt of the channels, which follows.
(Log entry 25, DEDUCED.) -/
def State.resetPart (s : State) (p : Nat) (off : Bool) : State :=
  let aborts := (s.part p).queues.any fun e => e.2.st ≠ .disabled
  let s1 := s.clearPart p
  let hw := s1.hw
  let mark (g : Grid) : Grid := if g.qpart = p then { g with quiet := true } else g
  let s2 : State := { s1 with
    grids := s1.grids.map fun e => (e.1, mark e.2)
    hw := { hw with muted := (s1.flowsOf p ++ hw.muted).eraseDups } }
  let s3 := s2.modPart p fun q => { (q.setState false 2) with
    queues := q.queues.map (fun e => (e.1, e.2.abort))
    recs := [], allocs := [], ready := [], walks := [], saves := [], stage := .run, nextReq := 0, resuming := false
    image := [], engines := [], locks := [], chans := [], drained := [], drains := [], toOff := off, imageBad := false }
  if aborts then s3.interrupt p 2 0 else s3

/-- PARTITION_RESET and PARTITION_DISABLE: cmd 2 and cmd 3 in state 1. -/
def State.askReset (s : State) (p : Nat) (off : Bool) : State := if (s.part p).state = 1 then s.resetPart p off else s

/-- PARTITION_RESET_COMPLETE: once its channels have halted, the partition runs again, or is off. (Log entry 25, DEDUCED.) -/
def State.resetDone (s : State) (p : Nat) : State :=
  let q := s.part p
  if q.state ≠ 2 || s.chans.any fun e => e.2.part = p && e.2.busy then s
  else if q.toOff then s.setPart p q.turnedOff
  else (s.freshClusters p).setPart p (q.setState false 1)

/-! ### Resets of the module (R408, R416, R419) -/

/-- A cold reset: memory of the host and of other modules is not the module's. -/
def State.coldReset (s : State) (firmwareOk memoryOk : Bool) : State :=
  { State.reset with
    turns := s.turns, fresh := s.fresh, nextId := s.nextId
    mem := s.mem.filter fun e => portMem e.1
    hw := { Module.reset with ready := firmwareOk && memoryOk, fwerr := !firmwareOk, memerr := firmwareOk && !memoryOk } }

/-- Are all dies cool enough to leave a critical trip? (R416) -/
def State.cool (s : State) : Bool := s.hw.mons.all fun e => decide (e.2.temp < 680)

def inSaddlebag (pa : Nat) : Bool := match region pa with
  | .saddlebag _ => true
  | _ => false

/-- A die's monitor starts again: what its map gives a reset value has it (R414, R419). -/
def Monitor.again (m : Monitor) : Monitor := { Monitor.reset with temp := m.temp, vcore := m.vcore, process := m.process }

/-- Is the module in bring-up: neither ready nor stopped by an error (R419)? -/
def Module.booting (m : Module) : Bool := !m.ready && !m.fwerr && !m.memerr

/-- A warm reset: every partition is reset and off, the Saddlebag regions are zeroed, the power cap and the monitors start
again, and stacked DRAM, LPDDR and the time keep their contents. During bring-up it is ignored; a bring-up that has stopped with an
error is over (R419). (Log entry 25, DEDUCED.) -/
def State.warmReset (s : State) (firmwareOk memoryOk : Bool) : State :=
  if s.hw.booting || (s.hw.off && !s.cool) then s else
  let s1 := (s.parts.map Prod.fst).foldl (fun (s : State) p => if (s.part p).state = 0 then s else s.resetPart p true) s
  let off (e : Nat × Part) : Nat × Part := (e.1, e.2.turnedOff)
  let m := s1.msys
  { s1 with
    parts := s1.parts.map off
    mem := s1.mem.filter fun e => !inSaddlebag e.1
    cores := [], chans := [], scr := []
    msys := { m with tlb := [], l1 := [], pins := [], locks := [], eccBad := [] }
    hw := { s1.hw with
      off := false
      cap := 4800
      mons := s1.hw.mons.map fun e => (e.1, e.2.again)
      ready := firmwareOk && memoryOk
      fwerr := !firmwareOk
      memerr := firmwareOk && !memoryOk } }

/-- CRITICAL_TRIP: every running partition is reset, and the dies are held off (R416). (Log entry 25, DEDUCED.) -/
def State.trip (s : State) (d temp : Nat) : State :=
  if temp < 920 then s else
  let s1 := (s.parts.map Prod.fst).foldl (fun (s : State) p =>
    if (s.part p).state = 1 then s.resetPart p true
    else s.modPart p fun q => if q.state = 2 then { q with toOff := true } else q) s
  let mark (m : Monitor) : Monitor := { m with temp := temp, trip := if m.trip / 8 % 2 = 1 then m.trip else m.trip + 8 }
  { s1 with hw := { s1.hw with off := true, mons := amod s1.hw.mons d mark } }

/-! ### The events -/

/-- PARTITION_ENABLE (R401). -/
def execPartitionEnable (s : State) : Host.Outcome State Fault Refusal := partEvent State.enablePart s
/-- PARTITION_RESET (R402). -/
def execPartitionReset (s : State) : Host.Outcome State Fault Refusal := partEvent (fun s p => s.askReset p false) s
/-- PARTITION_DISABLE (R401). -/
def execPartitionDisable (s : State) : Host.Outcome State Fault Refusal := partEvent (fun s p => s.askReset p true) s
/-- PARTITION_RESET_COMPLETE (R402). -/
def execPartitionResetComplete (s : State) : Host.Outcome State Fault Refusal := partEvent State.resetDone s

/-- COLD_RESET, with the outcome of the firmware check and of training (R419). -/
def execColdReset (s : State) : Host.Outcome State Fault Refusal :=
  event (fun a s => match a with
    | .boot f m => s.coldReset f m
    | _ => s) s

/-- WARM_RESET, with the outcome of the firmware check and of training (R419). -/
def execWarmReset (s : State) : Host.Outcome State Fault Refusal :=
  event (fun a s => match a with
    | .boot f m => s.warmReset f m
    | _ => s.warmReset true true) s

/-- CRITICAL_TRIP (R416). -/
def execCriticalTrip (s : State) : Host.Outcome State Fault Refusal :=
  event (fun a s => match a with
    | .die d temp => s.trip d temp
    | _ => s) s

end Sys2Proof.Machine
end

