-- ==== Sys2Proof/Machine/Swap.lean ====
section
/-!
DEFINITION. A partition's swap out of and back into the Saddlebag (R249, R250), the requests of the pre-emption register
(R246, R375, R383) and their events.
-/
namespace Sys2Proof.Machine

/-! ### Restore (R248, R250, R417) -/

/-- Restore a partition from the Saddlebag to the same places: its cores' L1 and predictors are empty, verdicts written
meanwhile take effect, its matrix-role waves enter with taddr 1, and stopped grids dispatch on (R248, R250, R383). An
uncorrectable error in the image resets the partition instead (R417). (Log entry 26, DEDUCED.) -/
def State.restore (s : State) (p : Nat) : State :=
  if (s.part p).stage ≠ .saved || !s.placesFree p then s else
  if (s.part p).imageBad then s.resetPart p false else
  let q := s.part p
  let keys := ((s.blocks.filter fun e => s.partOf e.2 = p).map fun e => e.2.cores.map fun c => (scrKey c e.2.sbase, e.2.size)).flatten
  let cleared := s.scr.filter fun e => !keys.any fun k => decide (k.1 ≤ e.1) && decide (e.1 < k.1 + k.2)
  let s1 : State := { s with
    scr := q.image.foldl (fun m e => sset m e.1 e.2) cleared
    chans := q.chans.foldl (fun m e => aset m e.1 e.2.thaw) s.chans }
  let s2 := q.engines.foldl (fun (s : State) e => s.modMx e.1 fun _ => { e.2 with frozen := true }) s1
  let s3 := s2.setMsys { s2.msys with locks := s2.msys.locks ++ q.locks }
  let s4 := s3.setPart p
    { q with stage := .run, since := s.time.elapsed, resuming := false, image := [], engines := [], locks := [], chans := [] }
  let s5 := (s4.dropCaches p).applyHeld p q.recs.length
  (q.engines.foldl (fun (s : State) e => (s.matrixWaves p e.1).foldl (fun s w => s.enterDrain p 1 w) s) s5).resumeGrids p

/-! ### Requests (R383) -/

/-- A request of a partition that is not in the Saddlebag: 1 soft stop, 2 hard pre-emption, 3 resume. One made while another
is not finished replaces it once that one finishes. (Log entry 26, DEDUCED.) -/
def State.requestHere (s : State) (p n : Nat) : State := match (s.part p).stage, n with
  | .run, 1 => s.modPart p fun q => { q with stage := .soft }
  | .run, 2 | .stopped, 2 => if s.hardAllowed p then s.freeze p else s.modPart p fun q => { q with stage := .soft }
  | .stopped, 3 => s.resumeSoft p
  | .soft, k | .freeze, k => s.modPart p fun q => { q with nextReq := k }
  | _, _ => s

/-- The request that waited is made. (Log entry 26, DEDUCED.) -/
def State.nextBy (f : State → Nat → Nat → State) (s : State) (p : Nat) : State :=
  let n := (s.part p).nextReq
  if n = 0 then s else f (s.modPart p fun q => { q with nextReq := 0 }) p n

/-- A request. A resume of a saved partition waits until its places are free, and one made meanwhile waits for it.
(Log entry 26, DEDUCED.) -/
def State.request (s : State) (p n : Nat) : State :=
  let q := s.part p
  if q.stage ≠ .saved then s.requestHere p n
  else if n = 3 && s.placesFree p then (s.restore p).nextBy State.requestHere p
  else if q.resuming then s.setPart p { q with nextReq := n }
  else if n = 3 then s.setPart p { q with resuming := true }
  else s

def State.nextRequest (s : State) (p : Nat) : State := s.nextBy State.request p

/-- SADDLEBAG_SAVE: return-stack caches are spilled, and scratchpad windows, engines, locks and channels leave the cores
(R249); then the request that waited is made. Waves, blocks and their registers stay in the state and are the
partition's. -/
def State.saveSaddlebag (s0 : State) (p : Nat) : State :=
  if (s0.part p).stage ≠ .freeze || !s0.atRest p then s0 else
  let s := ((s0.waves.filter fun e => e.2.part = p).map Prod.fst).foldl State.spillAll s0
  let mine := s.chans.filter fun e => e.2.part = p
  let engines := s.enginesOf p
  let locks := s.msys.locks.filter (s.lockOf p)
  let s1 := s.dropCaches p
  let s2 := s1.modPart p fun q =>
    { q with stage := .saved, image := s.windowBytes p, engines := engines, locks := locks, chans := mine, imageBad := false }
  let s3 := s2.setMsys { s2.msys with locks := s2.msys.locks.filter fun l => !s.lockOf p l }
  let s4 := engines.foldl (fun (s : State) e => s.modMx e.1 fun _ => Matrix.reset) s3
  ({ s4 with chans := s4.chans.filter fun e => decide (e.2.part ≠ p) } : State).nextRequest p

/-- Does a cooperative grid of the partition run? It is never stopped softly, so a soft stop waits for its end (R246). -/
def State.coopRuns (s : State) (p : Nat) : Bool := s.grids.any fun e => e.2.part = p && !e.2.ended && s.ofCoop e.1

/-- SOFT_STOP_COMPLETE: no block of the partition is resident any more; its grids are stopped, with the lowest
undispatched index in their launch records (R246). -/
def State.softDone (s : State) (p : Nat) : State :=
  if (s.part p).stage ≠ .soft || s.blocks.any (fun e => s.partOf e.2 = p) || s.coopRuns p then s else
  let s1 := s.modPart p fun q => { q with stage := .stopped }
  ((s1.gridsOf p s1.stoppable).foldl (fun (s : State) g => s.modLaunched g fun x => { x with st := .stopped }) s1).nextRequest p

/-- QUANTUM_EXPIRY: a resident partition that shares clusters with another of its group stops softly a quantum after its
first block became resident (R375, R400). (Log entry 26, DEDUCED.) -/
def State.quantumOver (s : State) (p : Nat) : State :=
  let q := s.part p
  let quantum := bitsOf (sget q.entry 11) 63 32
  let group (x : Part) : Nat := bitsOf (sget x.entry 11) 4 0
  let shares := s.parts.any fun e => e.1 ≠ p && e.2.state = 1 && group e.2 = group q && e.2.clusters.any fun c => q.clusters.contains c
  if q.state = 1 && q.stage = .run && quantum ≠ 0 && shares && (s.resident.any fun b => s.partOf b = p) && decide (quantum * 1000 ≤ (s.time.elapsed - q.since).toNat) then
    s.request p 1
  else s

/-- The earliest deadline of the DEADLINE grids of a partition that some condition holds of. -/
def State.earliest (s : State) (which : Grid → Bool) : Option Nat :=
  (s.grids.filter fun e => e.2.cls = 0 && e.2.fault.isNone && !e.2.ended && which e.2).foldl (fun (m : Option Nat) e => match m with
    | none => some e.2.deadline.toNat
    | some d => some (min d e.2.deadline.toNat)) none

/-- DEADLINE work of a queue whose hard bit is 1 takes the cores that its partition shares: each resident partition among
them is hard-pre-empted, unless it runs a DEADLINE grid with an earlier deadline (R375). -/
def State.takeOver (s : State) (p j : Nat) : State :=
  match s.earliest fun g => g.qpart = p && g.queue = some j && decide (g.lowest (s.ncl g.part) < g.total) with
  | none => s
  | some d =>
    if !(s.queue p j).hard || (s.part p).state ≠ 1 then s else
    let there := ((s.resident.map s.partOf).eraseDups).filter fun r => r ≠ p && s.share p r
    let keeps (r : Nat) : Bool := (s.earliest fun g => g.part = r && s.resident.any fun b => b.grid = g.id).any fun e => decide (e < d)
    (there.filter fun r => !keeps r).foldl (fun s r => s.request r 2) s

/-- A write of the pre-emption register (R383). -/
def State.writePreq (s : State) (p : Nat) (x : Word) : State :=
  (s.modPart p fun q => { q with preq := x }).request p (bitsOf x 1 0)

/-! ### The events -/

/-- SOFT_PREEMPTION: req 1 (R246, R383). -/
def execSoftPreemption (s : State) : Host.Outcome State Fault Refusal := partEvent (fun s p => s.request p 1) s
/-- HARD_PREEMPTION: req 2 (R247, R383), or the DEADLINE work of a queue takes shared cores (R375). -/
def execHardPreemption (s : State) : Host.Outcome State Fault Refusal :=
  event (fun a s => match a with
    | .part p => s.request p 2
    | .queue p j => s.takeOver p j
    | _ => s) s
/-- RESUME: req 3 (R250, R383). -/
def execResume (s : State) : Host.Outcome State Fault Refusal := partEvent (fun s p => s.request p 3) s
/-- SOFT_STOP_COMPLETE (R246). -/
def execSoftStopComplete (s : State) : Host.Outcome State Fault Refusal := partEvent State.softDone s
/-- SADDLEBAG_SAVE (R249). -/
def execSaddlebagSave (s : State) : Host.Outcome State Fault Refusal := partEvent State.saveSaddlebag s
/-- QUANTUM_EXPIRY (R375). -/
def execQuantumExpiry (s : State) : Host.Outcome State Fault Refusal := partEvent State.quantumOver s

end Sys2Proof.Machine
end

