-- ==== Sys2Proof/Machine/Ingress.lean ====
section
/-!
DEFINITION. Stamped ingress (R407 to R411), its clock (R408), power and monitors (R413, R414).
-/
namespace Sys2Proof.Machine

/-! ### The flow table (R409, R410) -/

def State.setFlow (s : State) (n k : Nat) (x : Word) : State :=
  { s with hw := { s.hw with flows := sset s.hw.flows (8 * n + k) x } }

def flowEn : Nat := 63
def flowErr : Nat := 52
/-- Replace one bit. -/
def setBit (x : Word) (i : Nat) (b : Bool) : Word :=
  if b then x ||| BitVec.ofNat 64 (2 ^ i) else x &&& ~~~BitVec.ofNat 64 (2 ^ i)

/-- Does the entry refuse to be enabled with dword 0 `x`? -/
def State.flowBad (s : State) (n : Nat) (x : Word) : Bool :=
  let d1 := s.flowDw n 1
  bitsOf x 8 0 ≠ 0 || bitsOf d1 50 49 ≠ 0 || bitsOf d1 31 28 ≠ 0 || bitsOf (s.flowDw n 2) 63 48 ≠ 0 ||
    s.flowDw n 5 ≠ 0 || s.flowDw n 6 ≠ 0 || s.flowDw n 7 ≠ 0 || decide (bitsOf d1 55 51 < 6) || decide (16 < bitsOf d1 55 51) ||
    (s.part (bitsOf x 62 58)).state ≠ 1

/-- A write of an entry's dword 0. -/
def State.writeFlow0 (s : State) (n : Nat) (x : Word) : State :=
  let old := s.flowDw n 0
  if old.getLsbD flowEn then
    if x.getLsbD flowEn then s else s.setFlow n 0 (setBit x flowErr (old.getLsbD flowErr))
  else if !x.getLsbD flowEn then s.setFlow n 0 (setBit x flowErr (old.getLsbD flowErr))
  else if s.flowBad n x then s.setFlow n 0 (setBit (setBit x flowEn false) flowErr true)
  else
    let s1 := ((s.setFlow n 0 (setBit x flowErr false)).setFlow n 3 0).setFlow n 4 0
    let s2 := s1.zeroVia (bitsOf x 62 58) 0 (bitsOf x 51 9 * 512) 512
    { s2 with hw := { s2.hw with muted := s2.hw.muted.filter fun k => decide (k ≠ n) } }

/-! ### Matching a frame (R409, R410) -/

def byteAt (f : List Byte) (i : Nat) : Nat := (f.getD i 0).toNat
/-- Two octets, first high. -/
def half (f : List Byte) (i : Nat) : Nat := byteAt f i * 256 + byteAt f (i + 1)
/-- An IEEE 802.1Q tag follows the source address. (Log entry 45, PRESUMED.) -/
def tagged (f : List Byte) : Bool := half f 12 = 0x8100
/-- Where the EtherType stands, after at most one tag. (Log entry 45, PRESUMED.) -/
def etypeAt (f : List Byte) : Nat := if tagged f then 16 else 12
def macOf (f : List Byte) : Nat := (List.range 6).foldl (fun m i => m * 256 + byteAt f i) 0

/-- Where the UDP header of an IPv6 packet stands, behind at most `n` extension headers that do not fragment it.
(Log entry 45, PRESUMED.) -/
def udp6 (f : List Byte) : Nat → Nat → Nat → Option Nat
  | 0, _, _ => none
  | n + 1, next, h =>
    if next = 17 then some h
    else if next = 0 ∨ next = 43 ∨ next = 60 then udp6 f n (byteAt f h) (h + 8 * (byteAt f (h + 1) + 1))
    else none

/-- The UDP destination port of an unfragmented datagram over IPv4 or IPv6. (Log entry 45, PRESUMED.) -/
def udpPort (f : List Byte) : Option Nat :=
  let h := etypeAt f + 2
  if half f (etypeAt f) = 0x0800 then
    if byteAt f (h + 9) = 17 && half f (h + 6) % 0x4000 = 0 then some (half f (h + byteAt f h % 16 * 4 + 2)) else none
  else if half f (etypeAt f) = 0x86DD then
    (udp6 f 8 (byteAt f (h + 6)) (h + 40)).map fun u => half f (u + 2)
  else none

/-- Does an entry match a frame of a port? (Log entry 45, PRESUMED.) -/
def flowMatches (d0 d1 d2 : Word) (port : Nat) (f : List Byte) : Bool :=
  d0.getLsbD flowEn && (!d0.getLsbD 57 || bitsOf d1 48 48 = port) && (!d0.getLsbD 56 || bitsOf d1 47 32 = half f (etypeAt f)) &&
    (!d0.getLsbD 55 || (tagged f && bitsOf d1 27 16 = half f 14 % 0x1000)) && (!d0.getLsbD 54 || bitsOf d2 47 0 = macOf f) &&
    (!d0.getLsbD 53 || udpPort f = some (bitsOf d1 15 0))

/-- The lowest-numbered entry that matches. -/
def State.flowFor (s : State) (port : Nat) (f : List Byte) : Option Nat :=
  ((List.range 255).map (· + 1)).find? fun n => flowMatches (s.flowDw n 0) (s.flowDw n 1) (s.flowDw n 2) port f

/-! ### FRAME_ARRIVAL (R411) -/

/-- The bytes of a slot. -/
def slotBytes (port : Nat) (f : List Byte) (arrival : Word) (seq drops : Word) (lsize : Nat) : List Byte :=
  let sec := arrival.toNat / 1000000000
  let room := 2 ^ lsize - 32
  let cut := if room < f.length then 1 else 0
  bytesOfDwords [BitVec.ofNat 64 (sec % 2 ^ 32 * 2 ^ 32 + arrival.toNat % 1000000000),
    BitVec.ofNat 64 (port % 2 * 2 ^ 40 + cut * 2 ^ 32 + f.length % 2 ^ 16 * 2 ^ 16 + sec / 2 ^ 32 % 2 ^ 16), seq, drops] ++ f.take room

/-- The flow drops the frame. (Log entry 27, DEDUCED.) -/
def State.dropFrame (s : State) (n : Nat) : State :=
  (s.setFlow n 4 (s.flowDw n 4 + 1)).interrupt (bitsOf (s.flowDw n 0) 62 58) 3 0

/-- A frame of a flow: claim's count step, then the slot is written and posted, or the frame is dropped, as it is where a
dword or state byte of the ring is poisoned (R418).
(Log entry 27, DEDUCED.) -/
def State.postFrame (s0 : State) (n port : Nat) (f : List Byte) (arrival : Word) : State :=
  let s := s0.setFlow n 3 (s0.flowDw n 3 + 1)
  let p := bitsOf (s.flowDw n 0) 62 58
  let base := bitsOf (s.flowDw n 0) 51 9 * 512
  let lsize := bitsOf (s.flowDw n 1) 55 51
  let slots := bitsOf (s.flowDw n 1) 63 56 + 1
  if s.hw.muted.contains n then s.dropFrame n else
  match s.objXlat p (BitVec.ofNat 64 base) .atomic with
  | .error _ => s.dropFrame n
  | .ok x =>
    if s.poisoned (.glob x.pa) 8 then s.dropFrame n else
    let c := s.dword x.pa
    let i := c.toNat % slots
    let phase := c.toNat / slots % 2 = 1
    let s1 := (s.touch p x true).setDword x.pa (c + 1)
    let b := s1.slotByte x.pa i
    if s1.slotSpoiled x.pa i || !byteOk b || byteFull b || bytePhase b ≠ decide phase then s1.dropFrame n else
    match s1.writeVia p (BitVec.ofNat 64 (base + 512 + i * 2 ^ lsize)) (slotBytes port f arrival (s.flowDw n 3) (s.flowDw n 4) lsize)
        .store 0 with
    | .error _ => s1.dropFrame n
    | .ok s2 => s2.setSlotByte x.pa i (mkByte true (bytePhase b))

/-- A frame arrives at a port, and is stamped with device time (R407, R411). -/
def State.frameIn (s : State) (port : Nat) (f : List Byte) : State :=
  if 9216 < f.length then s else
  match s.flowFor port f with
  | some n => s.postFrame n port f s.time.dev
  | none =>
    let c := s.flowDw 0 (port % 2)
    s.setFlow 0 (port % 2) (if c = BitVec.allOnes 64 then c else c + 1)

/-! ### Device time (R408) -/

def timeState (x : Word) : Nat := bitsOf x 1 0
def setTimeState (x : Word) (n : Nat) : Word := (x &&& ~~~3#64) ||| BitVec.ofNat 64 n

/-- A write of the time status register: stepped is cleared by writing 1, and the client restarts on the port.
(Log entry 27, DEDUCED.) -/
def State.writeTime (s : State) (x : Word) : State :=
  let old := s.time.status
  let a := setBit (setBit old 11 (old.getLsbD 11 && !x.getLsbD 11)) 8 (x.getLsbD 8)
  { s with time := { s.time with status := if timeState old = 1 then setTimeState a 2 else a } }

/-- Nanoseconds between two times. -/
def apart (a b : Word) : Nat := min (a - b).toNat (b - a).toNat

/-- The correction of device time's rate that the client makes: any, within 500 parts per million.
(Log entry 4, DESIGN CHOICE.) -/
def State.freeRate (s : State) : Int := ((Config.freeWord s.fresh (2 ^ 60)).toNat % 1000001 : Nat) - 500000

/-- The client hears from a grandmaster whose time is `ptp`: it locks, with a step at the first lock or at an offset beyond
1 ms; every other correction, and those while locked, adjust the rate. (Log entry 4, DESIGN CHOICE.) -/
def State.lock (s : State) (ptp : Word) : State :=
  let t := s.time
  let step := timeState t.status = 0 || (timeState t.status = 2 && decide (1000000 < apart ptp t.dev))
  let status := setTimeState (if step then setBit t.status 11 true else t.status) 1
  { s with
    time := { t with dev := if step then ptp else t.dev, rate := s.freeRate, status := status }
    fresh := s.fresh + 1 }

/-- The grandmaster is lost: device time goes on at its last rate. -/
def State.holdover (s : State) : State :=
  if timeState s.time.status = 1 then { s with time := { s.time with status := setTimeState s.time.status 2 } } else s

/-! ### Power and monitors (R413, R414) -/

def State.modMon (s : State) (d : Nat) (f : Monitor → Monitor) : State :=
  { s with hw := { s.hw with mons := amod s.hw.mons d f } }

/-- A write of the power cap. -/
def State.writeCap (s : State) (x : Word) : State :=
  { s with hw := { s.hw with cap := max 1200 (min 4800 (bitsOf x 15 0)) } }

/-- Set bit `i` of a small register. -/
def orBit (n i : Nat) : Nat := if n / 2 ^ i % 2 = 1 then n else n + 2 ^ i
def dropBit (n i : Nat) : Nat := if n / 2 ^ i % 2 = 1 then n - 2 ^ i else n

/-- The clock steps down by 100 MHz for a reason. (Log entry 24, DESIGN CHOICE.) -/
def Monitor.slow (m : Monitor) (i : Nat) : Monitor :=
  { m with fstep := max 12 (m.fstep - 1), reason := orBit m.reason i, trip := orBit m.trip i }
/-- A reason ends; with none left the clock is whole again. (Log entry 24, DESIGN CHOICE.) -/
def Monitor.free (m : Monitor) (i : Nat) : Monitor :=
  let r := dropBit m.reason i
  { m with reason := r, fstep := if r = 0 then 33 else m.fstep }

/-! ### The events -/

/-- An event of a die with a sensor reading. -/
def dieEvent (f : State → Nat → Nat → State) (s : State) : Host.Outcome State Fault Refusal :=
  event (fun a s => match a with
    | .die d r => f s d r
    | _ => s) s

/-- FLOW_ENABLE: a write of dword 0 of an entry (R410). -/
def execFlowEnable (s : State) : Host.Outcome State Fault Refusal :=
  event (fun a s => match a with
    | .flow n x => if n = 0 ∨ 255 < n then s else s.writeFlow0 n (setBit x flowEn true)
    | _ => s) s

/-- FLOW_DISABLE: a write of dword 0 that clears en (R410). -/
def execFlowDisable (s : State) : Host.Outcome State Fault Refusal :=
  event (fun a s => match a with
    | .flow n x => if n = 0 ∨ 255 < n then s else s.writeFlow0 n (setBit x flowEn false)
    | _ => s) s

/-- FRAME_ARRIVAL (R411). -/
def execFrameArrival (s : State) : Host.Outcome State Fault Refusal :=
  event (fun a s => match a with
    | .frame port f => s.frameIn port f
    | _ => s) s

/-- PTP_PORT_WRITE: a write of the time status register (R408). -/
def execPtpPortWrite (s : State) : Host.Outcome State Fault Refusal :=
  event (fun a s => match a with
    | .word x => s.writeTime x
    | _ => s) s

/-- PTP_LOCK (R408). -/
def execPtpLock (s : State) : Host.Outcome State Fault Refusal :=
  event (fun a s => match a with
    | .word x => s.lock x
    | _ => s) s

/-- PTP_HOLDOVER (R408). -/
def execPtpHoldover (s : State) : Host.Outcome State Fault Refusal := event (fun _ s => s.holdover) s

/-- POWER_CAP_WRITE (R413). -/
def execPowerCapWrite (s : State) : Host.Outcome State Fault Refusal :=
  event (fun a s => match a with
    | .word x => if s.hw.ready then s.writeCap x else s
    | _ => s) s

/-- POWER_CAP_STEP: a die's clock steps down while the module's power, the reading in W, exceeds the cap (R413). -/
def execPowerCapStep (s : State) : Host.Outcome State Fault Refusal :=
  dieEvent (fun s d w => s.modMon d fun m => if s.hw.cap < w then m.slow 1 else m.free 1) s

/-- THERMAL_WARNING: 95 °C or more, and on until the die is below 93 °C (R414). -/
def execThermalWarning (s : State) : Host.Outcome State Fault Refusal :=
  dieEvent (fun s d t => s.modMon d fun m =>
    if 760 ≤ t ∨ (744 ≤ t ∧ m.reason % 2 = 1) then { m.slow 0 with temp := t } else m) s

/-- THERMAL_WARNING_END: below 93 °C (R414). -/
def execThermalWarningEnd (s : State) : Host.Outcome State Fault Refusal :=
  dieEvent (fun s d t => if 744 ≤ t then s else s.modMon d fun m => { m.free 0 with temp := t }) s

/-- VOLTAGE_DROOP: the core supply in mV is more than 5 % below nominal (R414). (Log entry 24, DESIGN CHOICE.) -/
def execVoltageDroop (s : State) : Host.Outcome State Fault Refusal :=
  dieEvent (fun s d v => s.modMon d fun m =>
    if v * 100 < 95 * Config.nominalVcore then { m.slow 2 with vcore := v, droop := s.time.elapsed } else m) s

/-- Has 1 µs passed since a die's last droop? The bound scales with the die's clock (R414, R415). -/
def Monitor.droopOver (m : Monitor) (now : Word) : Bool := decide (33000 ≤ (now - m.droop).toNat * m.fstep)

/-- DROOP_END: 1 µs after a droop (R414). (Log entry 24, DESIGN CHOICE.) -/
def execDroopEnd (s : State) : Host.Outcome State Fault Refusal :=
  dieEvent (fun s d v => s.modMon d fun m => if m.droopOver s.time.elapsed then { m.free 2 with vcore := v } else m) s

end Sys2Proof.Machine
end

