-- ==== Sys2Proof/Machine/VecInt.lean ====
section
/-!
DEFINITION. The meanings of the integer, predicate and address words of class VEC (R127 to R143).
-/
namespace Sys2Proof.Machine

/-! ### Operand forms (R127, R35) -/

/-- vb, or a literal of a typed entry, which stands for every element. -/
def WCtx.vbT (c : WCtx) (o : OpsV) (t : IntTy) (w : Nat) (l : Nat) : Word := match o.lit with
  | some x => litInt t.signed w x
  | none => c.v l o.b
/-- vb, or a literal of an untyped entry, sign-extended. -/
def WCtx.vbS (c : WCtx) (o : OpsV) (l : Nat) : Word := match o.lit with
  | some x => litSext x
  | none => c.v l o.b
/-- vb, or a zero-extended literal. -/
def WCtx.vbZ (c : WCtx) (o : OpsV) (l : Nat) : Word := match o.lit with
  | some x => litZext x
  | none => c.v l o.b
/-- The fourth register, when the prefix supplies one. -/
def WCtx.fourth (c : WCtx) : Option (BitVec 7) := c.pfx.bind fun p => if p.has4 then some p.fourth else none
/-- The third input: the fourth register, or vd before the word. -/
def WCtx.third (c : WCtx) (d : BitVec 7) (l : Nat) : Word := c.v l (c.fourth.getD d)

/-- A VEC word that writes vd in every active lane with a value of the lane. -/
def vecOp (i : Instr) (o : OpsV) (f : WCtx → Nat → Word) (s : State) : Host.Outcome State Fault Refusal :=
  guarded i (fun c s => .ok (vecWrite c o.d.toNat (f c) s)) s

/-- A VEC word that writes predicate pd in every active lane. -/
def predOp (i : Instr) (o : OpsV) (f : WCtx → Nat → Bool) (s : State) : Host.Outcome State Fault Refusal :=
  guarded i (fun c s => .ok (predWrite c o.d.toNat (f c) s)) s

/-- ADD: sums per element, wrapped or saturated (R128). -/
def execAdd (t : IntTy) (o : OpsV) (s : State) : Host.Outcome State Fault Refusal :=
  vecOp (.add t o) o (fun c l => map2I t c.sat (· + ·) (c.v l o.a) (c.vbT o t t.width l)) s

/-- SUB: differences per element (R128). -/
def execSub (t : IntTy) (o : OpsV) (s : State) : Host.Outcome State Fault Refusal :=
  vecOp (.sub t o) o (fun c l => map2I t c.sat (· - ·) (c.v l o.a) (c.vbT o t t.width l)) s

/-- MUL: low halves of the products, or saturated (R129). -/
def execMul (t : IntTy) (o : OpsV) (s : State) : Host.Outcome State Fault Refusal :=
  vecOp (.mul t o) o (fun c l => map2I t c.sat (· * ·) (c.v l o.a) (c.vbT o t t.width l)) s

/-- MULHI: high halves of the products (R129). -/
def execMulhi (t : IntTy) (o : OpsV) (s : State) : Host.Outcome State Fault Refusal :=
  vecOp (.mulhi t o) o (fun c l => mulhiI t (c.v l o.a) (c.vbT o t t.width l)) s

/-- MIN (R131). -/
def execMin (t : IntTy) (o : OpsV) (s : State) : Host.Outcome State Fault Refusal :=
  vecOp (.min t o) o (fun c l => map2I t false min (c.v l o.a) (c.vbT o t t.width l)) s

/-- MAX (R131). -/
def execMax (t : IntTy) (o : OpsV) (s : State) : Host.Outcome State Fault Refusal :=
  vecOp (.max t o) o (fun c l => map2I t false max (c.v l o.a) (c.vbT o t t.width l)) s

/-- MAD: product plus third input, finished once (R130). -/
def execMad (t : IntTy) (o : OpsV) (s : State) : Host.Outcome State Fault Refusal :=
  vecOp (.mad t o) o (fun c l => madI t c.sat (c.v l o.a) (c.vbT o t t.width l) (c.third o.d l)) s

/-- AND (R132). -/
def execAnd (o : OpsV) (s : State) : Host.Outcome State Fault Refusal :=
  vecOp (.and o) o (fun c l => c.v l o.a &&& c.vbS o l) s

/-- OR (R132). -/
def execOr (o : OpsV) (s : State) : Host.Outcome State Fault Refusal :=
  vecOp (.or o) o (fun c l => c.v l o.a ||| c.vbS o l) s

/-- XOR (R132). -/
def execXor (o : OpsV) (s : State) : Host.Outcome State Fault Refusal :=
  vecOp (.xor o) o (fun c l => c.v l o.a ^^^ c.vbS o l) s

/-- ANDN: va AND NOT vb (R132). -/
def execAndn (o : OpsV) (s : State) : Host.Outcome State Fault Refusal :=
  vecOp (.andn o) o (fun c l => c.v l o.a &&& ~~~(c.vbS o l)) s

/-- NOT (R132). -/
def execNot (o : OpsV) (s : State) : Host.Outcome State Fault Refusal :=
  vecOp (.not o) o (fun c l => ~~~(c.v l o.a)) s

/-- POPC (R133). -/
def execPopc (t : IntTy) (o : OpsV) (s : State) : Host.Outcome State Fault Refusal :=
  vecOp (.popc t o) o (fun c l => map1N t.width (popcN t.width) (c.v l o.a)) s

/-- CLZ (R133). -/
def execClz (t : IntTy) (o : OpsV) (s : State) : Host.Outcome State Fault Refusal :=
  vecOp (.clz t o) o (fun c l => map1N t.width (clzN t.width) (c.v l o.a)) s

/-- BREV (R133). -/
def execBrev (t : IntTy) (o : OpsV) (s : State) : Host.Outcome State Fault Refusal :=
  vecOp (.brev t o) o (fun c l => map1N t.width (brevN t.width) (c.v l o.a)) s

/-- SEL: bit by bit under the third input (R132). -/
def execSel (o : OpsV) (s : State) : Host.Outcome State Fault Refusal :=
  vecOp (.sel o) o (fun c l => selW (c.v l o.a) (c.vbS o l) (c.third o.d l)) s

/-- SHL (R134). -/
def execShl (t : IntTy) (o : OpsV) (s : State) : Host.Outcome State Fault Refusal :=
  vecOp (.shl t o) o (fun c l => map2N t.width (shlN t.width) (c.v l o.a) (c.vbT o t t.width l)) s

/-- SHR, filling with zeros or the sign (R134). -/
def execShr (t : IntTy) (o : OpsV) (s : State) : Host.Outcome State Fault Refusal :=
  vecOp (.shr t o) o (fun c l => map2N t.width (shrT t) (c.v l o.a) (c.vbT o t t.width l)) s

/-- BFE: the field a control element names (R135). -/
def execBfe (t : IntTy) (o : OpsV) (s : State) : Host.Outcome State Fault Refusal :=
  vecOp (.bfe t o) o (fun c l => map2N t.width (bfeN t) (c.v l o.a) (c.vbT o t t.width l)) s

/-- BFI: a field of the third input replaced (R135). -/
def execBfi (t : IntTy) (o : OpsV) (s : State) : Host.Outcome State Fault Refusal :=
  vecOp (.bfi t o) o (fun c l => packElems t.width ((List.range (64 / t.width)).map fun k =>
    bfiN t.width (elem t.width (c.v l o.a) k) (elem t.width (c.vbT o t t.width l) k)
      (elem t.width (c.third o.d l) k))) s

/-- CMP.EQ on element 0 (R136). -/
def execCmpEq (t : IntTy) (o : OpsV) (s : State) : Host.Outcome State Fault Refusal :=
  predOp (.cmpEq t o) o (fun c l => cmpEqI t (c.v l o.a) (c.vbT o t t.width l)) s

/-- CMP.NE on element 0 (R136). -/
def execCmpNe (t : IntTy) (o : OpsV) (s : State) : Host.Outcome State Fault Refusal :=
  predOp (.cmpNe t o) o (fun c l => !cmpEqI t (c.v l o.a) (c.vbT o t t.width l)) s

/-- CMP.LT on element 0 (R136). -/
def execCmpLt (t : IntTy) (o : OpsV) (s : State) : Host.Outcome State Fault Refusal :=
  predOp (.cmpLt t o) o (fun c l => cmpLtI t (c.v l o.a) (c.vbT o t t.width l)) s

/-- CMP.LE on element 0 (R136). -/
def execCmpLe (t : IntTy) (o : OpsV) (s : State) : Host.Outcome State Fault Refusal :=
  predOp (.cmpLe t o) o (fun c l => cmpLeI t (c.v l o.a) (c.vbT o t t.width l)) s

/-- PAND (R137). -/
def execPand (o : OpsV) (s : State) : Host.Outcome State Fault Refusal :=
  predOp (.pand o) o (fun c l => c.pred l o.a.toNat && c.pred l o.b.toNat) s

/-- POR (R137). -/
def execPor (o : OpsV) (s : State) : Host.Outcome State Fault Refusal :=
  predOp (.por o) o (fun c l => c.pred l o.a.toNat || c.pred l o.b.toNat) s

/-- PXOR (R137). -/
def execPxor (o : OpsV) (s : State) : Host.Outcome State Fault Refusal :=
  predOp (.pxor o) o (fun c l => c.pred l o.a.toNat != c.pred l o.b.toNat) s

/-- PNOT (R137). -/
def execPnot (o : OpsV) (s : State) : Host.Outcome State Fault Refusal :=
  predOp (.pnot o) o (fun c l => !c.pred l o.a.toNat) s

/-- MOV of a register (R138). -/
def execMov (o : OpsV) (s : State) : Host.Outcome State Fault Refusal :=
  vecOp (.mov o) o (fun c l => c.v l o.a) s

/-- MOV of a literal (R138). -/
def execMovImm (o : OpsV) (s : State) : Host.Outcome State Fault Refusal :=
  vecOp (.movImm o) o (fun c l => c.vbS o l) s

/-- MOVS: a uniform register or literal into every active lane (R138). -/
def execMovs (o : OpsV) (s : State) : Host.Outcome State Fault Refusal :=
  vecOp (.movs o) o (fun c _ => match o.lit with
    | some x => litSext x
    | none => c.s o.b) s

/-- LID: the lane's number (R138). -/
def execLid (o : OpsV) (s : State) : Host.Outcome State Fault Refusal :=
  vecOp (.lid o) o (fun _ l => BitVec.ofNat 64 l) s

/-- MOVP (R137). -/
def execMovp (o : OpsV) (s : State) : Host.Outcome State Fault Refusal :=
  vecOp (.movp o) o (fun c l => boolW (c.pred l o.a.toNat)) s

/-- PTST (R137). -/
def execPtst (o : OpsV) (s : State) : Host.Outcome State Fault Refusal :=
  predOp (.ptst o) o (fun c l => decide (c.v l o.a &&& c.vbS o l ≠ 0)) s

/-- ADDC: the carry of a 64-bit sum (R139). -/
def execAddc (o : OpsV) (s : State) : Host.Outcome State Fault Refusal :=
  vecOp (.addc o) o (fun c l => carryW (c.v l o.a) (c.vbZ o l) (match c.fourth with | some r => (c.v l r).toNat % 2 | none => 0)) s

/-- SUBB: the borrow of a 64-bit difference (R139). -/
def execSubb (o : OpsV) (s : State) : Host.Outcome State Fault Refusal :=
  vecOp (.subb o) o (fun c l => borrowW (c.v l o.a) (c.vbZ o l) (match c.fourth with | some r => (c.v l r).toNat % 2 | none => 0)) s

/-- ABS (R140). -/
def execAbs (t : IntTy) (o : OpsV) (s : State) : Host.Outcome State Fault Refusal :=
  vecOp (.abs t o) o (fun c l => map1I t c.sat (fun x => max x (-x)) (c.v l o.a)) s

/-- NEG (R140). -/
def execNeg (t : IntTy) (o : OpsV) (s : State) : Host.Outcome State Fault Refusal :=
  vecOp (.neg t o) o (fun c l => map1I t c.sat (fun x => -x) (c.v l o.a)) s

/-- WID: the low elements widened (R141). -/
def execWid (t : IntTy) (o : OpsV) (s : State) : Host.Outcome State Fault Refusal :=
  vecOp (.wid t o) o (fun c l => widW t (c.v l o.a)) s

/-- NAR: two sources' elements narrowed (R142). -/
def execNar (t : IntTy) (o : OpsV) (s : State) : Host.Outcome State Fault Refusal :=
  vecOp (.nar t o) o (fun c l => narW t c.sat (c.v l o.a) (c.vbT o t (2 * t.width) l)) s

/-- LEA: base plus scaled index (R143). -/
def execLea (k : BitVec 2) (o : OpsV) (s : State) : Host.Outcome State Fault Refusal :=
  vecOp (.lea k o) o (fun c l => leaW k.toNat (c.v l o.a) (c.vbS o l)) s

end Sys2Proof.Machine
end

