-- ==== Sys2Proof/Machine/Lanes.lean ====
section
/-!
DEFINITION. The meanings of the cross-lane words and of FCTL.RD and FCTL.WR (R163 to R168).
-/
namespace Sys2Proof.Machine

/-- A shuffle (R164): each active lane whose source lane is active takes that lane's register. -/
def shuffle (i : Instr) (o : OpsV) (src : WCtx → Nat → Nat) (s : State) : Host.Outcome State Fault Refusal :=
  guarded i (fun c s => .ok (vecWriteOn c (c.lanes.filter fun l => inLanes c.act (src c l)) o.d.toNat
    (fun l => c.v (src c l) o.a) s)) s

/-- Operand k and code g of an immediate shuffle: the signed field, or the literal's two fields (R164). -/
def shufK (o : OpsV) : Int × Nat := match o.lit with
  | some x => ((x.extractLsb 6 0).toInt, (x.extractLsb 10 8).toNat)
  | none => (o.b.toInt, 0)

/-- SHFL: each lane names its source and subgroup in vb, or in a literal in its place, zero-extended (R164).
(Log entry 38, DEDUCED.) -/
def execShfl (o : OpsV) (s : State) : Host.Outcome State Fault Refusal :=
  shuffle (.shfl o) o (fun c l =>
    let x := c.vbZ o l
    let g := bitsOf x 34 32
    subLane (subWidth c.w.width (if g = 7 then 0 else g)) l (bitsOf x 31 0)) s

/-- SHFL.X: source position exclusive-or k (R164). -/
def execShflX (o : OpsV) (s : State) : Host.Outcome State Fault Refusal :=
  shuffle (.shflX o) o (fun c l =>
    let S := subWidth c.w.width (shufK o).2
    subLane S l ((l % S) ^^^ ((shufK o).1 % 128).toNat : Nat)) s

/-- SHFL.UP: k positions down (R164). -/
def execShflUp (o : OpsV) (s : State) : Host.Outcome State Fault Refusal :=
  shuffle (.shflUp o) o (fun c l =>
    let S := subWidth c.w.width (shufK o).2
    subLane S l ((l % S : Nat) - (shufK o).1)) s

/-- SHFL.DN: k positions up (R164). -/
def execShflDn (o : OpsV) (s : State) : Host.Outcome State Fault Refusal :=
  shuffle (.shflDn o) o (fun c l =>
    let S := subWidth c.w.width (shufK o).2
    subLane S l ((l % S : Nat) + (shufK o).1)) s

/-- BCAST: position k of the subgroup (R164). -/
def execBcast (o : OpsV) (s : State) : Host.Outcome State Fault Refusal :=
  shuffle (.bcast o) o (fun c l =>
    subLane (subWidth c.w.width (shufK o).2) l (shufK o).1) s

/-- REDUX: the fixed tree over the active lanes, its result in each of them (R165). -/
def execRedux (k : ReduxOp) (o : OpsV) (s : State) : Host.Outcome State Fault Refusal :=
  guarded (.redux k o) (fun c s =>
    let r := reduxW k c.w.width c.act c.ctl fun l => c.v l o.a
    .ok (vecWrite c o.d.toNat (fun _ => r) s)) s

/-- VOTE (R166). -/
def execVote (k : VoteOp) (o : OpsV) (s : State) : Host.Outcome State Fault Refusal :=
  guarded (.vote k o) (fun c s =>
    let r := voteW k c.act fun l => c.v l o.a
    .ok (vecWrite c o.d.toNat (fun _ => r) s)) s

/-- PERM: bytes rearranged within the lane (R167). -/
def execPerm (o : OpsV) (s : State) : Host.Outcome State Fault Refusal :=
  vecOp (.perm o) o (fun c l => permW (c.v l o.a) (c.vbS o l)) s

/-- FCTL.RD (R168). -/
def execFctlRd (o : OpsV) (s : State) : Host.Outcome State Fault Refusal :=
  vecOp (.fctlRd o) o (fun c l => c.fctl l) s

/-- FCTL.WR: bits [4:0] of va or of the literal (R168). -/
def execFctlWr (o : OpsV) (s : State) : Host.Outcome State Fault Refusal :=
  guarded (.fctlWr o) (fun c s =>
    let x (l : Nat) : Word := match o.lit with
      | some y => litZext y
      | none => c.v l o.a
    .ok (s.modWave c.w.id fun w => w.write c.t c.lat .fctl (c.lanes.map fun l => (l, x l)))) s

end Sys2Proof.Machine
end

