-- ==== Sys2Proof/Machine/Matrix.lean ====
section
/-!
DEFINITION. The meanings of the MTX words (R312 to R318) and of the matrix engine's own events (R306, R309).
-/
namespace Sys2Proof.Machine

/-! ### Accepting an operation (R298, R312) -/

/-- Is there room in the queue? -/
def Matrix.room (m : Matrix) : Bool := decide (m.ops.length < 16)

/-- The engine accepts an operation of the wave: it takes the next ticket. -/
def State.acceptOp (s : State) (c : WCtx) (b : Block) (kind : MxKind) : State := s.modMx c.w.core fun m =>
  let o : MxOp :=
    { ticket := m.accepted + 1, kind := kind, grid := c.w.grid, block := c.w.block, bidx := b.idx, part := c.w.part
      table := c.w.rings, cores := b.cores, base := (c.w.lreg 143).toNat, size := b.size, step := 1, chunk := 0 }
  { m with accepted := m.accepted + 1, ops := m.ops ++ [o] }

/-- The wave's block, which is there while the wave is. -/
def WCtx.onBlock (c : WCtx) (s : State) (f : Block → Res) : Res := match aget s.blocks c.w.block with
  | some b => f b
  | none => .hold

/-! ### MX.ISSUE (R305, R313) -/

/-- The parameter block at an Awl-style address, read as a uniform load: a global one is checked at orders 3, 4, 7 and 9 of
R209, one in scratchpad at orders 2, 4, 7 and 8. (Log entry 17, DEDUCED.) -/
def WCtx.mxBlock (c : WCtx) (s : State) (b : Block) (a : Word) (f : State → List Word → Res) : Res :=
  if a.getLsbD 63 then
    let l := bitsOf a 31 0
    let base := (c.w.lreg 143).toNat
    if bitsOf a 62 32 ≠ 0 ∨ l < base ∨ base + b.size < l + 64 then .fault cScratchBounds c.act a
    else if l % 64 ≠ 0 then .fault cMisaligned c.act a
    else if s.locked c.w.core true l 64 then .fault cRangeLock c.act a
    else if s.eccHit (.scr c.w.core l) 64 then .fault cScratchEcc c.act a
    else f s (dwordsOf (s.bytes (.scr c.w.core l) 64))
  else match s.laneX c.w.part a 64 .load with
    | .rights => .fault cAccessRights c.act a
    | r =>
      if a.toNat % 64 ≠ 0 then .fault cMisaligned c.act a
      else if s.locked c.w.core false a.toNat 64 then .fault cRangeLock c.act a
      else match r with
        | .ok l =>
          if l.any fun e => s.poisoned (.glob e.1.pa) e.2 then .fault cScratchEcc c.act a
          else f ((l.foldl (fun s e => s.touch c.w.part e.1 false) s).noteRefused c.w.part c.w.die (placesOf l))
            (dwordsOf (s.readRuns c.w.die (placesOf l)))
        | _ => c.parkAll s aRead a

/-- Rings that the operation uses: the action's and the gate's. -/
def mxRings (d : List Word) : List Nat :=
  (if mxAction d = 1 then [mxRingIdx d] else []) ++ if mxGate d then [mxGring d] else []

/-- A ring of R305's checks: its entry and whether its scope is .dev. -/
def WCtx.mxRing (c : WCtx) (s : State) (i : Nat) : Except ObjErr Ring :=
  match s.ring c.w.part c.w.die (BitVec.ofNat 64 c.w.rings) i false with
  | .ok (r, _) => .ok r
  | .error e => .error e

def ringErr : Except ObjErr Ring → Option ObjErr
  | .error e => some e
  | .ok _ => none
def ringDev : Except ObjErr Ring → Option Word
  | .ok r => if r.dev then some r.ent else none
  | .error _ => none

/-- Checks 2 and 3 of R305 over the rings' table entries. -/
def WCtx.mxRingCheck (c : WCtx) (s : State) (d : List Word) (f : Res) : Res :=
  let l := (mxRings d).map (c.mxRing s)
  match (if c.w.strict then l.findSome? ringDev else none) with
  | some a => .fault cAtomicScope c.act a
  | none => match l.findSome? ringErr with
    | some e => c.ofObj (α := Unit) s (.error e) fun _ => f
    | none => f

/-- MX.ISSUE: a release of the wave's earlier accesses (R124), the checks, and acceptance, which its path waits for
(R313). (Log entry 29, DEDUCED.) -/
def execMxIssue (o : OpsG) (s : State) : Host.Outcome State Fault Refusal :=
  guarded (.mxIssue o) (fun c s =>
    if !c.w.drained then .hold else
    let a := c.s o.a
    let x := c.s o.b
    let dA := bitsOf x 19 0
    let dB := bitsOf x 39 20
    c.onBlock s fun b => c.mxBlock s b a fun s1 d =>
      let base := (c.w.lreg 143).toNat
      if mxParamBad d dA dB then .fault cMxParam c.act a else
      c.mxRingCheck s1 d <|
        let big (n : Nat) : Bool := decide (0xFFFFF < n)
        let d' := mxDelta d dA dB
        if big ((mxA d).addr + dA) || big ((mxB d).addr + dB) || (mxA d').outside (mxK d) b.cores.length base b.size ||
            (mxB d').outside (mxK d) b.cores.length base b.size then .fault cMxOperand c.act a
        else if !(s1.core c.w.core).mx.room then .hold
        else .ok ((((s1.publish c.w.id c.act).acceptOp c b (.mul d' (bitsOf x 63 40))).answerWith c (.s o.d.toNat)
          [(0, BitVec.ofNat 64 ((s1.core c.w.core).mx.accepted + 1))]).pathWaits c)) s

/-! ### Operations on one tile (R315) -/

/-- MX.ZERO (R315). -/
def execMxZero (o : OpsG) (s : State) : Host.Outcome State Fault Refusal :=
  guarded (.mxZero o) (fun c s => c.onBlock s fun b =>
    if !(s.core c.w.core).mx.room then .hold
    else .ok ((s.acceptOp c b (.zero o.b.toNat)).answer c)) s

/-- MX.LOADACC and MX.STACC: a local scratchpad address, 4-byte aligned, with the tile's 16 KiB in the part; a thread
access's range locks do not concern the engine. (Log entry 16, DEDUCED.) -/
def tileOp (i : Instr) (o : OpsG) (kind : Nat → Nat → MxKind) (s : State) : Host.Outcome State Fault Refusal :=
  guarded i (fun c s => c.onBlock s fun b =>
    let a := c.s o.a
    let base := (c.w.lreg 143).toNat
    if a.toNat % 4 ≠ 0 then .fault cMisaligned c.act a
    else if a.toNat < base ∨ base + b.size < a.toNat + 16384 then .fault cMxOperand c.act a
    else if !(s.core c.w.core).mx.room then .hold
    else .ok ((s.acceptOp c b (kind o.d.toNat a.toNat)).answer c)) s

/-- MX.LOADACC (R315). -/
def execMxLoadacc (o : OpsG) (s : State) : Host.Outcome State Fault Refusal := tileOp (.mxLoadacc o) o .loadacc s
/-- MX.STACC (R315). -/
def execMxStacc (o : OpsG) (s : State) : Host.Outcome State Fault Refusal := tileOp (.mxStacc o) o .stacc s

/-! ### MX.POP (R307, R314) -/

/-- What lane `l` receives of row `i` of tile `t`. -/
def Matrix.rowOf (m : Matrix) (t i l : Nat) : Word :=
  let e (k : Nat) : Nat := (sget m.acc (accKey t i (2 * (l % 32) + k))).toNat
  BitVec.ofNat 64 (e 0 + e 1 * 2 ^ 32)

/-- Take the oldest row. -/
def State.popRow (s : State) (k : Nat) : State := s.modMx k fun m => { m with pops := m.pops.drop 1 }

/-- Does a matrix-role wave of the block run on the core? -/
def State.hasMatrixWave (s : State) (b core : Nat) : Bool :=
  (s.wavesOf b).any fun w => w.core = core && w.role = 2 && w.live ≠ 0

/-- MX.POP (R314): a row at once, or the path waits while the queue is empty, a switch point in strict mode (R311). -/
def execMxPop (o : OpsG) (s : State) : Host.Outcome State Fault Refusal :=
  guarded (.mxPop o) (fun c s =>
    let m := (s.core c.w.core).mx
    let d : RegName := .v o.d.toNat
    if !s.hasMatrixWave c.w.block c.w.core then .fault cMxParam c.act 0 else
    match m.pops with
    | (t, i) :: _ => .ok (((s.popRow c.w.core).acquire c.w).answerWith c d (c.lanes.map fun l => (l, m.rowOf t i l)))
    | [] => .ok (c.blocks s (s.addOp c (some 3) c.act 2 false (.pop c.w.core d) [d]))) s

/-! ### Freezing, draining and restoring (R309, R310, R316) -/

/-- A word that is legal only in handler mode. -/
def WCtx.inHandler (c : WCtx) (f : Res) : Res := if c.p.handler then f else .fault cMxParam c.act 0

/-- MX.FREEZE (R309, R316). -/
def execMxFreeze (o : OpsG) (s : State) : Host.Outcome State Fault Refusal :=
  guarded (.mxFreeze o) (fun c s => c.inHandler (.ok (s.modMx c.w.core fun m => { m with frozen := true }))) s

/-- MX.THAW (R316). -/
def execMxThaw (o : OpsG) (s : State) : Host.Outcome State Fault Refusal :=
  guarded (.mxThaw o) (fun c s => c.inHandler (.ok (s.modMx c.w.core fun m => { m with frozen := false }))) s

/-- An image's bytes (R310). -/
def imageLen : Nat := 135168

/-- Dword `i` of the tail, the form that only MX.RESTORE reads, of the engine state kept under a number: free, but the
first dwords of different numbers differ, as they must for a restore to find its drain (log entry 12, DESIGN CHOICE). -/
def tailWord (n i : Nat) : Word :=
  if i = 0 then Config.freeWord 1 (2 ^ 32) + BitVec.ofNat 64 n else Config.freeWord (2 * n + 1) (2 ^ 32 + i)

/-- The header's first three dwords. -/
def Matrix.header (m : Matrix) : List Word :=
  [BitVec.ofNat 64 (m.pops.length * 2 ^ 21 + m.ops.length * 2 ^ 16 + 1), BitVec.ofNat 64 m.accepted, BitVec.ofNat 64 m.completed]

/-- The image of a frozen engine, whose tail stands under number `n`. (Log entry 12, DESIGN CHOICE.) -/
def Matrix.image (m : Matrix) (n : Nat) : List Byte :=
  ((List.range 8).map (tileBytes m.acc)).flatten ++
    bytesOfDwords (m.header ++ List.replicate 5 0 ++ (List.range 504).map (tailWord n))

/-- The number under which an engine's state is kept: a second drain of the same state keeps its first number.
(Log entry 12, DESIGN CHOICE.) -/
def State.keepMx (s : State) (p : Nat) (m : Matrix) : Nat × State :=
  match (s.part p).imageMx.find? fun e => e.2 = m with
  | some e => (e.1, s)
  | none =>
    let n := (s.part p).imageMx.length
    (n, s.modPart p fun q => { q with imageMx := aset q.imageMx n m })

/-- The checks of an image's address (R209, R316), and the pages it covers. -/
def WCtx.image (c : WCtx) (s : State) (a : Word) (acc : Acc) (access : Nat) (f : List (Xlat × Nat) → Res) : Res :=
  if 2 ^ 52 < a.toNat + imageLen then .fault cAccessRights c.act a else
  let pages := (pageRuns a.toNat imageLen).map fun e => (e.1, e.2, s.translate c.w.part (BitVec.ofNat 64 e.1) acc)
  let refused (e : Nat × Nat × Except XErr Xlat) : Bool := match e.2.2 with
    | .ok x => regPage x
    | .error e => e = .rights
  if pages.any refused then .fault cAccessRights c.act a
  else if a.toNat % 4096 ≠ 0 then .fault cMisaligned c.act a
  else if s.locked c.w.core false a.toNat imageLen then .fault cRangeLock c.act a
  else match pages.find? isPageFault with
    | some e => c.parkAll s access (BitVec.ofNat 64 e.1)
    | none => f (pages.filterMap fun e => match e.2.2 with
      | .ok x => some (x, e.2.1)
      | .error _ => none)

/-- MX.DRAIN: freezes, and writes the image; its path waits until the die's ports have delivered an image to host or another
module's memory, so that it is performed at .dev before the word completes (R310, R316). (Log entry 9, DESIGN CHOICE.) -/
def execMxDrain (o : OpsG) (s : State) : Host.Outcome State Fault Refusal :=
  guarded (.mxDrain o) (fun c s => c.inHandler <|
    c.image s (c.s o.a) .store aWrite fun pages =>
      let m : Matrix := { (s.core c.w.core).mx with frozen := true }
      let (n, s1) := s.keepMx c.w.part m
      let s2 := s1.modMx c.w.core fun _ => m
      let s3 := pages.foldl (fun (s : State) e => s.touch c.w.part e.1 true) s2
      let s4 := s3.writeRuns ⟨c.w.die, c.w.part, c.w.grid⟩ (placesOf pages) (m.image n)
      .ok (if pages.any fun e => portMem e.1.pa then (s4.addOp c none c.act 0 false (.ports c.w.die) []).pathWaits c else s4)) s

/-- A header that MX.RESTORE refuses (R316). (Log entry 12, DESIGN CHOICE.) -/
def headerBad (d : List Word) : Bool :=
  bitsOf (dw d 0) 15 0 ≠ 1 || decide (16 < bitsOf (dw d 0) 20 16) || decide (512 < bitsOf (dw d 0) 30 21) ||
  bitsOf (dw d 0) 63 31 ≠ 0 || (List.range 5).any fun i => dw d (3 + i) ≠ 0

/-- The engine that an image restores: tiles and tickets from its bytes; operations and pop rows from the state kept
under the number whose tail the image holds, none when it holds no such tail (log entry 12, DESIGN CHOICE). -/
def State.imageOf (s : State) (p : Nat) (bs : List Byte) : Matrix :=
  let d := dwordsOf (bs.drop 131072)
  let tail := (d.drop 8).take 504
  let kept := ((s.part p).imageMx.find? fun e => (List.range 504).map (tailWord e.1) = tail).map Prod.snd
  let m := kept.getD Matrix.reset
  let words := (List.range 32768).map fun i => BitVec.ofNat 32 (ofBytes ((bs.drop (4 * i)).take 4))
  { m with acc := ssets [] 0 words, accepted := (dw d 1).toNat, completed := (dw d 2).toNat }

/-- MX.RESTORE: a frozen engine takes all its state from the image (R316). -/
def execMxRestore (o : OpsG) (s : State) : Host.Outcome State Fault Refusal :=
  guarded (.mxRestore o) (fun c s => c.inHandler <|
    c.image s (c.s o.a) .load aRead fun pages =>
      let old := (s.core c.w.core).mx
      if !old.frozen then .ok s else
      if pages.any fun e => s.poisoned (.glob e.1.pa) e.2 then .fault cScratchEcc c.act (c.s o.a) else
      let bs := s.readRuns c.w.die (placesOf pages)
      if headerBad ((dwordsOf (bs.drop 131072)).take 8) then .fault cMxParam c.act (c.s o.a) else
      let s1 := (pages.foldl (fun (s : State) e => s.touch c.w.part e.1 false) s).noteRefused c.w.part c.w.die (placesOf pages)
      .ok (s1.modMx c.w.core fun m => { s.imageOf c.w.part bs with owner := m.owner, frozen := true, parked := m.parked })) s

/-! ### Waiting and status (R317, R318) -/

/-- Wait until a ticket has completed; the wave keeps its block's issue (R311). -/
def WCtx.awaitTicket (c : WCtx) (s : State) (n : Nat) : Res :=
  if n ≤ (s.core c.w.core).mx.completed then .ok (s.acquire c.w)
  else .ok ((s.addOp c none c.act 2 false (.ticket c.w.core n) []).pathWaits c)

/-- MX.FENCE (R317). -/
def execMxFence (o : OpsG) (s : State) : Host.Outcome State Fault Refusal :=
  guarded (.mxFence o) (fun c s => c.awaitTicket s (s.core c.w.core).mx.accepted) s

/-- MX.WAIT (R317). -/
def execMxWait (o : OpsG) (s : State) : Host.Outcome State Fault Refusal :=
  guarded (.mxWait o) (fun c s =>
    if (s.core c.w.core).mx.accepted < (c.s o.a).toNat then .fault cMxParam c.act (c.s o.a)
    else c.awaitTicket s (c.s o.a).toNat) s

/-- The state field of MX.STAT: a parked engine reads 2, a frozen one 3 (R318, R420). (Log entry 16, DEDUCED.) -/
def Matrix.stateCode (m : Matrix) : Nat :=
  if m.parked.isSome then 2 else if m.frozen then 3 else match m.ops.head? with
  | none => 0
  | some o =>
    let waitsTile := o.step = 1 && m.holdsRow o.tile && (match o.kind with
      | .stacc _ _ => false
      | _ => true)
    if waitsTile || o.step = 2 || o.step = 3 then 2 else 1

/-- MX.STAT's word for selector 0. -/
def Matrix.statWord (m : Matrix) : Word :=
  let t := (m.ops.head?.map MxOp.tile).getD m.last
  BitVec.ofNat 64 (m.stateCode * 2 ^ 61 + m.ops.length * 2 ^ 56 + m.pops.length * 2 ^ 46 + t)

/-- MX.STAT (R318). -/
def execMxStat (o : OpsG) (s : State) : Host.Outcome State Fault Refusal :=
  guarded (.mxStat o) (fun c s =>
    let m := (s.core c.w.core).mx
    let x : Word := if o.b = 0 then m.statWord else if o.b = 1 then BitVec.ofNat 64 m.completed
      else if o.b = 2 then BitVec.ofNat 64 m.accepted else BitVec.ofNat 64 m.pops.length
    .ok (s.answerWith c (.s o.d.toNat) [(0, x)])) s

/-! ### The engine's events (R304, R306) -/

/-- An event of a core's engine. -/
def mxEvent (f : State → Nat → State) (s : State) : Host.Outcome State Fault Refusal :=
  event (fun a s => match a with
    | .core k => f s k
    | _ => s) s

/-- The granules that cover an operand (R306, step 3). -/
def MxOp.lockOf (o : MxOp) (k : Nat) (x : MxSide) (K : Nat) : Lock :=
  let lo := x.addr / 32 * 32
  ⟨o.cores.getD x.core 0, true, lo, (x.stop K + 31) / 32 * 32 - lo, mxOwner k⟩

/-- Step 3: both ranges enter their tables, and earlier admitted accesses are performed (R126, R306).
(Log entry 30, DEDUCED.) -/
def State.mxLockEntry (s : State) (k : Nat) : State := match s.mxHead k with
  | none => s
  | some o => match o.kind with
    | .mul d _ =>
      if o.step ≠ 3 || !(s.core k).mx.runs then s else
      let r := s.lockStep (mxOwner k) o.part [o.lockOf k (mxA d) (mxK d), o.lockOf k (mxB d) (mxK d)]
      if r.2 then r.1.mxStep k 4 else r.1
    | _ => s

/-- MATRIX_OPERATION_START: step 1 (R306). -/
def execMatrixOperationStart (s : State) : Host.Outcome State Fault Refusal := mxEvent State.mxStart s
/-- GATE_OBSERVE: step 2 (R306). -/
def execGateObserve (s : State) : Host.Outcome State Fault Refusal := mxEvent State.gateObserve s
/-- MATRIX_LOCK_ENTRY: step 3 (R306). -/
def execMatrixLockEntry (s : State) : Host.Outcome State Fault Refusal := mxEvent State.mxLockEntry s
/-- K_CHUNK: a chunk of step 4 (R64, R304). -/
def execKChunk (s : State) : Host.Outcome State Fault Refusal := mxEvent State.kChunk s
/-- MATRIX_COMPLETION: steps 5 to 7 (R306). -/
def execMatrixCompletion (s : State) : Host.Outcome State Fault Refusal := mxEvent (fun s k => s.mxComplete k 3) s

end Sys2Proof.Machine
end

