-- ==== Sys2Proof/Machine/Registers.lean ====
section
/-!
DEFINITION. The registers that the host and waves reach: a partition's register page (R243, R360, R361, R363, R383,
R403), the module configuration page (R400, R405, R406, R408, R410, R413, R414, R419), and the accesses that arrive
from outside the module (R398, R399, R406, R418).
-/
namespace Sys2Proof.Machine

/-- Put the bits of `x` that a mask names into `old`. -/
def blend (old x mask : Word) : Word := (old &&& ~~~mask) ||| (x &&& mask)

/-! ### A register page -/

/-- The bits of dword `i` of a partition context that are fields (R361). -/
def ctxMask : Nat → Word
  | 0 | 1 | 14 | 15 => 0x000FFFFFFFFFFFFF
  | 3 => 0x000FFFFFFFFFFFC0
  | 4 => 0x1F
  | 5 | 6 | 7 | 8 => 0x000FFFFFFFFFFF00
  | _ => 0xFFFFFFFF

def QueueSt.code : QueueSt → Nat
  | .disabled => 0
  | .idle => 1
  | .active => 2
  | .parked => 3
  | .error => 4
  | .aborted => 5

/-- The status dword of a queue's entry (R363). -/
def Queue.status (q : Queue) (qnum : Nat) : Word :=
  BitVec.ofNat 64 (q.st.code * 2 ^ 61 + q.code % 256 * 2 ^ 53 + q.offset % 1024 * 2 ^ 43 + qnum % 1024 * 2 ^ 32 + q.head % 2 ^ 32)

/-- A dword of a queue's entry. -/
def Queue.dword (q : Queue) (qnum k : Nat) : Word := match k with
  | 0 => BitVec.ofNat 64 (q.tail % 2 ^ 32)
  | 1 => q.desc
  | 2 => q.status qnum
  | _ => BitVec.ofNat 64 (q.chead % 2 ^ 32)

/-- Queue and dword of an offset in the entries. -/
def entryAt (off : Nat) : Nat × Nat := ((off - 0x100) / 32, (off - 0x100) % 32 / 8)

/-- The dword at an aligned offset of a partition's register page; offsets with no register read zero. -/
def State.readPage (s : State) (p off : Nat) : Word :=
  let q := s.part p
  if off < 0x80 then sget q.ctx (off / 8) &&& ctxMask (off / 8)
  else if off = 0x80 then q.replay &&& 0xC0000000FFFFFFFF
  else if off = 0x88 then q.preq &&& 3
  else if 0x100 ≤ off ∧ off < 0x8100 then
    let (j, k) := entryAt off
    if q.hasQueue j then (q.queue j).dword (q.qnum j) k else 0
  else if 0x9000 ≤ off ∧ off < 0x9040 then
    sget q.vecs ((off - 0x9000) / 8) &&& (if off / 8 % 2 = 0 then 0x000FFFFFFFFFFFFC else 0x80000000FFFFFFFF)
  else if off = 0x9040 then BitVec.ofNat 64 (q.pend % 16)
  else 0

/-- Is no queue of the partition enabled? One in ERROR or ABORTED is not (R361, R364). -/
def Part.quiet (p : Part) : Bool := !p.queues.any fun e => e.2.live

/-- A write of a vector's dword: clearing the mask of a pending vector sends its message (R403). (Log entry 27, DEDUCED.) -/
def State.writeVec (s : State) (p i : Nat) (x : Word) : State :=
  let q := s.part p
  let old := sget q.vecs i
  let s1 := s.setPart p { q with vecs := sset q.vecs i x }
  if i % 2 = 1 && old.getLsbD 63 && !x.getLsbD 63 && q.pend / 2 ^ (i / 2) % 2 = 1 then s1.sendMessage p (i / 2) else s1

/-- A queue's command (R364). -/
def State.queueCmd (s : State) (p j n : Nat) : State :=
  if n = 1 then s.enableQueue p j else if n = 2 then s.disableQueue p j else if n = 3 then s.resetQueue p j else s

/-- A write of a dword of a queue's entry, of the bits in `mask`. -/
def State.writeEntry (s : State) (p j k : Nat) (x mask : Word) : State :=
  let q := s.queue p j
  let new := blend (q.dword ((s.part p).qnum j) k) x mask
  if !(s.part p).hasQueue j then s
  else if k = 0 then (if mask.getLsbD 0 then s.doorbell p j (bitsOf new 31 0) else s)
  else if k = 1 then
    let s1 := s.setQueue p j { q with desc := new &&& 0xC00FFFFFFFFFFFC0 }
    if mask.getLsbD 63 then s1.queueCmd p j (bitsOf new 63 62) else s1
  else if k = 3 then s.setQueue p j { q with chead := bitsOf new 31 0 }
  else s

/-- A write of the bits in `mask` of the dword at an aligned offset of a partition's register page. -/
def State.writePage (s : State) (p off : Nat) (x mask : Word) : State :=
  let q := s.part p
  let new := blend (s.readPage p off) x mask
  if off < 0x80 then
    if off < 0x18 || q.quiet then s.setPart p { q with ctx := sset q.ctx (off / 8) new } else s
  else if off = 0x80 then s.writeReplay p new
  else if off = 0x88 then (if mask.getLsbD 0 then s.writePreq p new else s)
  else if 0x100 ≤ off ∧ off < 0x8100 then s.writeEntry p (entryAt off).1 (entryAt off).2 x mask
  else if 0x9000 ≤ off ∧ off < 0x9040 then s.writeVec p ((off - 0x9000) / 8) new
  else if off = 0x9040 then
    s.setPart p { q with pend := (BitVec.ofNat 64 q.pend &&& ~~~(x &&& mask)).toNat }
  else s

/-! ### The module configuration page -/

/-- A dword of a die's monitor block (R414). -/
def Monitor.dword (m : Monitor) : Nat → Word
  | 0 => BitVec.ofNat 64 (m.fstep % 256 * 2 ^ 40 + m.reason % 256 * 2 ^ 32 + m.temp % 2 ^ 16 * 2 ^ 16 + m.vcore % 2 ^ 16)
  | 1 => BitVec.ofNat 64 (m.process % 256 * 2 ^ 56 + m.trip % 16)
  | 2 => BitVec.ofNat 64 (m.cerr % 2 ^ 32)
  | _ => BitVec.ofNat 64 (m.uaddr % 2 ^ 52)

/-- The bits of dword `k` of a flow's entry that are fields (R410); the first entry holds two counts. -/
def flowMask (n k : Nat) : Word :=
  if n = 0 then (if k < 2 then 0xFFFFFFFFFFFFFFFF else 0) else match k with
  | 0 => 0xFFFFFFFFFFFFFE00
  | 1 => 0xFFF9FFFF0FFFFFFF
  | 2 => 0xFFFFFFFFFFFF
  | 3 | 4 => 0xFFFFFFFFFFFFFFFF
  | _ => 0

/-- The dword at an aligned offset of the configuration page; reserved bits read zero (R4). -/
def State.readModule (s : State) (off : Nat) : Word :=
  let h := s.hw
  let bit (b : Bool) (i : Nat) : Nat := if b then 2 ^ i else 0
  if off = 0 then BitVec.ofNat 64 (h.num % 256)
  else if off = 8 then BitVec.ofNat 64 (bit h.fwerr 2 + bit h.memerr 1 + bit h.ready 0)
  else if off = 0x10 then BitVec.ofNat 64 (h.cap % 2 ^ 16)
  else if off = 0x18 then s.time.status
  else if 0x1000 ≤ off ∧ off < 0x2000 then
    let i := (off - 0x1000) % 0x80 / 8
    let x := sget (s.part ((off - 0x1000) / 0x80)).entry i
    if i = 0 then x else x &&& entryMask i
  else if 0x2000 ≤ off ∧ off < 0x2400 then sget h.imports ((off - 0x2000) / 8)
  else if 0x3000 ≤ off ∧ off < 0x3100 then
    if (off - 0x3000) % 0x40 < 0x20 then ((aget h.mons ((off - 0x3000) / 0x40)).getD Monitor.reset).dword ((off - 0x3000) % 0x40 / 8) else 0
  else if 0x4000 ≤ off ∧ off < 0x8000 then
    sget h.flows ((off - 0x4000) / 8) &&& flowMask ((off - 0x4000) / 0x40) ((off - 0x4000) % 0x40 / 8)
  else 0

/-- A partition's command (R401). -/
def State.partCmd (s : State) (p n : Nat) : State :=
  if n = 1 then s.enablePart p else if n = 2 then s.askReset p false else if n = 3 then s.askReset p true else s

/-- A write of the bits in `mask` of the dword at an aligned offset of the configuration page. Writes before ready are
ignored, but for the warm bit of a bring-up that has stopped (R419). Bits of an import table's entry that R406 does not name are kept as written. (Log entry 41, DESIGN CHOICE.) -/
def State.writeModule (s : State) (off : Nat) (x mask : Word) : State :=
  let new := blend (s.readModule off) x mask
  let off? := s.parts.all fun e => e.2.state = 0
  if !s.hw.ready && off ≠ 8 then s
  else if off = 0 then (if off? then { s with hw := { s.hw with num := bitsOf new 7 0 } } else s)
  else if off = 8 then (if (x &&& mask).getLsbD 3 then s.warmReset true true else s)
  else if off = 0x10 then s.writeCap new
  else if off = 0x18 then (if mask.getLsbD 8 then s.writeTime x else s)
  else if 0x1000 ≤ off ∧ off < 0x2000 then
    let p := (off - 0x1000) / 0x80
    let i := (off - 0x1000) % 0x80 / 8
    if i = 0 then s.partCmd p (bitsOf (x &&& mask) 1 0)
    else if (s.part p).state = 0 then s.modPart p fun q => { q with entry := sset q.entry i (blend (sget q.entry i) x mask) }
    else s
  else if 0x2000 ≤ off ∧ off < 0x2400 then
    { s with hw := { s.hw with imports := sset s.hw.imports ((off - 0x2000) / 8) new } }
  else if 0x3000 ≤ off ∧ off < 0x3100 then
    let d := (off - 0x3000) / 0x40
    let k := (off - 0x3000) % 0x40 / 8
    if k = 1 then s.modMon d fun m => { m with trip := (BitVec.ofNat 64 m.trip &&& ~~~(x &&& mask)).toNat }
    else if k = 2 then s.modMon d fun m => { m with cerr := bitsOf new 31 0 }
    else s
  else if 0x4040 ≤ off ∧ off < 0x8000 then
    let n := (off - 0x4000) / 0x40
    let k := (off - 0x4000) % 0x40 / 8
    let new := blend (s.flowDw n k) x mask
    if k = 0 then s.writeFlow0 n new
    else if k = 3 ∨ k = 4 ∨ (k < 3 ∧ (s.flowDw n 0).getLsbD flowEn = true) then s
    else s.setFlow n k new
  else s

/-- A register write (R360, R398): `off` is rounded down to its dword. -/
def State.writeReg (s : State) (r : RegAddr) (x mask : Word) : State := match r with
  | .module off => s.writeModule (off / 8 * 8) x mask
  | .page p off => if p < 32 then s.writePage p (off / 8 * 8) x mask else s

/-- The bits that `n` bytes at an offset take in their dword. -/
def byteMask (off n : Nat) : Word := BitVec.ofNat 64 ((2 ^ (8 * n) - 1) * 2 ^ (8 * (off % 8)))
def atOffset (off : Nat) (bs : List Byte) : Word := BitVec.ofNat 64 (ofBytes bs * 2 ^ (8 * (off % 8)))

/-- Bytes written to a register's place: 4 or 8, aligned. (Log entry 28, DEDUCED.) -/
def State.writeRegBytes (s : State) (r : RegAddr) (off : Nat) (bs : List Byte) : State :=
  if (bs.length = 4 || bs.length = 8) && off % bs.length = 0 then s.writeReg r (atOffset off bs) (byteMask off bs.length) else s

/-- `n` bytes read from a register page. -/
def State.readPageBytes (s : State) (p off n : Nat) : List Byte :=
  bytesOf n ((s.readPage p (off / 8 * 8)).toNat / 2 ^ (8 * (off % 8)))

/-! ### Accesses from outside (R398, R399, R406, R418) -/

/-- What a host address of the Latigo map names: a register, or a place in memory. Addresses of the host window of
R90 stand for the host's own memory. -/
inductive HostAt where
  | reg (r : RegAddr) (off : Nat) | memory (pa : Nat) | none
deriving DecidableEq, Repr

/-- Log entry 28, DEDUCED. -/
def hostAt (a : Nat) : HostAt :=
  if a < 0x100000 then .reg (.module a) a
  else if a < 0x300000 then .reg (.page ((a - 0x100000) / 0x10000) (a % 0x10000)) a
  else if region a = .host then .memory a
  else if 0x1000000000000 ≤ a ∧ a < 0x1030000000000 then .memory (a - 0x1000000000000)
  else .none

/-- A posted host write, in the order of arrival (R399). (Log entry 9, DESIGN CHOICE; log entry 28, DEDUCED.) -/
def State.hostWrite (s : State) (a : Nat) (bs : List Byte) : State := match hostAt a with
  | .reg r off => s.writeRegBytes r off bs
  | .memory pa => if region pa = .hole then s else s.setBytes (.glob pa) bs
  | .none => s

/-- The running partition whose carve-out holds a byte. (Log entry 28, DEDUCED.) -/
def State.ownerOf (s : State) (pa : Nat) : Option Nat := (s.parts.find? fun e => e.2.state = 1 && e.2.carve pa 1).map Prod.fst

/-- A host read changes nothing, but that poison raises vector 2 of the owning partition (R418). -/
def State.hostRead (s : State) (a n : Nat) : State := match hostAt a with
  | .memory pa => if s.poisoned (.glob pa) n then match s.ownerOf pa with
      | some p => s.interrupt p 2 (homeDie pa)
      | none => s
    else s
  | _ => s

/-- Does the import table open a range to module `m`? (R406) -/
def State.imported (s : State) (m pa n : Nat) : Bool := (List.range 64).any fun i =>
  let d0 := sget s.hw.imports (2 * i)
  let d1 := sget s.hw.imports (2 * i + 1)
  let base := bitsOf d0 51 30 * 0x40000000
  decide (base ≤ pa) && decide (pa + n ≤ base + bitsOf d0 63 52 * 0x40000000) && (!d1.getLsbD 8 || bitsOf d1 7 0 = m) && localMem pa

/-- An access of another module: a refused store is discarded, a refused load or atomic changes nothing (R406). -/
def State.cinchIn (s : State) (m pa : Nat) (op : CinchOp) : State := match op with
  | .load _ => s
  | .store bs => if s.imported m pa bs.length then s.setBytes (.glob pa) bs else s
  | .atom f n x y =>
    if s.imported m pa n then
      s.setBytes (.glob pa) (bytesOf n (atomApply f n (BitVec.ofNat 64 (ofBytes (s.bytes (.glob pa) n))) x y).toNat)
    else s

/-! ### The events -/

/-- REGISTER_WRITE: 8 bytes (R360, R398). -/
def execRegisterWrite (s : State) : Host.Outcome State Fault Refusal :=
  event (fun a s => match a with
    | .reg r x => s.writeReg r x (BitVec.allOnes 64)
    | _ => s) s

/-- VECTOR_MASK_CLEAR: the mask bit of a vector is cleared (R403). -/
def execVectorMaskClear (s : State) : Host.Outcome State Fault Refusal :=
  event (fun a s => match a with
    | .queue p v => if v < 4 then s.writeVec p (2 * v + 1) (setBit (sget (s.part p).vecs (2 * v + 1)) 63 false) else s
    | _ => s) s

/-- HOST_WRITE (R398, R399). -/
def execHostWrite (s : State) : Host.Outcome State Fault Refusal :=
  event (fun a s => match a with
    | .write pa bs => s.hostWrite pa bs
    | _ => s) s

/-- HOST_READ (R398, R418). -/
def execHostRead (s : State) : Host.Outcome State Fault Refusal :=
  event (fun a s => match a with
    | .read pa n => s.hostRead pa n
    | _ => s) s

/-- CINCH_ACCESS (R406). -/
def execCinchAccess (s : State) : Host.Outcome State Fault Refusal :=
  event (fun a s => match a with
    | .cinch m pa op => s.cinchIn m pa op
    | _ => s) s

/-- CINCH_PORT_FAIL: the port drops out of the spread (R405). -/
def execCinchPortFail (s : State) : Host.Outcome State Fault Refusal :=
  event (fun a s => match a with
    | .port n =>
      if 36 ≤ n || s.hw.failed.contains n then s else { s with hw := { s.hw with failed := insertNat n s.hw.failed } }
    | _ => s) s

/-- DEBUG_READ: a debugger's read changes nothing (R260); its breakpoint at a clause header is set or deleted (R262). (Log
entry 28, DEDUCED.) (Log entry 49, DEDUCED.) (Log entry 28, DEDUCED.) -/
def execDebugRead (s : State) : Host.Outcome State Fault Refusal :=
  event (fun a s => match a with
    | .brk p a set => s.modPart p fun q =>
      { q with breaks := if set then insertNat a q.breaks else q.breaks.filter fun b => decide (b ≠ a) }
    | _ => s) s

end Sys2Proof.Machine
end

