-- ==== Sys2Proof/Machine/Service.lean ====
section
/-!
DEFINITION. The events of the memory system: service at home slices (R95, R98, R109, R118, R392, R397, R417, R418),
store queues (R111), ports (R120), L1 expiry (R117), and the completion of words of variable latency (R23, R43, R97).
-/
namespace Sys2Proof.Machine

/-! ### When an access may be served -/

/-- May a word of the wave act now: is its partition not in the Saddlebag? -/
def State.liveWave (s : State) (w : Nat) : Option Wave := match aget s.waves w with
  | some x => if s.away x.part then none else some x
  | none => none

def Wave.op (w : Wave) (id : Nat) : Option PendOp := w.ops.find? fun o => o.id = id
def Wave.setOp (w : Wave) (o : PendOp) : Wave := { w with ops := w.ops.map fun x => if x.id = o.id then o else x }

/-- A wave's accesses are performed in issue order, and a word that drains waits for the stores before it (R111, R113;
log entry 8, DESIGN CHOICE). -/
def Wave.mayServe (w : Wave) (o : PendOp) : Bool :=
  w.ops.all (fun x => decide (o.id ≤ x.id) || x.performed) && (!o.drain || w.queue.all fun e => decide (o.id < e.op))

/-! ### Uncorrectable errors (R103, R104, R417, R418) -/

/-- The sectors of a byte range. -/
def sectorsOf (pa n : Nat) : List Nat := (List.range ((pa % 32 + n + 31) / 32)).map fun i => pa / 32 + i

/-- An uncorrectable error arises: memory's sectors are poisoned and uaddr tells where; a scratchpad word is bad.
(Log entry 28, DEDUCED; log entry 33, DEDUCED.) -/
def State.spoil (s : State) (loc : Loc) (n : Nat) : State := match loc with
  | .glob pa => (s.setMsys { s.msys with poison := (sectorsOf pa n).foldl (fun l q => insertNat q l) s.msys.poison }).modMon (homeDie pa)
      fun m => { m with uaddr := pa }
  | .scr c a => s.setMsys { s.msys with eccBad := insertNat (scrKey c a / 8) s.msys.eccBad }

/-- Does a read of a place meet an uncorrectable error? (Log entry 33, DEDUCED.) -/
def State.spoiled (s : State) (loc : Loc) (n : Nat) : Bool := s.poisoned loc n || s.eccHit loc n

/-- Lanes of a wave met one: its block is killed; a twin holds the fault (R196). (Log entry 33, DEDUCED.) -/
def State.readError (s : State) (w : Wave) (lanes : Lanes) : State := match w.twin with
  | none => s.killBlock w.block
  | some t => if t.held.isSome then s else s.setWave { w with twin := some { t with held := some ⟨cScratchEcc, lanes, 0, 0, 0, 0⟩ } }

/-- An error in a register file of a wave (R417). (Log entry 33, DEDUCED.) -/
def State.fileError (s : State) (w : Nat) : State := match s.liveWave w with
  | some x => s.readError x x.live
  | none => s

/-- An error in an accumulator tile kills the block that owns the engine (R417). (Log entry 33, DEDUCED.) -/
def State.tileError (s : State) (core : Nat) : State := match (s.core core).mx.owner with
  | some b => s.killBlock b
  | none => s

/-- An error in the image of a partition that is saved (R417). (Log entry 33, DEDUCED.) -/
def State.imageError (s : State) (p : Nat) : State :=
  if (s.part p).stage = .saved then s.modPart p fun q => { q with imageBad := true } else s

/-- A corrected error is counted, and changes nothing else (R414, R417). -/
def State.corrected (s : State) (d : Nat) : State := s.modMon d fun m => { m with cerr := min (m.cerr + 1) (2 ^ 32 - 1) }

/-! ### Bytes (R98, R99, R117, R120, R360, R406) -/

/-- The bytes a wave's access reads at a place, before its own stores are laid over them; what a read past L1 returns, the
core's copy takes too, so that a later plain load of the thread reads nothing older (R108). -/
def State.serveRead (s : State) (w : Wave) (loc : Loc) (n : Nat) (l1 : Bool) : List Byte × State :=
  if s.refusedAt loc then (List.replicate n 0, s.interrupt w.part 2 w.die) else
  match loc with
  | .scr _ _ => (s.bytes loc n, s)
  | .glob pa => match region pa with
    | .page p off => (s.readPageBytes p off n, s)
    | _ => if l1 then s.l1Read w.core pa n fun a k => s.dieBytes w.die (.glob a) k else
      (s.dieBytes w.die loc n, s.l1Store w.core pa (s.dieBytes w.die loc n))

/-- A wave's write is performed at a place; other waves' forks of the core see it (R198, cause 4). -/
def State.serveWrite (s : State) (w : Wave) (loc : Loc) (bs : List Byte) : State :=
  match loc with
  | .scr _ _ => s.putBytes w loc bs
  | .glob pa => (match region pa with
    | .page p off => s.writeRegBytes (.page p off) off bs
    | _ => s.putBytes w loc bs)

/-- A wave's own stores that memory does not show yet, oldest first: its spills and its queue (R22, R111). -/
def Wave.unseen (w : Wave) : List StoreEnt := w.spills ++ w.queue

/-- The stores that a load of a lane of the wave sees before others do: a twin's are its parent's and its own; a spill only
its own thread sees (R22, R111, R194). -/
def State.seenStores (s : State) (w : Wave) (id lane : Nat) : List StoreEnt :=
  let seen (e : StoreEnt) : Bool := decide (e.op < id) && (!e.spill || e.lane = lane)
  match w.twin with
  | none => w.unseen.filter seen
  | some t => (((aget s.waves t.parent).map Wave.unseen).getD []).filter seen ++ t.buf.filter seen

/-! ### HOME_SLICE_SERVICE -/

/-- The sector of memory that a piece lies in; a piece in a register page or across sectors is served for itself. -/
def Piece.sector (p : Piece) : Option Nat := match p.loc with
  | .glob pa => (match region pa with
    | .page _ _ => none
    | _ => if pa / 32 = (pa + p.n - 1) / 32 then some (pa / 32) else none)
  | .scr _ _ => none

/-- Is a piece served together with piece `p`: does it still wait, and lie in the same sector (R95), or at the same place,
as every lane's of a load at a uniform address (R213)? -/
def Piece.with (p q : Piece) : Bool :=
  q.data.isNone && (p.sector.isSome && q.sector = p.sector || decide (q.loc = p.loc ∧ q.n = p.n))

/-- The piece, read: its bytes out of those of the sector that its word reads once, or as read for itself, with the
thread's own stores laid over them. -/
def Piece.read (own : Nat → List StoreEnt) (base : Nat) (sector : List Byte) (p : Piece) : Piece := match p.loc with
  | .glob pa => { p with data := some (forwardOver (own p.lane) p.loc ((sector.drop (pa - base)).take p.n)) }
  | .scr _ _ => p

/-- Serve piece `k` of a load, and with it every piece of the word that lies in the same sector: each sector is served once
for a word (R95). A callee's load meets its forks' load sets as it is served too (R198, cause 3), since a twin may have read
the bytes since the load's issue. (Log entry 8, DESIGN CHOICE.) (Log entry 19, DEDUCED.) -/
def State.serveLoad (s : State) (w : Wave) (o : PendOp) (k : Nat) (err : Bool) : State := match o.kind with
  | .load signed n dst l1 pieces => match pieces[k]? with
    | none => s
    | some p =>
      if p.data.isSome then s else
      let s0 := if err then s.spoil p.loc p.n else s
      if pieces.any fun q => p.with q && s0.spoiled q.loc q.n then s0.readError w o.lanes else
      let own := s.seenStores w o.id
      let (served, s1) := match p.sector with
        | some b =>
          let (bs, s1) := s0.serveRead w (.glob (32 * b)) 32 l1
          (pieces.map fun q => if p.with q then q.read own (32 * b) bs else q, s1)
        | none =>
          let (bs, s1) := s0.serveRead w p.loc p.n l1
          (pieces.map fun q => if p.with q then { q with data := some (forwardOver (own q.lane) q.loc bs) } else q, s1)
      let o1 := { o with kind := .load signed n dst l1 served }
      let s2 := (s1.modWave w.id fun x => x.setOp o1).touchForks w.id 3
        (((pieces.filter p.with).map fun q => granules q.loc q.n).flatten)
      if o.acq = 2 && o1.performed then s2.acquire w else s2
  | _ => s

/-- The write side of a step waits while the die's port holds a write of the same bytes (R120).
(Log entry 9, DESIGN CHOICE.) -/
def State.portHolds (s : State) (die : Nat) (loc : Loc) (n : Nat) : Bool := match loc with
  | .glob pa => s.msys.ports.any fun p => p.die = die && overlaps p.pa p.bytes.length pa n
  | .scr _ _ => false

/-- Perform an atomic step at its home slice: the old value and the state after it. The core's copy follows (R108), and the
wave's forks meet the step (R198, cause 2). -/
def State.serveAtom (s : State) (w : Wave) (f : AtomFn) (n : Nat) (a : AtomStep) : Word × State :=
  if s.refusedAt a.loc then (0, s.interrupt w.part 2 w.die) else
  let old := BitVec.ofNat 64 (ofBytes (s.bytes a.loc n))
  let new := bytesOf n (atomApply f n old a.x a.y).toNat
  let s1 := (s.setBytes a.loc new).wrote w.grid a.loc n
  (old, (match a.loc with
    | .glob pa => s1.l1Store w.core pa new
    | .scr _ _ => s1).touchForks w.id 2 (granules a.loc n))

/-- Keep a strict-mode contribution for its window (R224); with no room left its grid faults (R393).
(Log entry 31, DESIGN CHOICE.) -/
def State.contribute (s : State) (w : Wave) (f32 : Bool) (win q : Nat) (a : AtomStep) : State := match a.loc with
  | .glob pa =>
    if s.windowFull w.part pa then s.endGrid w.grid cAtomicScope (w.lreg 128) else
    let c : Contrib := ⟨w.grid, win, pa, f32, a.x, (w.lreg 128).toNat, w.idx, a.lane, q, w.block⟩
    s.setMsys { s.msys with contribs := s.msys.contribs ++ [c] }
  | .scr _ _ => s

/-- Serve the next lane's step of an atomic, a reduction or an ordered store, or of a refill, in ascending order of lanes.
(Log entry 8, DESIGN CHOICE.) -/
def State.serveStep (s : State) (w : Wave) (o : PendOp) (err : Bool) : State :=
  let put (s : State) (o1 : PendOp) : State :=
    let s1 := s.modWave w.id fun x => x.setOp o1
    if o.acq = 2 && o1.performed then s1.acquire w else s1
  let check (a : AtomStep) (n : Nat) (go : State → State) : State :=
    let s0 := (if err then s.spoil a.loc n else s).expose w.id a.lane a.loc n
    if s0.spoiled a.loc n then s0.readError w o.lanes else if s.portHolds w.die a.loc n then s else go s0
  match o.kind with
  | .atomic f n dst (a :: rest) => check a n fun s =>
      let (old, s1) := s.serveAtom w f n a
      put s1 { o with kind := .atomic f n dst rest, writes := o.writes ++ [⟨dst, a.lane, old⟩] }
  | .red f32 none (a :: rest) => check a (if f32 then 4 else 8) fun s =>
      put (s.serveAtom w (if f32 then .addF32 else .add) (if f32 then 4 else 8) a).2 { o with kind := .red f32 none rest }
  | .red f32 (some (win, q)) (a :: rest) =>
      put (s.contribute w f32 win q a) { o with kind := .red f32 (some (win, q)) rest }
  | .sto n (a :: rest) =>
    put (((s.expose w.id a.lane a.loc n).serveWrite w a.loc (bytesOf n a.x.toNat)).touchForks w.id 2 (granules a.loc n)) { o with kind := .sto n rest }
  | .refill ((l, d, places) :: rest) =>
    match places.find? fun e => s.spoiled e.1 e.2 with
    | some _ => s.readError w o.lanes
    | none =>
      let bs := (places.map fun e => forwardOver (s.seenStores w o.id l) e.1 (s.serveRead w e.1 e.2 false).1).flatten
      let s1 := (s.noteRefused w.part w.die places).touchForks w.id 3 ((places.map fun e => granules e.1 e.2).flatten)
      (put s1 { o with kind := .refill rest }).modWave w.id fun x => x.setEntry l d (BitVec.ofNat 64 (ofBytes bs))
  | _ => s

/-- A release is about to be performed: its threads' spills become visible, and one at .dev or .sys waits for its die's
ports (R22, R112, R120). -/
def State.beforeStep (s : State) (w : Wave) (o : PendOp) : Option State :=
  if o.rel = 2 && !s.portsClear w.die then none
  else if o.rel ≠ 0 then
    some ((s.publish w.id o.lanes).modWave w.id fun x => x.setOp { o with rel := 0 })
  else some s

/-- HOME_SLICE_SERVICE: piece or step `k` of a word is served; `err` brings an uncorrectable error.
(Log entry 8, DESIGN CHOICE.) -/
def State.serve (s : State) (wid id k : Nat) (err : Bool) : State := match s.liveWave wid with
  | none => s
  | some w => match w.op id with
    | none => s
    | some o =>
      if !w.mayServe o then s else
      let s1 := { s with fresh := s.fresh + 1 }
      match o.kind with
      | .load .. => s1.serveLoad w o k err
      | _ => match s1.beforeStep w o with
        | some s2 => s2.serveStep ((aget s2.waves wid).getD w) { o with rel := 0 } err
        | none => s

/-! ### STORE_QUEUE_LEAVE -/

/-- The sector of memory that a store's bytes lie in; bytes of a scratchpad, of a register page or across sectors are served
for themselves. -/
def StoreEnt.sector (e : StoreEnt) : Option Nat := Piece.sector ⟨e.lane, 0, e.bytes.length, e.loc, none⟩

/-- Do two pieces of stores leave together: pieces of one word, in one sector, which is served once for the word (R95)? -/
def StoreEnt.with (e x : StoreEnt) : Bool := x.op = e.op && e.sector.isSome && x.sector = e.sector

/-- May entry `k` of a queue leave next? Stores leave in order; the pieces of the oldest word leave in any order (R95,
R109), those that share a byte in the order of lanes. (Log entry 9, DESIGN CHOICE.) -/
def mayLeave (q : List StoreEnt) (k : Nat) (e : StoreEnt) : Bool :=
  (q.take k).all fun x => x.op = e.op && (e.with x || !x.loc.hits x.bytes.length e.loc e.bytes.length)

/-- Do some writes together cover a sector? -/
def coversSector (q : Nat) (l : List StoreEnt) : Bool :=
  (List.range 32).all fun k => l.any fun e => e.loc.hits e.bytes.length (.glob (32 * q + k)) 1

/-- Pieces of a store word become visible, in the order of lanes; the thread's own spilled bytes there go before them (R108),
and a sector that they fill is healed (R418). (Log entry 9, DESIGN CHOICE.) -/
def State.leaveAll (s : State) (w : Wave) (l : List StoreEnt) : State :=
  let s1 := l.foldl (fun s e => (s.expose w.id e.lane e.loc e.bytes.length).serveWrite w e.loc e.bytes) s
  match (l.head?.bind StoreEnt.sector) with
  | some q => if localMem (32 * q) && coversSector q l then s1.healSector q else s1
  | none => s1

/-- A piece of the oldest store of a queue becomes visible, and with it the word's other pieces in its sector, once the
wave's earlier loads and atomics have been performed; a spill is written where only the thread sees it until its next release
(R22). (Log entry 9, DESIGN CHOICE.) -/
def State.leaveQueue (s : State) (wid k : Nat) : State := match s.liveWave wid with
  | none => s
  | some w => match w.queue[k]? with
    | none => s
    | some e =>
      if !mayLeave w.queue k e || w.ops.any fun o => decide (o.id < e.op) && !o.performed then s
      else if e.spill then s.modWave wid fun x => { x with queue := x.queue.eraseIdx k, spills := x.spills ++ [e] }
      else if e.sector.isNone then (s.modWave wid fun x => { x with queue := x.queue.eraseIdx k }).leaveAll w [e]
      else (s.modWave wid fun x => { x with queue := x.queue.filter fun y => !e.with y }).leaveAll w (w.queue.filter e.with)

/-! ### Completion (R23, R43, R97) -/

def PendOp.isLoad (o : PendOp) : Bool := match o.kind with
  | .load .. => true
  | _ => false

/-- The register writes of a word that completes: a load's none to a lane that has exited (R178); a lane of a register that
a later word has written takes this value or keeps that one, freely (R43). The value stands at once, over an older fixed-latency
write of the register whose latency has not passed: that write's old value may still be read early until then. (Log entry 2,
DESIGN CHOICE.) -/
def Wave.settleWrites (w : Wave) (fresh : Nat) (o : PendOp) (vals : List RegWrite) : Wave :=
  vals.foldl (fun (w : Wave) x =>
    if (o.isLoad && !x.reg.uniform && inLanes w.exited x.lane) ||
        (inLanes (RegSet_at o.raced x.reg) x.lane && Config.freeBit fresh (regKey x.reg x.lane)) then w
    else w.setReg x.reg x.lane x.val) w

/-- A word completes: its results are written, its counter falls, a path that waits for it goes on, and a wave all of
whose lanes have exited may end. -/
def State.finishOp (s : State) (w : Wave) (o : PendOp) (vals : List RegWrite) : State :=
  let free (p : Path) : Path := if p.st = .op o.id then { p with st := .run } else p
  let s1 := s.modWave w.id fun x =>
    let x1 := x.settleWrites s.fresh o vals
    let x2 := match o.ctr with
      | some k => x1.lower k
      | none => x1
    { x2 with ops := x2.ops.filter fun y => decide (y.id ≠ o.id), paths := x2.paths.map free }
  ({ s1 with fresh := s1.fresh + 1 } : State).tryFree w.id

/-- Lanes and registers a load writes. -/
def PendOp.loadWrites (o : PendOp) : List RegWrite := match o.kind with
  | .load _ _ dst _ pieces =>
    ((pieces.map Piece.lane).eraseDups.map fun l => dst.filterMap fun r => (o.coming r l).map fun v => ⟨r, l, v⟩).flatten
  | _ => []

/-- LOAD_COMPLETE: every piece of a load has returned. -/
def State.completeLoad (s : State) (wid id : Nat) : State := match s.liveWave wid with
  | none => s
  | some w => match w.op id with
    | none => s
    | some o => match o.kind with
      | .load .. => if o.performed then s.finishOp w o o.loadWrites else s
      | _ => s

/-- Waiters on one slot are served in the order in which they came (R397). -/
def State.firstWaiter (s : State) (o : PendOp) : Bool := match o.waitsAt with
  | none => true
  | some pa => !s.waiterBefore pa o.id

/-- Does a word that waits at an object meet a poisoned sector there, or in the message it receives (R418)? -/
def State.waitSpoiled (s : State) (o : PendOp) : Bool := match o.kind with
  | .ring pa .. | .send pa .. => s.poisoned (.glob pa) 1
  | .recv pa phase slot _ => s.poisoned (.glob pa) 1 || (s.byteIs pa true phase && s.messageSpoiled slot o.lanes)
  | .barWait pa _ => s.poisoned (.glob pa) 16
  | .futAwait pa _ => s.poisoned (.glob pa) 8
  | _ => false

/-- May a word complete: is everything done that its completion waits for? -/
def State.completable (s : State) (w : Wave) (o : PendOp) : Bool := s.canGo o && s.firstWaiter o && match o.kind with
  | .store => !w.queue.any fun e => e.op = o.id
  | .redFlush => w.ops.all fun x => decide (o.id ≤ x.id) || x.performed
  | _ => o.performed

/-- VARIABLE_LATENCY_COMPLETION: a word other than a load completes, if what it waits for has come about. -/
def State.completeOp (s : State) (wid id : Nat) : State := match s.liveWave wid with
  | none => s
  | some w => match w.op id with
    | none => s
    | some o =>
      if s.waitSpoiled o then s.readError w o.lanes
      else if !s.completable w o then s else
      match o.kind with
      | .load .. => s
      | .store | .redFlush | .refill _ | .ports _ => s.finishOp w o []
      | .atomic .. | .red .. | .sto .. | .done => s.finishOp w o o.writes
      | .ring _ _ _ dst slot acq =>
        (if acq then s.acquire w else s).finishOp w o [⟨dst, 0, BitVec.ofNat 64 slot⟩]
      | .send pa phase slot msg =>
        ((s.sendStep pa phase slot msg).l1Drop w.core slot msg.length).l1Drop w.core pa 1 |>.finishOp w o []
      | .recv pa phase slot dst =>
        ((s.recvStep pa phase).acquire w).finishOp w o ((s.message slot o.lanes).map fun e => ⟨dst, e.1, e.2⟩)
      | .barWait _ _ | .ticket _ _ => (s.acquire w).finishOp w o []
      | .futAwait pa dst => (s.acquire w).finishOp w o [⟨dst, 0, s.dword pa⟩]
      | .pop core dst => match (s.core core).mx.pops with
        | (t, i) :: _ => ((s.popRow core).acquire w).finishOp w o
            ((laneList o.lanes).map fun l => ⟨dst, l, (s.core core).mx.rowOf t i l⟩)
        | [] => s

/-! ### Ports and L1 (R117, R120) -/

/-- WRITE_DELIVERY: a port delivers a write, in the order of writes to the same bytes, and a record or message after all
that the port took in before it (R9, R120, R403); a store that no port can carry is discarded and raises vector 2 of its
partition (R406). (Log entry 9, DESIGN CHOICE.) -/
def State.deliver (s : State) (die i : Nat) : State :=
  let mine := s.msys.ports.filter fun p => p.die = die
  match mine[i]? with
  | none => s
  | some p =>
    if (mine.take i).any fun q => p.rel || overlaps q.pa q.bytes.length p.pa p.bytes.length then s else
    let rest := s.msys.ports.filter (fun q => decide (q.die ≠ die)) ++ mine.eraseIdx i
    let s1 : State := { s.setMsys { s.msys with ports := rest } with fresh := s.fresh + 1 }
    if s.refusedAt (.glob p.pa) then s1.interrupt p.part 2 die else s1.setBytes (.glob p.pa) p.bytes

/-- L1_LINE_EXPIRY: a line is gone 16,384 clocks after its fill. -/
def State.expireLine (s : State) (core line : Nat) : State :=
  s.setMsys { s.msys with l1 := s.msys.l1.filter fun l => !(l.core = core && l.line = line && decide (l.fill + 16384 ≤ s.clock)) }

/-! ### The events -/

/-- An event of a wave's word. -/
def opEvent (f : State → Nat → Nat → State) (s : State) : Host.Outcome State Fault Refusal :=
  event (fun a s => match a with
    | .op w id => f s w id
    | _ => s) s

/-- HOME_SLICE_SERVICE (R98, R118, R392, R397). With another operand it serves nobody, and an error of R417 arises: with
`.read` or `.line` one in the memory or the scratchpad word named, which its next reader meets, an engine or the Harness as
well as a wave (R103, R418); with `.wave`, `.core` or `.part` one in a register file, an accumulator tile or a saved image;
with `.die` one that is corrected. (Log entry 33, DEDUCED.) -/
def execHomeSliceService (s : State) : Host.Outcome State Fault Refusal :=
  event (fun a s => match a with
    | .service w id k err => s.serve w id k err
    | .read pa n => if localMem pa then s.spoil (.glob pa) n else s
    | .line core a => s.spoil (.scr core a) 8
    | .wave w => s.fileError w
    | .core k => s.tileError k
    | .part p => s.imageError p
    | .die d _ => s.corrected d
    | _ => s) s

/-- LOAD_COMPLETE (R97). -/
def execLoadComplete (s : State) : Host.Outcome State Fault Refusal := opEvent State.completeLoad s
/-- VARIABLE_LATENCY_COMPLETION (R43). -/
def execVariableLatencyCompletion (s : State) : Host.Outcome State Fault Refusal := opEvent State.completeOp s

/-- STORE_QUEUE_LEAVE (R111): the oldest entry of the wave's queue leaves, or the entry an operand names. -/
def execStoreQueueLeave (s : State) : Host.Outcome State Fault Refusal :=
  event (fun a s => match a with
    | .wave w => s.leaveQueue w 0
    | .op w k => s.leaveQueue w k
    | _ => s) s

/-- WRITE_DELIVERY (R120). -/
def execWriteDelivery (s : State) : Host.Outcome State Fault Refusal :=
  event (fun a s => match a with
    | .delivery d i => s.deliver d i
    | _ => s) s

/-- L1_LINE_EXPIRY (R117). -/
def execL1LineExpiry (s : State) : Host.Outcome State Fault Refusal :=
  event (fun a s => match a with
    | .line core l => s.expireLine core l
    | _ => s) s

/-- FORK_RESOLUTION: the youngest record whose lanes are back resolves (R197 to R200). -/
def execForkResolution (s : State) : Host.Outcome State Fault Refusal :=
  event (fun a s => match a with
    | .wave w => match s.liveWave w with
      | some x => match x.resolvable with
        | some r => s.resolveFork x r
        | none => s
      | none => s
    | _ => s) s

/-- WAITER_RESEND: a refused request is sent again; it changes timing only (R397). (Log entry 7, DESIGN CHOICE.) -/
def execWaiterResend (s : State) : Host.Outcome State Fault Refusal := event (fun _ s => s) s
/-- MESH_RETRY: a request is sent again with its tag, and served once; it changes timing only (R417).
(Log entry 7, DESIGN CHOICE.) -/
def execMeshRetry (s : State) : Host.Outcome State Fault Refusal := event (fun _ s => s) s
/-- INJECTION_BAR: it changes timing only (R388). (Log entry 7, DESIGN CHOICE.) -/
def execInjectionBar (s : State) : Host.Outcome State Fault Refusal := event (fun _ s => s) s

end Sys2Proof.Machine
end

