-- ==== Sys2Proof/Machine/Uni.lean ====
section
/-!
DEFINITION. The meanings of the uniform words of class UNI (R144 to R147).
-/
namespace Sys2Proof.Machine

/-- sb, or a sign-extended literal (R144). -/
def WCtx.sbS (c : WCtx) (o : OpsG) : Word := match o.lit with
  | some x => litSext x
  | none => c.s o.b
/-- sb, or the literal of an entry with a signedness suffix (R144). -/
def WCtx.sbT (c : WCtx) (o : OpsG) (t : Sgn) : Word := match o.lit with
  | some x => litExt (t == .i) x
  | none => c.s o.b

/-- A UNI word: it writes sd once for the issuing path (R144). -/
def uniOp (i : Instr) (o : OpsG) (f : WCtx → State → Word) (s : State) : Host.Outcome State Fault Refusal :=
  guarded i (fun c s => .ok (uniWrite c o.d.toNat (f c s) s)) s

/-- UADD (R145). -/
def execUadd (o : OpsG) (s : State) : Host.Outcome State Fault Refusal :=
  uniOp (.uadd o) o (fun c _ => c.s o.a + c.sbS o) s

/-- USUB (R145). -/
def execUsub (o : OpsG) (s : State) : Host.Outcome State Fault Refusal :=
  uniOp (.usub o) o (fun c _ => c.s o.a - c.sbS o) s

/-- UMUL (R145). -/
def execUmul (o : OpsG) (s : State) : Host.Outcome State Fault Refusal :=
  uniOp (.umul o) o (fun c _ => c.s o.a * c.sbS o) s

/-- UMULHI (R145). -/
def execUmulhi (t : Sgn) (o : OpsG) (s : State) : Host.Outcome State Fault Refusal :=
  uniOp (.umulhi t o) o (fun c _ => umulhiW t (c.s o.a) (c.sbT o t)) s

/-- UMIN (R145). -/
def execUmin (t : Sgn) (o : OpsG) (s : State) : Host.Outcome State Fault Refusal :=
  uniOp (.umin t o) o (fun c _ => uminW t (c.s o.a) (c.sbT o t)) s

/-- UMAX (R145). -/
def execUmax (t : Sgn) (o : OpsG) (s : State) : Host.Outcome State Fault Refusal :=
  uniOp (.umax t o) o (fun c _ => umaxW t (c.s o.a) (c.sbT o t)) s

/-- UAND (R145). -/
def execUand (o : OpsG) (s : State) : Host.Outcome State Fault Refusal :=
  uniOp (.uand o) o (fun c _ => c.s o.a &&& c.sbS o) s

/-- UOR (R145). -/
def execUor (o : OpsG) (s : State) : Host.Outcome State Fault Refusal :=
  uniOp (.uor o) o (fun c _ => c.s o.a ||| c.sbS o) s

/-- UXOR (R145). -/
def execUxor (o : OpsG) (s : State) : Host.Outcome State Fault Refusal :=
  uniOp (.uxor o) o (fun c _ => c.s o.a ^^^ c.sbS o) s

/-- USHL (R145). -/
def execUshl (o : OpsG) (s : State) : Host.Outcome State Fault Refusal :=
  uniOp (.ushl o) o (fun c _ => ushlW (c.s o.a) (c.sbS o)) s

/-- USHR (R145). -/
def execUshr (t : Sgn) (o : OpsG) (s : State) : Host.Outcome State Fault Refusal :=
  uniOp (.ushr t o) o (fun c _ => ushrW t (c.s o.a) (c.sbT o t)) s

/-- UMOV of a register (R145). -/
def execUmov (o : OpsG) (s : State) : Host.Outcome State Fault Refusal :=
  uniOp (.umov o) o (fun c _ => c.s o.a) s

/-- UMOV of a literal (R145). -/
def execUmovImm (o : OpsG) (s : State) : Host.Outcome State Fault Refusal :=
  uniOp (.umovImm o) o (fun c _ => c.sbS o) s

/-- The value of launch register s(128+n): s152 is device time, s156 to s159 the trap registers in handler mode and
0 outside it (R20, R26, R238). -/
def WCtx.launchReg (c : WCtx) (s : State) (n : Nat) : Word :=
  if n = 24 then s.time.dev
  else if n < 28 then c.w.lreg (128 + n)
  else match c.w.trap with
    | none => 0
    | some t => if !c.p.handler then 0 else if n = 28 then t.cause else if n = 29 then t.pc else if n = 30 then t.lanes
      else t.addr

/-- MOVL (R146). -/
def execMovl (o : OpsG) (s : State) : Host.Outcome State Fault Refusal :=
  uniOp (.movl o) o (fun c s => c.launchReg s o.a.toNat) s

/-- ULANE: one lane's vector register, whatever the lane's state (R147). -/
def execUlane (o : OpsG) (s : State) : Host.Outcome State Fault Refusal :=
  uniOp (.ulane o) o (fun c _ => c.v ((c.sbS o).toNat % c.w.width) o.a) s

/-- UCMP.EQ (R145). -/
def execUcmpEq (o : OpsG) (s : State) : Host.Outcome State Fault Refusal :=
  uniOp (.ucmpEq o) o (fun c _ => boolW (c.s o.a = c.sbS o)) s

/-- UCMP.NE (R145). -/
def execUcmpNe (o : OpsG) (s : State) : Host.Outcome State Fault Refusal :=
  uniOp (.ucmpNe o) o (fun c _ => boolW (c.s o.a ≠ c.sbS o)) s

/-- UCMP.LT (R145). -/
def execUcmpLt (t : Sgn) (o : OpsG) (s : State) : Host.Outcome State Fault Refusal :=
  uniOp (.ucmpLt t o) o (fun c _ => boolW (ultW t (c.s o.a) (c.sbT o t))) s

/-- UCMP.LE (R145). -/
def execUcmpLe (t : Sgn) (o : OpsG) (s : State) : Host.Outcome State Fault Refusal :=
  uniOp (.ucmpLe t o) o (fun c _ => boolW (!ultW t (c.sbT o t) (c.s o.a))) s

/-- UPOPC (R145). -/
def execUpopc (o : OpsG) (s : State) : Host.Outcome State Fault Refusal :=
  uniOp (.upopc o) o (fun c _ => BitVec.ofNat 64 (popcN 64 (c.s o.a).toNat)) s

/-- UCLZ (R145). -/
def execUclz (o : OpsG) (s : State) : Host.Outcome State Fault Refusal :=
  uniOp (.uclz o) o (fun c _ => BitVec.ofNat 64 (clzN 64 (c.s o.a).toNat)) s

end Sys2Proof.Machine
end

