-- ==== Sys2Proof/Machine/VecFloat.lean ====
section
/-!
DEFINITION. The meanings of the floating-point, conversion and dot-product words of class VEC (R148 to R162).
-/
namespace Sys2Proof.Machine

/-- vb, or a floating-point literal, which stands for every element (R148, R35). -/
def WCtx.vbF (c : WCtx) (o : OpsV) (t : FTy) (l : Nat) : Word := match o.lit with
  | some x => litFloat t x
  | none => c.v l o.b

/-- The control word of a VC entry (R32). -/
def OpsV_ctl (o : OpsV) : BitVec 32 := o.lit.getD 0

/-- FADD: each sum rounded once (R150). -/
def execFadd (t : FTy) (o : OpsV) (s : State) : Host.Outcome State Fault Refusal :=
  vecOp (.fadd t o) o (fun c l => addF (fmtOf t) (c.ctl l) (c.v l o.a) (c.vbF o t l)) s

/-- FSUB (R150). -/
def execFsub (t : FTy) (o : OpsV) (s : State) : Host.Outcome State Fault Refusal :=
  vecOp (.fsub t o) o (fun c l => subF (fmtOf t) (c.ctl l) (c.v l o.a) (c.vbF o t l)) s

/-- FMUL (R150). -/
def execFmul (t : FTy) (o : OpsV) (s : State) : Host.Outcome State Fault Refusal :=
  vecOp (.fmul t o) o (fun c l => mulF (fmtOf t) (c.ctl l) (c.v l o.a) (c.vbF o t l)) s

/-- FMIN: no rounding (R151). -/
def execFmin (t : FTy) (o : OpsV) (s : State) : Host.Outcome State Fault Refusal :=
  vecOp (.fmin t o) o (fun c l => minF (fmtOf t) (c.ctl l) (c.v l o.a) (c.vbF o t l)) s

/-- FMAX: no rounding (R151). -/
def execFmax (t : FTy) (o : OpsV) (s : State) : Host.Outcome State Fault Refusal :=
  vecOp (.fmax t o) o (fun c l => maxF (fmtOf t) (c.ctl l) (c.v l o.a) (c.vbF o t l)) s

/-- FDIV, correctly rounded (R156). -/
def execFdiv (t : FTy) (o : OpsV) (s : State) : Host.Outcome State Fault Refusal :=
  vecOp (.fdiv t o) o (fun c l => divF (fmtOf t) (c.ctl l) (c.v l o.a) (c.vbF o t l)) s

/-- FMA: product plus third input, rounded once (R150). -/
def execFma (t : FTy) (o : OpsV) (s : State) : Host.Outcome State Fault Refusal :=
  vecOp (.fma t o) o (fun c l => fmaF (fmtOf t) (c.ctl l) (c.v l o.a) (c.vbF o t l) (c.third o.d l)) s

/-- FMAXIX: the winning pair; the .f64 form writes vd and vd+1 (R152). -/
def execFmaxix (t : FTy) (o : OpsV) (s : State) : Host.Outcome State Fault Refusal :=
  match t with
  | .f64 => guarded (.fmaxix t o) (fun c s =>
      let r (l : Nat) : Word × Word := maxixF64 (c.ctl l) (c.v l o.a) (c.v l (o.a + 1)) (c.v l o.b) (c.v l (o.b + 1))
      .ok (vecWrite c (o.d.toNat + 1) (fun l => (r l).2) (vecWrite c o.d.toNat (fun l => (r l).1) s))) s
  | _ => vecOp (.fmaxix t o) o (fun c l => maxixF (fmtOf t) (c.ctl l) (c.v l o.a) (c.v l o.b)) s

/-- FRND: to an integral value in the mode of fin (R153). -/
def execFrnd (t : FTy) (o : OpsV) (s : State) : Host.Outcome State Fault Refusal :=
  vecOp (.frnd t o) o (fun c l => rndF (fmtOf t) (c.ctl l) (c.v l o.a)) s

/-- FRCP, correctly rounded (R156). -/
def execFrcp (t : FTy) (o : OpsV) (s : State) : Host.Outcome State Fault Refusal :=
  vecOp (.frcp t o) o (fun c l => rcpF (fmtOf t) (c.ctl l) (c.v l o.a)) s

/-- FRSQ within 1 ulp (R156). -/
def execFrsq (t : FTy) (o : OpsV) (s : State) : Host.Outcome State Fault Refusal :=
  vecOp (.frsq t o) o (fun c l => rsqF (fmtOf t) (c.ctl l) (c.v l o.a)) s

/-- FSQRT, correctly rounded (R156). -/
def execFsqrt (t : FTy) (o : OpsV) (s : State) : Host.Outcome State Fault Refusal :=
  vecOp (.fsqrt t o) o (fun c l => sqrtF (fmtOf t) (c.ctl l) (c.v l o.a)) s

/-- FCMP.EQ on element 0: both equal, zeros of either sign being equal (R154). -/
def execFcmpEq (t : FTy) (o : OpsV) (s : State) : Host.Outcome State Fault Refusal :=
  predOp (.fcmpEq t o) o (fun c l =>
    let x := rdF (fmtOf t) (c.ctl l) (c.v l o.a) 0
    let y := rdF (fmtOf t) (c.ctl l) (c.vbF o t l) 0
    fpEq x y) s

/-- FCMP.NE on element 0: unequal, or a NaN (R154). -/
def execFcmpNe (t : FTy) (o : OpsV) (s : State) : Host.Outcome State Fault Refusal :=
  predOp (.fcmpNe t o) o (fun c l =>
    let x := rdF (fmtOf t) (c.ctl l) (c.v l o.a) 0
    let y := rdF (fmtOf t) (c.ctl l) (c.vbF o t l) 0
    !fpEq x y) s

/-- FCMP.LT on element 0: less (R154). -/
def execFcmpLt (t : FTy) (o : OpsV) (s : State) : Host.Outcome State Fault Refusal :=
  predOp (.fcmpLt t o) o (fun c l =>
    let x := rdF (fmtOf t) (c.ctl l) (c.v l o.a) 0
    let y := rdF (fmtOf t) (c.ctl l) (c.vbF o t l) 0
    fpLt x y) s

/-- FCMP.LE on element 0: less or equal (R154). -/
def execFcmpLe (t : FTy) (o : OpsV) (s : State) : Host.Outcome State Fault Refusal :=
  predOp (.fcmpLe t o) o (fun c l =>
    let x := rdF (fmtOf t) (c.ctl l) (c.v l o.a) 0
    let y := rdF (fmtOf t) (c.ctl l) (c.vbF o t l) 0
    fpLt x y || fpEq x y) s

/-- FCMP.UN on element 0: an operand is NaN (R154). -/
def execFcmpUn (t : FTy) (o : OpsV) (s : State) : Host.Outcome State Fault Refusal :=
  predOp (.fcmpUn t o) o (fun c l =>
    let x := rdF (fmtOf t) (c.ctl l) (c.v l o.a) 0
    let y := rdF (fmtOf t) (c.ctl l) (c.vbF o t l) 0
    fpIsNan x || fpIsNan y) s

/-- FCLASS: the raw bits of element 0 against a class mask (R155). -/
def execFclass (t : FTy) (o : OpsV) (s : State) : Host.Outcome State Fault Refusal :=
  predOp (.fclass t o) o (fun c l => classF (fmtOf t) (c.v l o.a) o.b) s

/-- FEXP2 within 2 ulp, saturating where asked (R156). -/
def execFexp2 (o : OpsV) (s : State) : Host.Outcome State Fault Refusal :=
  vecOp (.fexp2 o) o (fun c l => bounded32 (c.ctl l) (fun y x => fpExp2 y (c.ctl l).sat x) Config.fexp2 (c.v l o.a)) s

/-- FLOG2 within its bounds (R156). -/
def execFlog2 (o : OpsV) (s : State) : Host.Outcome State Fault Refusal :=
  vecOp (.flog2 o) o (fun c l => bounded32 (c.ctl l) fpLog2 Config.flog2 (c.v l o.a)) s

/-- FSIN of turns (R156). -/
def execFsin (o : OpsV) (s : State) : Host.Outcome State Fault Refusal :=
  vecOp (.fsin o) o (fun c l => bounded32 (c.ctl l) (fpSinCos false) Config.fsin (c.v l o.a)) s

/-- FCOS of turns (R156). -/
def execFcos (o : OpsV) (s : State) : Host.Outcome State Fault Refusal :=
  vecOp (.fcos o) o (fun c l => bounded32 (c.ctl l) (fpSinCos true) Config.fcos (c.v l o.a)) s

/-- FTANH within 2 ulp (R156). -/
def execFtanh (o : OpsV) (s : State) : Host.Outcome State Fault Refusal :=
  vecOp (.ftanh o) o (fun c l => bounded32 (c.ctl l) fpTanh Config.ftanh (c.v l o.a)) s

/-- CVT between formats; a narrowing form packs va then vb (R157). -/
def execCvt (k : CvtForm) (o : OpsV) (s : State) : Host.Outcome State Fault Refusal :=
  vecOp (.cvt k o) o (fun c l =>
    cvtW k (c.ctl l) (c.v l o.a) (c.vbF o (match k with | .f32f64 => .f64 | _ => .f32) l)) s

/-- CVTS under a scale byte; a narrowing form keeps the other parts of vd (R158). -/
def execCvts (k : CvtsForm) (o : OpsV) (s : State) : Host.Outcome State Fault Refusal :=
  vecOp (.cvts k o) o (fun c l =>
    cvtsW k (c.ctl l) (OpsV_ctl o) (c.v l o.a) (c.v l o.b) (c.v l ((OpsV_ctl o).extractLsb 6 0)) (c.v l o.d)) s

/-- SCL.SC8.F32: the scale byte that brings a lane within a target (R159). -/
def execSclSc8F32 (o : OpsV) (s : State) : Host.Outcome State Fault Refusal :=
  vecOp (.sclSc8F32 o) o (fun c l => sclW (c.ctl l) (c.v l o.a) (c.vbF o .f32 l)) s

/-- KQDEC: four weights of one KQ8 index (R160). -/
def execKqdec (o : OpsV) (s : State) : Host.Outcome State Fault Refusal :=
  vecOp (.kqdec o) o (fun c l => kqdecW (c.v l o.a) (c.vbZ o l)) s

/-- DOT: products plus one accumulator element, rounded once; the other element of vd is kept (R161, R162). -/
def execDot (k : DotForm) (o : OpsV) (s : State) : Host.Outcome State Fault Refusal :=
  vecOp (.dot k o) o (fun c l =>
    let ctl := OpsV_ctl o
    let sa := c.v l (ctl.extractLsb 6 0)
    let sb := c.v l (ctl.extractLsb 16 10)
    let prods := match k with
      | .kq8 => dotKq8 ctl (c.v l o.a) [c.v l o.b, c.v l (o.b + 1), c.v l (o.b + 2), c.v l (o.b + 3)] sa sb
      | _ => dotProducts k (c.ctl l) ctl (c.v l o.a) (c.v l o.b) sa sb
    dotFinish (c.ctl l) ctl prods (c.third o.d l) (c.v l o.d)) s

/-- DOT8: integer products plus one accumulator element (R162). -/
def execDot8 (x y : Sgn) (o : OpsV) (s : State) : Host.Outcome State Fault Refusal :=
  vecOp (.dot8 x y o) o (fun c l =>
    dotInt 8 x y c.sat (OpsV_ctl o) (c.v l o.a) (c.v l o.b) (c.third o.d l) (c.v l o.d)) s

/-- DOT4: integer products plus one accumulator element (R162). -/
def execDot4 (x y : Sgn) (o : OpsV) (s : State) : Host.Outcome State Fault Refusal :=
  vecOp (.dot4 x y o) o (fun c l =>
    dotInt 4 x y c.sat (OpsV_ctl o) (c.v l o.a) (c.v l o.b) (c.third o.d l) (c.v l o.d)) s

end Sys2Proof.Machine
end

