-- ==== Sys2Proof/Machine/Dispatch.lean ====
section
/-!
DEFINITION. Every instruction to its meaning.
-/
namespace Sys2Proof.Machine

def exec (i : Instr) (s : State) : Host.Outcome State Fault Refusal :=
  match i with
  | .add t o => Sys2Proof.Machine.execAdd t o s
  | .sub t o => Sys2Proof.Machine.execSub t o s
  | .mul t o => Sys2Proof.Machine.execMul t o s
  | .mulhi t o => Sys2Proof.Machine.execMulhi t o s
  | .min t o => Sys2Proof.Machine.execMin t o s
  | .max t o => Sys2Proof.Machine.execMax t o s
  | .mad t o => Sys2Proof.Machine.execMad t o s
  | .and o => Sys2Proof.Machine.execAnd o s
  | .or o => Sys2Proof.Machine.execOr o s
  | .xor o => Sys2Proof.Machine.execXor o s
  | .andn o => Sys2Proof.Machine.execAndn o s
  | .not o => Sys2Proof.Machine.execNot o s
  | .popc t o => Sys2Proof.Machine.execPopc t o s
  | .clz t o => Sys2Proof.Machine.execClz t o s
  | .brev t o => Sys2Proof.Machine.execBrev t o s
  | .sel o => Sys2Proof.Machine.execSel o s
  | .shl t o => Sys2Proof.Machine.execShl t o s
  | .shr t o => Sys2Proof.Machine.execShr t o s
  | .bfe t o => Sys2Proof.Machine.execBfe t o s
  | .bfi t o => Sys2Proof.Machine.execBfi t o s
  | .cmpEq t o => Sys2Proof.Machine.execCmpEq t o s
  | .cmpNe t o => Sys2Proof.Machine.execCmpNe t o s
  | .cmpLt t o => Sys2Proof.Machine.execCmpLt t o s
  | .cmpLe t o => Sys2Proof.Machine.execCmpLe t o s
  | .pand o => Sys2Proof.Machine.execPand o s
  | .por o => Sys2Proof.Machine.execPor o s
  | .pxor o => Sys2Proof.Machine.execPxor o s
  | .pnot o => Sys2Proof.Machine.execPnot o s
  | .mov o => Sys2Proof.Machine.execMov o s
  | .movImm o => Sys2Proof.Machine.execMovImm o s
  | .movs o => Sys2Proof.Machine.execMovs o s
  | .lid o => Sys2Proof.Machine.execLid o s
  | .movp o => Sys2Proof.Machine.execMovp o s
  | .ptst o => Sys2Proof.Machine.execPtst o s
  | .addc o => Sys2Proof.Machine.execAddc o s
  | .subb o => Sys2Proof.Machine.execSubb o s
  | .abs t o => Sys2Proof.Machine.execAbs t o s
  | .neg t o => Sys2Proof.Machine.execNeg t o s
  | .wid t o => Sys2Proof.Machine.execWid t o s
  | .nar t o => Sys2Proof.Machine.execNar t o s
  | .lea k o => Sys2Proof.Machine.execLea k o s
  | .fadd t o => Sys2Proof.Machine.execFadd t o s
  | .fsub t o => Sys2Proof.Machine.execFsub t o s
  | .fmul t o => Sys2Proof.Machine.execFmul t o s
  | .fma t o => Sys2Proof.Machine.execFma t o s
  | .fmin t o => Sys2Proof.Machine.execFmin t o s
  | .fmax t o => Sys2Proof.Machine.execFmax t o s
  | .fmaxix t o => Sys2Proof.Machine.execFmaxix t o s
  | .frnd t o => Sys2Proof.Machine.execFrnd t o s
  | .fcmpEq t o => Sys2Proof.Machine.execFcmpEq t o s
  | .fcmpNe t o => Sys2Proof.Machine.execFcmpNe t o s
  | .fcmpLt t o => Sys2Proof.Machine.execFcmpLt t o s
  | .fcmpLe t o => Sys2Proof.Machine.execFcmpLe t o s
  | .fcmpUn t o => Sys2Proof.Machine.execFcmpUn t o s
  | .fclass t o => Sys2Proof.Machine.execFclass t o s
  | .frcp t o => Sys2Proof.Machine.execFrcp t o s
  | .frsq t o => Sys2Proof.Machine.execFrsq t o s
  | .fsqrt t o => Sys2Proof.Machine.execFsqrt t o s
  | .fdiv t o => Sys2Proof.Machine.execFdiv t o s
  | .fexp2 o => Sys2Proof.Machine.execFexp2 o s
  | .flog2 o => Sys2Proof.Machine.execFlog2 o s
  | .fsin o => Sys2Proof.Machine.execFsin o s
  | .fcos o => Sys2Proof.Machine.execFcos o s
  | .ftanh o => Sys2Proof.Machine.execFtanh o s
  | .cvt c o => Sys2Proof.Machine.execCvt c o s
  | .cvts c o => Sys2Proof.Machine.execCvts c o s
  | .sclSc8F32 o => Sys2Proof.Machine.execSclSc8F32 o s
  | .kqdec o => Sys2Proof.Machine.execKqdec o s
  | .dot c o => Sys2Proof.Machine.execDot c o s
  | .dot8 x y o => Sys2Proof.Machine.execDot8 x y o s
  | .dot4 x y o => Sys2Proof.Machine.execDot4 x y o s
  | .shfl o => Sys2Proof.Machine.execShfl o s
  | .shflX o => Sys2Proof.Machine.execShflX o s
  | .shflUp o => Sys2Proof.Machine.execShflUp o s
  | .shflDn o => Sys2Proof.Machine.execShflDn o s
  | .bcast o => Sys2Proof.Machine.execBcast o s
  | .redux c o => Sys2Proof.Machine.execRedux c o s
  | .vote c o => Sys2Proof.Machine.execVote c o s
  | .perm o => Sys2Proof.Machine.execPerm o s
  | .fctlRd o => Sys2Proof.Machine.execFctlRd o s
  | .fctlWr o => Sys2Proof.Machine.execFctlWr o s
  | .uadd o => Sys2Proof.Machine.execUadd o s
  | .usub o => Sys2Proof.Machine.execUsub o s
  | .umul o => Sys2Proof.Machine.execUmul o s
  | .umulhi t o => Sys2Proof.Machine.execUmulhi t o s
  | .umin t o => Sys2Proof.Machine.execUmin t o s
  | .umax t o => Sys2Proof.Machine.execUmax t o s
  | .uand o => Sys2Proof.Machine.execUand o s
  | .uor o => Sys2Proof.Machine.execUor o s
  | .uxor o => Sys2Proof.Machine.execUxor o s
  | .ushl o => Sys2Proof.Machine.execUshl o s
  | .ushr t o => Sys2Proof.Machine.execUshr t o s
  | .umov o => Sys2Proof.Machine.execUmov o s
  | .umovImm o => Sys2Proof.Machine.execUmovImm o s
  | .movl o => Sys2Proof.Machine.execMovl o s
  | .ulane o => Sys2Proof.Machine.execUlane o s
  | .ucmpEq o => Sys2Proof.Machine.execUcmpEq o s
  | .ucmpNe o => Sys2Proof.Machine.execUcmpNe o s
  | .ucmpLt t o => Sys2Proof.Machine.execUcmpLt t o s
  | .ucmpLe t o => Sys2Proof.Machine.execUcmpLe t o s
  | .upopc o => Sys2Proof.Machine.execUpopc o s
  | .uclz o => Sys2Proof.Machine.execUclz o s
  | .ldG t b o => Sys2Proof.Machine.execLdG t b o s
  | .ldGN64X2 b o => Sys2Proof.Machine.execLdGN64X2 b o s
  | .stG t b o => Sys2Proof.Machine.execStG t b o s
  | .stGN64X2 b o => Sys2Proof.Machine.execStGN64X2 b o s
  | .ldo t o => Sys2Proof.Machine.execLdo t o s
  | .sto t o => Sys2Proof.Machine.execSto t o s
  | .fence o => Sys2Proof.Machine.execFence o s
  | .fenceScSys o => Sys2Proof.Machine.execFenceScSys o s
  | .ldS t o => Sys2Proof.Machine.execLdS t o s
  | .ldSN64X2 o => Sys2Proof.Machine.execLdSN64X2 o s
  | .stS t o => Sys2Proof.Machine.execStS t o s
  | .stSN64X2 o => Sys2Proof.Machine.execStSN64X2 o s
  | .ldRN64 o => Sys2Proof.Machine.execLdRN64 o s
  | .ldRN64X2 o => Sys2Proof.Machine.execLdRN64X2 o s
  | .stRN64 o => Sys2Proof.Machine.execStRN64 o s
  | .stRN64X2 o => Sys2Proof.Machine.execStRN64X2 o s
  | .atomAdd t o => Sys2Proof.Machine.execAtomAdd t o s
  | .atomMin t o => Sys2Proof.Machine.execAtomMin t o s
  | .atomMax t o => Sys2Proof.Machine.execAtomMax t o s
  | .atomMaxix o => Sys2Proof.Machine.execAtomMaxix o s
  | .atomAnd o => Sys2Proof.Machine.execAtomAnd o s
  | .atomOr o => Sys2Proof.Machine.execAtomOr o s
  | .atomXor o => Sys2Proof.Machine.execAtomXor o s
  | .atomXchg o => Sys2Proof.Machine.execAtomXchg o s
  | .cas t o => Sys2Proof.Machine.execCas t o s
  | .redAddF32 o => Sys2Proof.Machine.execRedAddF32 o s
  | .redAddN64 o => Sys2Proof.Machine.execRedAddN64 o s
  | .redFlush o => Sys2Proof.Machine.execRedFlush o s
  | .ringClaim o => Sys2Proof.Machine.execRingClaim o s
  | .ringPost o => Sys2Proof.Machine.execRingPost o s
  | .ringAwait o => Sys2Proof.Machine.execRingAwait o s
  | .ringRel o => Sys2Proof.Machine.execRingRel o s
  | .send o => Sys2Proof.Machine.execSend o s
  | .recv o => Sys2Proof.Machine.execRecv o s
  | .uld o => Sys2Proof.Machine.execUld o s
  | .ust o => Sys2Proof.Machine.execUst o s
  | .bra o => Sys2Proof.Machine.execBra o s
  | .braAny o => Sys2Proof.Machine.execBraAny o s
  | .braAll o => Sys2Proof.Machine.execBraAll o s
  | .braNz o => Sys2Proof.Machine.execBraNz o s
  | .braZ o => Sys2Proof.Machine.execBraZ o s
  | .brx o => Sys2Proof.Machine.execBrx o s
  | .call o => Sys2Proof.Machine.execCall o s
  | .callx o => Sys2Proof.Machine.execCallx o s
  | .ret o => Sys2Proof.Machine.execRet o s
  | .fcall o => Sys2Proof.Machine.execFcall o s
  | .fcallP o => Sys2Proof.Machine.execFcallP o s
  | .split o => Sys2Proof.Machine.execSplit o s
  | .join o => Sys2Proof.Machine.execJoin o s
  | .barSync o => Sys2Proof.Machine.execBarSync o s
  | .yield o => Sys2Proof.Machine.execYield o s
  | .exit o => Sys2Proof.Machine.execExit o s
  | .meet o => Sys2Proof.Machine.execMeet o s
  | .meetV o => Sys2Proof.Machine.execMeetV o s
  | .barArrive o => Sys2Proof.Machine.execBarArrive o s
  | .barWait o => Sys2Proof.Machine.execBarWait o s
  | .barExpect o => Sys2Proof.Machine.execBarExpect o s
  | .trap o => Sys2Proof.Machine.execTrap o s
  | .brk o => Sys2Proof.Machine.execBrk o s
  | .rng o => Sys2Proof.Machine.execRng o s
  | .icPf o => Sys2Proof.Machine.execIcPf o s
  | .icPin o => Sys2Proof.Machine.execIcPin o s
  | .icUnpin o => Sys2Proof.Machine.execIcUnpin o s
  | .nop o => Sys2Proof.Machine.execNop o s
  | .forkStat o => Sys2Proof.Machine.execForkStat o s
  | .forkKill o => Sys2Proof.Machine.execForkKill o s
  | .forkClr o => Sys2Proof.Machine.execForkClr o s
  | .nlaunch o => Sys2Proof.Machine.execNlaunch o s
  | .nlaunchSeq o => Sys2Proof.Machine.execNlaunchSeq o s
  | .nlaunchDet o => Sys2Proof.Machine.execNlaunchDet o s
  | .ldf o => Sys2Proof.Machine.execLdf o s
  | .stf o => Sys2Proof.Machine.execStf o s
  | .atomf o => Sys2Proof.Machine.execAtomf o s
  | .movd o => Sys2Proof.Machine.execMovd o s
  | .futNew o => Sys2Proof.Machine.execFutNew o s
  | .futResolve o => Sys2Proof.Machine.execFutResolve o s
  | .futAwait o => Sys2Proof.Machine.execFutAwait o s
  | .futPoll o => Sys2Proof.Machine.execFutPoll o s
  | .futFail o => Sys2Proof.Machine.execFutFail o s
  | .contSave o => Sys2Proof.Machine.execContSave o s
  | .contWake o => Sys2Proof.Machine.execContWake o s
  | .mxIssue o => Sys2Proof.Machine.execMxIssue o s
  | .mxPop o => Sys2Proof.Machine.execMxPop o s
  | .mxZero o => Sys2Proof.Machine.execMxZero o s
  | .mxLoadacc o => Sys2Proof.Machine.execMxLoadacc o s
  | .mxStacc o => Sys2Proof.Machine.execMxStacc o s
  | .mxFreeze o => Sys2Proof.Machine.execMxFreeze o s
  | .mxThaw o => Sys2Proof.Machine.execMxThaw o s
  | .mxDrain o => Sys2Proof.Machine.execMxDrain o s
  | .mxRestore o => Sys2Proof.Machine.execMxRestore o s
  | .mxFence o => Sys2Proof.Machine.execMxFence o s
  | .mxStat o => Sys2Proof.Machine.execMxStat o s
  | .mxWait o => Sys2Proof.Machine.execMxWait o s
  | .aAdd o => Sys2Proof.Machine.execAAdd o s
  | .aSub o => Sys2Proof.Machine.execASub o s
  | .aMul o => Sys2Proof.Machine.execAMul o s
  | .aAnd o => Sys2Proof.Machine.execAAnd o s
  | .aOr o => Sys2Proof.Machine.execAOr o s
  | .aXor o => Sys2Proof.Machine.execAXor o s
  | .aShl o => Sys2Proof.Machine.execAShl o s
  | .aShr o => Sys2Proof.Machine.execAShr o s
  | .aSra o => Sys2Proof.Machine.execASra o s
  | .aMin o => Sys2Proof.Machine.execAMin o s
  | .aMax o => Sys2Proof.Machine.execAMax o s
  | .aMov o => Sys2Proof.Machine.execAMov o s
  | .aMovImm o => Sys2Proof.Machine.execAMovImm o s
  | .aLdx t o => Sys2Proof.Machine.execALdx t o s
  | .aArg o => Sys2Proof.Machine.execAArg o s
  | .aNop o => Sys2Proof.Machine.execANop o s
  | .aB o => Sys2Proof.Machine.execAB o s
  | .aBeq o => Sys2Proof.Machine.execABeq o s
  | .aBne o => Sys2Proof.Machine.execABne o s
  | .aBlt o => Sys2Proof.Machine.execABlt o s
  | .aBge o => Sys2Proof.Machine.execABge o s
  | .aLoop o => Sys2Proof.Machine.execALoop o s
  | .aWait o => Sys2Proof.Machine.execAWait o s
  | .aHalt o => Sys2Proof.Machine.execAHalt o s
  | .aTrap o => Sys2Proof.Machine.execATrap o s
  | .tdSet o => Sys2Proof.Machine.execTdSet o s
  | .tdDim o => Sys2Proof.Machine.execTdDim o s
  | .tdCoord o => Sys2Proof.Machine.execTdCoord o s
  | .tdStep o => Sys2Proof.Machine.execTdStep o s
  | .tdClr o => Sys2Proof.Machine.execTdClr o s
  | .mvBytes o => Sys2Proof.Machine.execMvBytes o s
  | .mvTile o => Sys2Proof.Machine.execMvTile o s
  | .mvTilet o => Sys2Proof.Machine.execMvTilet o s
  | .mvReblk o => Sys2Proof.Machine.execMvReblk o s
  | .mvMc o => Sys2Proof.Machine.execMvMc o s
  | .aPost o => Sys2Proof.Machine.execAPost o s
  | .aExpect o => Sys2Proof.Machine.execAExpect o s
  | .aArrive o => Sys2Proof.Machine.execAArrive o s
  | .aResolve o => Sys2Proof.Machine.execAResolve o s
  | .awlGo o => Sys2Proof.Machine.execAwlGo o s
  | .awlStat o => Sys2Proof.Machine.execAwlStat o s
  | .awlStop o => Sys2Proof.Machine.execAwlStop o s
  | .unassignedEntry w => Sys2Proof.Machine.execUnassignedEntry w s
  | .coldReset => Sys2Proof.Machine.execColdReset s
  | .warmReset => Sys2Proof.Machine.execWarmReset s
  | .registerWrite => Sys2Proof.Machine.execRegisterWrite s
  | .doorbellWrite => Sys2Proof.Machine.execDoorbellWrite s
  | .queueEnable => Sys2Proof.Machine.execQueueEnable s
  | .queueDisable => Sys2Proof.Machine.execQueueDisable s
  | .queueReset => Sys2Proof.Machine.execQueueReset s
  | .verdictReplay => Sys2Proof.Machine.execVerdictReplay s
  | .verdictRefuse => Sys2Proof.Machine.execVerdictRefuse s
  | .softPreemption => Sys2Proof.Machine.execSoftPreemption s
  | .softStopComplete => Sys2Proof.Machine.execSoftStopComplete s
  | .hardPreemption => Sys2Proof.Machine.execHardPreemption s
  | .resume => Sys2Proof.Machine.execResume s
  | .saddlebagSave => Sys2Proof.Machine.execSaddlebagSave s
  | .quantumExpiry => Sys2Proof.Machine.execQuantumExpiry s
  | .partitionEnable => Sys2Proof.Machine.execPartitionEnable s
  | .partitionReset => Sys2Proof.Machine.execPartitionReset s
  | .partitionDisable => Sys2Proof.Machine.execPartitionDisable s
  | .vectorMaskClear => Sys2Proof.Machine.execVectorMaskClear s
  | .powerCapWrite => Sys2Proof.Machine.execPowerCapWrite s
  | .powerCapStep => Sys2Proof.Machine.execPowerCapStep s
  | .thermalWarning => Sys2Proof.Machine.execThermalWarning s
  | .voltageDroop => Sys2Proof.Machine.execVoltageDroop s
  | .droopEnd => Sys2Proof.Machine.execDroopEnd s
  | .criticalTrip => Sys2Proof.Machine.execCriticalTrip s
  | .ptpPortWrite => Sys2Proof.Machine.execPtpPortWrite s
  | .ptpLock => Sys2Proof.Machine.execPtpLock s
  | .ptpHoldover => Sys2Proof.Machine.execPtpHoldover s
  | .flowEnable => Sys2Proof.Machine.execFlowEnable s
  | .flowDisable => Sys2Proof.Machine.execFlowDisable s
  | .frameArrival => Sys2Proof.Machine.execFrameArrival s
  | .hostWrite => Sys2Proof.Machine.execHostWrite s
  | .hostRead => Sys2Proof.Machine.execHostRead s
  | .cinchAccess => Sys2Proof.Machine.execCinchAccess s
  | .cinchPortFail => Sys2Proof.Machine.execCinchPortFail s
  | .launch => Sys2Proof.Machine.execLaunch s
  | .gang => Sys2Proof.Machine.execGang s
  | .gangReserve => Sys2Proof.Machine.execGangReserve s
  | .seedPush => Sys2Proof.Machine.execSeedPush s
  | .seedPop => Sys2Proof.Machine.execSeedPop s
  | .seedFork => Sys2Proof.Machine.execSeedFork s
  | .tlbinv => Sys2Proof.Machine.execTlbinv s
  | .nopPacket => Sys2Proof.Machine.execNopPacket s
  | .completionRecordWrite => Sys2Proof.Machine.execCompletionRecordWrite s
  | .gridCompletion => Sys2Proof.Machine.execGridCompletion s
  | .blockDispatch => Sys2Proof.Machine.execBlockDispatch s
  | .stealRequest => Sys2Proof.Machine.execStealRequest s
  | .watchdog => Sys2Proof.Machine.execWatchdog s
  | .drainWatchdog => Sys2Proof.Machine.execDrainWatchdog s
  | .faultRecord => Sys2Proof.Machine.execFaultRecord s
  | .blockRelaunch => Sys2Proof.Machine.execBlockRelaunch s
  | .clauseFetch => Sys2Proof.Machine.execClauseFetch s
  | .l1LineExpiry => Sys2Proof.Machine.execL1LineExpiry s
  | .loadComplete => Sys2Proof.Machine.execLoadComplete s
  | .variableLatencyCompletion => Sys2Proof.Machine.execVariableLatencyCompletion s
  | .storeQueueLeave => Sys2Proof.Machine.execStoreQueueLeave s
  | .homeSliceService => Sys2Proof.Machine.execHomeSliceService s
  | .waiterResend => Sys2Proof.Machine.execWaiterResend s
  | .meshRetry => Sys2Proof.Machine.execMeshRetry s
  | .injectionBar => Sys2Proof.Machine.execInjectionBar s
  | .windowApply => Sys2Proof.Machine.execWindowApply s
  | .forkResolution => Sys2Proof.Machine.execForkResolution s
  | .programFetch => Sys2Proof.Machine.execProgramFetch s
  | .recordStart => Sys2Proof.Machine.execRecordStart s
  | .lockEntry => Sys2Proof.Machine.execLockEntry s
  | .recordComplete => Sys2Proof.Machine.execRecordComplete s
  | .channelHalt => Sys2Proof.Machine.execChannelHalt s
  | .mcReserve => Sys2Proof.Machine.execMcReserve s
  | .matrixOperationStart => Sys2Proof.Machine.execMatrixOperationStart s
  | .gateObserve => Sys2Proof.Machine.execGateObserve s
  | .matrixLockEntry => Sys2Proof.Machine.execMatrixLockEntry s
  | .kChunk => Sys2Proof.Machine.execKChunk s
  | .matrixCompletion => Sys2Proof.Machine.execMatrixCompletion s
  | .matrixFreeze => Sys2Proof.Machine.execMatrixFreeze s
  | .listWalk => Sys2Proof.Machine.execListWalk s
  | .resumption => Sys2Proof.Machine.execResumption s
  | .debugRead => Sys2Proof.Machine.execDebugRead s
  | .partitionResetComplete => Sys2Proof.Machine.execPartitionResetComplete s
  | .writeDelivery => Sys2Proof.Machine.execWriteDelivery s
  | .thermalWarningEnd => Sys2Proof.Machine.execThermalWarningEnd s

end Sys2Proof.Machine
end

