-- ==== Sys2Proof/Machine/Turns.lean ====
section
/-!
DEFINITION. What a step does before an instruction's meaning: whose turn it is (log entry 3, DESIGN CHOICE), and the load
of one instruction that `Machine/Step.lean` offers the host (log entry 14, DESIGN CHOICE).
-/
namespace Sys2Proof.Machine

/-! ### Whose turn it is -/

/-- An event of the module, not a word. -/
def isEvent (i : Instr) : Bool := match i with
  | .unassignedEntry _ => false
  | i => i.sig.isNone

/-- What a turn comes to. (Log entry 3, DESIGN CHOICE.) -/
def State.take (s : State) : Turn → Act
  | .issue w p => s.waveTurn w p
  | .chan c => s.chanTurn c
  | .pass n => .done (s.pass n)
  | .event i a => if isEvent i then .run i { s with cur := .event a } else .done s

/-- Turns that may be taken, with what they are ordered by. -/
abbrev Waiting := List (List Nat × Turn)

/-- The first of some turns. -/
def Waiting.first (l : Waiting) : Option Turn := (l.foldl (fun (m : Option (List Nat × Turn)) e => match m with
  | none => some e
  | some x => if e.1 < x.1 then some e else some x) none).map Prod.snd

/-- The paths that may move: ready, with no word yet or one that its port takes (R74, R75), by how long each has had no
turn (R89). (Log entry 3, DESIGN CHOICE.) -/
def State.waitingPaths (s : State) : Waiting :=
  (s.waves.map fun e => (e.2.paths.filter fun p => s.pathReady e.2 p && (p.clause.isNone ||
    (s.portFree e.2 (p.port.getD 2) (max s.clock e.2.ready) && s.portPicks e.2 (p.port.getD 2) (max s.clock e.2.ready)))).map fun p =>
      ([p.turn, 0, e.1, p.id], Turn.issue e.1 p.id)).flatten

/-- The channels that may move, likewise (R263). -/
def State.waitingChans (s : State) : Waiting :=
  (s.chans.filter fun e => (e.2.st = .running || e.2.st = .waiting) && e.2.ph = .run && e.2.halt = .none &&
    (e.2.st = .waiting || s.enginePicks e.1)).map fun e => ([e.2.issued, 1, e.1], Turn.chan e.1)

/-- The memory events that a word awaits: its next access, or its completion. -/
def State.waitingOps (s : State) (w : Wave) : Waiting := w.ops.filterMap fun o =>
  let load := o.isLoad
  if o.performed then
    if !s.completable w o && !s.waitSpoiled o then none else
    some ([o.id], .event (if load then .loadComplete else .variableLatencyCompletion) (.op w.id o.id))
  else if !w.mayServe o then none else
  let k := match o.kind with
    | .load _ _ _ _ pieces => (pieces.findIdx? fun p => p.data.isNone).getD 0
    | _ => 0
  some ([o.id], .event .homeSliceService (.service w.id o.id k false))

/-- The memory events of a wave: those of its words, its oldest store's leaving, and the resolution of a fork. -/
def State.waitingOf (s : State) (w : Wave) : Waiting :=
  s.waitingOps w ++
  (match w.queue.head? with
    | some e => if w.ops.any fun o => decide (o.id < e.op) && !o.performed then []
      else [([e.op], Turn.event .storeQueueLeave (.wave w.id))]
    | none => []) ++
  (if w.resolvable.isSome then [([0], Turn.event .forkResolution (.wave w.id))] else [])

/-- The memory events that may happen, the ports' deliveries first, then by the age of the word.
(Log entry 3, DESIGN CHOICE.) -/
def State.waitingMem (s : State) : Waiting :=
  (match s.msys.ports.head? with
    | some p => [([0], Turn.event .writeDelivery (.delivery p.die 0))]
    | none => []) ++ ((s.waves.filter fun e => !s.away e.2.part).map fun e => s.waitingOf e.2).flatten

/-- The first core of some clusters that a condition holds of. -/
def firstCore (clusters : List Nat) (f : Nat → Bool) : Option Nat :=
  ((clusters.map fun c => (List.range 4).map fun i => 4 * c + i).flatten).find? f

/-- The next block of each share of a grid that a distributor may dispatch (R88, R375). (Log entry 3, DESIGN CHOICE.) -/
def State.waitingShares (s : State) (g : Grid) : Waiting := (s.sharesOf g).filterMap fun k =>
  match g.nextOf (s.ncl g.part) k with
  | none => none
  | some idx =>
    if !(if g.coop then s.mayDispatch g && s.placesAll g else s.couldPlace g k) || !s.mayGo g k then none else
    (firstCore (s.part g.part).clusters fun c => g.coop || (s.chooseCores g idx c).isSome).map fun c =>
      ([0, g.id, k], Turn.event .blockDispatch (.place g.id idx c))

/-- What may be dispatched (R88), stolen (R381) or relaunched (R104), and the partitions in the Saddlebag that a resume waits
to bring back (R383). (Log entry 3, DESIGN CHOICE.) -/
def State.waitingBlocks (s : State) : Waiting :=
  (s.parts.filterMap fun e => if e.2.resuming && s.placesFree e.1 then some ([0, e.1], Turn.event .resume (.part e.1)) else none) ++
  (s.grids.map fun e => s.waitingShares e.2).flatten ++
  (s.grids.map fun e => ((List.range 4).filter fun t => s.mayAsk e.2 t (s.asksNow t)).map fun t =>
    ([1, e.1, t], Turn.event .stealRequest (.steal e.1 t (s.asksNow t)))).flatten ++
  (s.blocks.filterMap fun e => match e.2.killed, aget s.grids e.2.grid with
    | true, some g => (firstCore (s.part g.part).clusters fun c => (s.againOn g e.2 c).isSome).map fun c =>
        ([2, e.1], Turn.event .blockRelaunch (.place g.id e.2.idx c))
    | _, _ => none)

/-- The turn taken when none is listed: from clock to clock the first choice goes to the paths and channels, of which the one
that has had no turn for longest, to a memory event, and to a block's dispatch, so that none keeps another waiting (R89).
(Log entry 3, DESIGN CHOICE.) -/
def State.usual (s : State) : Option Turn :=
  let moves (_ : Unit) := Waiting.first (s.waitingPaths ++ s.waitingChans)
  let mem (_ : Unit) := Waiting.first s.waitingMem
  let blocks (_ : Unit) := Waiting.first s.waitingBlocks
  if s.clock % 3 = 0 then ((mem ()).orElse moves).orElse blocks
  else if s.clock % 3 = 1 then ((moves ()).orElse blocks).orElse mem
  else ((blocks ()).orElse mem).orElse moves

/-- What the next step comes to: the first turn listed; with none listed, a clock passes and the usual turn is taken.
(Log entry 3, DESIGN CHOICE.) -/
def State.nextAct (s : State) : Act := match s.turns with
  | t :: rest => { s with turns := rest }.take t
  | [] => match (s.pass 1).usual with
    | some t => (s.pass 1).take t
    | none => .done (s.pass 1)

/-! ### One instruction, loaded (log entry 14, DESIGN CHOICE) -/

/-- Where the loaded instruction's clause stands: its header, in the first 1 GiB of die 0's stacked DRAM. -/
def loadAt : Nat := 0x10000

/-- The class of the clause that holds a word: its own, or SYS for a control transfer (R28, R38). -/
def loadClass (w : BitVec 32) : Nat :=
  match (Decode.build w none (tableLit w)).sig with
  | some g => if g.ctl then 5 else Decode.clsCode g.cls
  | none => 0

/-- Does the word run on an Awl engine? -/
def loadOnEngine (w : BitVec 32) : Bool :=
  match (Decode.build w none (tableLit w)).sig with
  | some g => assignedOpc (opcodeOf w) && g.cls = .eng
  | none => false

/-- The role of the wave that runs the word (R73): one whose clauses may be of the class. -/
def loadRole (w : BitVec 32) : Nat :=
  let n := opcodeOf w
  if loadClass w = 3 then 2 else if n = 0x1E1 ∨ n = 0x1E2 then 1 else 0

/-- The clause of the word and the literal the table leaves at zero: no waits (R28). -/
def loadClause (w : BitVec 32) : Clause :=
  let n : BitVec 32 := if (tableLit w).isSome then 2 else 1
  let lits : BitVec 32 := if (tableLit w).isSome then 0x20 else 0
  let cls := if loadOnEngine w then 4 else loadClass w
  ⟨n <<< 28 ||| BitVec.ofNat 32 (cls * 2 ^ 25) ||| lits, w :: (tableLit w).toList⟩

/-- A partition that runs, with the first 1 GiB as its carve-out and the tables at 0x1000. (Log entry 14, DESIGN CHOICE.) -/
def loadPart : Part :=
  { Part.reset with entry := [(0, 0x100#64), (1, 0x1000#64), (2, 0x10000000000000#64), (6, 1#64)] }

/-- A one-block grid of the partition. -/
def loadKernel : Kernel :=
  { entry := loadAt, bx := 32, by_ := 1, bz := 1, width := 32, vregs := 128, sregs := 128, level := 0, idem := false
    scheck := false, strict := false, scratch := 0, copy := 0, matrix := 0, vector := 0, general := 1, frame := 0
    rets := 32, decls := [] }

def loadGrid : Grid :=
  { id := 0, part := 0, kern := loadKernel, gx := 1, gy := 1, gz := 1, args := 0, lrec := 0, frame := 0, die := 0
    dsp := [], parent := none, launcher := none, up := 0, origin := none, within := none, root := true, detach := false
    strict := false, coop := false, prio := 0
    budget := 0, maxblk := 0, used := 1, blocks := 1, kids := 0, hold := 1, cfut := 0, qpart := 0, queue := none, qgen := 0
    packet := 0, tag := 0, irq := false, gang := none, cls := 1, deadline := 0, seed := (0, 0), place := [], skew := 0
    fin := [], rings := [], st := .running, next := [], done := 0, tstart := 0, tend := 0, start := none, fault := none, gfault := none
    quiet := false, after := [], saves := [], applied := 0, code := none, own := [], ended := false }

def loadBlock : Block :=
  { id := 0, grid := 0, idx := 0, cluster := 0, cores := [0], sbase := 0, part := 0, size := 0, nwaves := 1, bars := []
    run := 0, owed := false, again := false, killed := false, spill := 0, table := 0, saved := false, resolved := false
    winOut := false, cont := false, first := none }

/-- Its one wave, of 32 lanes, whose path has the clause fetched. (Log entry 14, DESIGN CHOICE.) -/
def loadWave (w : BitVec 32) : Wave :=
  { id := 0, grid := 0, block := 0, sub := 0, slot := 0, vregs := 128, sregs := 128, rets := 32, v := [], s := []
    launch := [(132, 1#64), (133, 1#64), (134, 1#64), (135, 32#64), (136, 1#64), (137, 1#64), (139, 32#64)] ++
      (if loadRole w = 0 then [] else [(149, BitVec.ofNat 64 (loadRole w))])
    p := [], j := [], jp := [], mtg := [], lk := [], fctl := [], stack := [], spilled := [], spills := [], dsp := [], ctr := List.replicate 6 0
    trap := none, paths := [⟨0, widthMask 32, loadAt, 1, some (loadClause w), .run, false, true, 0⟩], runPath := some 0
    pinned := false, exited := 0, queue := [], ops := [], late := [], ready := 0, issued := 0, redGen := 0, redCnt := 0, forks := []
    cause := 0, twin := none }

/-- A running channel of engine 0, whose program has the clause fetched. (Log entry 14, DESIGN CHOICE.) -/
def loadChan (w : BitVec 32) : Chan :=
  { Chan.reset with st := .running, ph := .run, recd := 0x20000, dwords := List.replicate 8 0, hdr := loadAt, idx := 1, clause := some (loadClause w) }

/-- Tables that map the first 1 GiB onto itself, with every permission (R91, R92). -/
def loadTables (s : State) : State :=
  ((s.setDword 0x1000 0x2001#64).setDword 0x2000 0x3001#64).setDword 0x3000 0x800000000000009D#64

/-- The bytes of the clause. -/
def loadBytes (w : BitVec 32) : List Byte :=
  let c := loadClause w
  ((c.hdr :: c.words).map fun x => bytesOf 4 x.toNat).flatten

/-- A state in which the next step runs the word: a partition, tables, a grid of one block and one wave, the word's
clause in memory and fetched, and its turn first. (Log entry 14, DESIGN CHOICE.) -/
def loadWord (s : State) (w : BitVec 32) : State :=
  let s1 := (loadTables s).setBytes (.glob loadAt) (loadBytes w)
  { s1 with
    hw := { s1.hw with ready := true }
    parts := aset s1.parts 0 loadPart
    grids := aset s1.grids 0 loadGrid
    blocks := aset s1.blocks 0 loadBlock
    waves := if loadOnEngine w then s1.waves else aset s1.waves 0 (loadWave w)
    chans := if loadOnEngine w then aset s1.chans 0 (loadChan w) else s1.chans
    turns := [if loadOnEngine w then .chan 0 else .issue 0 0]
    nextId := 1 }

end Sys2Proof.Machine
end

