-- ==== Sys2Proof/Machine/Step.lean ====
section
/-!
DEFINITION. The step: the agent whose turn it is moves, and where that runs an instruction, the state is the
instruction's (log entry 3, DESIGN CHOICE).
-/
namespace Sys2Proof.Machine

/-- One step of the machine. (Log entry 3, DESIGN CHOICE.) -/
def step (s : State) : Host.Outcome State Fault Refusal := match s.nextAct with
  | .done s1 => .next s1
  | .run i s1 => exec i s1

/-- The state with one instruction of the opcode table loaded, so that the next step runs it (log entry 14, DESIGN CHOICE). -/
def State.withFetchWord (s : State) (nbits w : Nat) : State := if nbits = 32 then loadWord s (BitVec.ofNat 32 w) else s

end Sys2Proof.Machine
end

