-- ==== Sys2Proof/Safety.lean ====
section
/-!
DEFINITION. The terms of the claims: data in canonical form, a word about to run and the conditions under which it runs
(R21, R23, R39, R44, R84, R195), what its run leaves unchanged, and where its results are found.
-/
namespace Sys2Proof.Machine

/-- Memory is in canonical form: addresses strictly rising, and no entry equal to what an unlisted address reads as. -/
def State.memWf (s : State) : Bool := sparseWf s.mem && sparseWf s.scr

/-- A step's outcome is a next state. -/
def goesOn (r : Host.Outcome State Fault Refusal) : Bool := match r with
  | .next _ => true
  | _ => false

/-! ### A wave's word about to run -/

/-- The cursor stands at a word of instruction `i`, whose table row is `g`, on a path of a wave; `c` is what the word
knows of its issue. -/
structure AtWord (i : Instr) (g : Sig) (s : State) (c : WCtx) : Prop where
  sig  : i.sig = some g
  cur  : s.cur = .wave c.w.id c.p.id c.hdr c.hword c.idx c.next
  wave : aget s.waves c.w.id = some c.w
  path : c.w.path c.p.id = some c.p
  ctx  : c = s.wctx c.w c.p g c.hdr c.hword c.idx c.next

/-- May a wave of the role run the word within its clause? (R39, R299) -/
def roleRuns (i : Instr) (g : Sig) (role : Nat) : Bool := match g.cls with
  | .awl => role ≠ 0 || (match i with | .awlGo _ => true | _ => false)
  | .mtx => role ≠ 3 || (match i with | .mxPop _ => true | _ => false)
  | _ => true

/-- Nothing stands before the word's own effect: its registers are declared (R21), its role may run it (R39), a
stall-checked wave is owed none of its registers (R44), it is not a word at which a twin stalls (R195), its counter is
below 63 (R23), and, for a cross-lane word, no lane of its mask is parked (R84). -/
structure Clear (i : Instr) (g : Sig) (c : WCtx) : Prop where
  regs   : ∀ f ∈ sigFields g, fldTooHigh f c.w.vregs c.w.sregs = false
  role   : roleRuns i g c.w.role = true
  stall  : c.w.stallcheck = true → (∀ r ∈ sigReads g, c.w.owed c.t r = false) ∧
    ∀ r ∈ sigWrites g, ∀ o ∈ c.w.ops, o.owes.contains r = false
  twin   : c.w.twin.isSome = true → stallsTwin i g = false
  ctr    : ∀ k, g.ctr = some k → c.w.ctr.getD k 0 < 63
  parked : crossLane i = true → maskLanes c.w c.t c.fresh c.w.parked c.pfx = 0

/-! ### What a run leaves -/

/-- The value of a register of a wave of the state. -/
def State.regIn (s : State) (w : Nat) (r : RegName) (l : Nat) : Word := match aget s.waves w with
  | some x => x.reg r l
  | none => 0

/-- A core but for the clocks until which its ports are taken (R75, R76). -/
def Core.butPorts (k : Core) : Core := { k with ports := [] }

/-- Everything of the machine beside waves, the clock, the ports' clocks and the model's own counters is unchanged: every
byte of memory and of every scratchpad, the memory system, the module's registers, partitions, grids, blocks, cores, channels,
time. -/
structure SameElse (s t : State) : Prop where
  mem    : ∀ a, sget t.mem a = sget s.mem a
  scr    : ∀ a, sget t.scr a = sget s.scr a
  msys   : t.msys = s.msys
  hw     : t.hw = s.hw
  parts  : t.parts = s.parts
  grids  : t.grids = s.grids
  blocks : t.blocks = s.blocks
  cores  : ∀ k, (t.core k).butPorts = (s.core k).butPorts
  chans  : t.chans = s.chans
  time   : t.time = s.time

/-- A wave's parts that no register word writes: identity, launch registers, rejoin partners, lk, return stacks, display,
counters, trap registers, exited lanes, the store queue and the strict-mode reduction counts. -/
def Wave.special (w : Wave) : Wave :=
  { w with
    v := [], s := [], p := [], j := [], mtg := [], fctl := [], paths := [], runPath := none, pinned := false, ops := [], late := []
    ready := 0, issued := 0, forks := [], twin := none }

/-- A wave but for the marks that its forks keep (R198). -/
def Wave.butForks (w : Wave) : Wave := { w with forks := [] }

/-- A pending operation but for the record of registers that later words have written (R43). -/
def PendOp.butRaced (o : PendOp) : PendOp := { o with raced := [] }

/-- A register number the machine has (R20). -/
def RegName.exists_ : RegName → Bool
  | .v n => decide (n < 128)
  | _ => true

/-- FRAME of a word that changes only registers and its own path: memory and the rest of the machine are unchanged; so is
every register of its wave but those `changed`, and every special register; no operation comes or goes; other waves
change only their forks' marks; the word's path is `path` now, and every other path stands where it stood. -/
structure Keeps (changed : RegName → Nat → Prop) (path : Option Path) (s t : State) (c : WCtx) : Prop where
  rest  : SameElse s t
  regs  : ∀ r l, r.exists_ = true → ¬ changed r l → t.regIn c.w.id r l = s.regIn c.w.id r l
  own   : ∃ w, aget t.waves c.w.id = some w ∧ w.special = c.w.special ∧
    w.ops.map PendOp.butRaced = c.w.ops.map PendOp.butRaced ∧ w.path c.p.id = path ∧
    ∀ k, k ≠ c.p.id → w.path k = c.w.path k
  waves : ∀ k, k ≠ c.w.id → (aget t.waves k).map Wave.butForks = (aget s.waves k).map Wave.butForks

/-- FRAME of a word that only writes registers: its path has moved past the word. -/
abbrev OnlyRegs (changed : RegName → Nat → Prop) (s t : State) (c : WCtx) : Prop := Keeps changed (some c.advanced) s t c

/-- A word wrote the value `val` tells, lane by lane, to vector register `d` of its active lanes, 0 in the lanes that a
`zero` prefix names, and nothing else (R27). -/
structure VecDone (d : Nat) (val : Nat → Word → Prop) (s t : State) (c : WCtx) : Prop where
  value  : ∀ l, inLanes c.act l = true → val l (t.regIn c.w.id (.v d) l)
  zeroed : ∀ l, inLanes c.zeroed l = true → t.regIn c.w.id (.v d) l = 0
  frame  : OnlyRegs (fun r l => r = .v d ∧ (inLanes c.act l || inLanes c.zeroed l) = true) s t c

/-- A word wrote predicate register `d`, lane by lane; p0 discards the write and reads true (R20, R21, R27, R136). -/
structure PredDone (d : Nat) (val : Nat → Bool) (s t : State) (c : WCtx) : Prop where
  value  : d ≠ 0 → ∀ l, inLanes c.act l = true → t.regIn c.w.id (.p d) l = boolW (val l)
  zeroed : d ≠ 0 → ∀ l, inLanes c.zeroed l = true → t.regIn c.w.id (.p d) l = 0
  p0     : ∀ l, t.regIn c.w.id (.p 0) l = 1
  frame  : OnlyRegs (fun r l => r = .p d ∧ d ≠ 0 ∧ (inLanes c.act l || inLanes c.zeroed l) = true) s t c

/-- A word wrote one value to uniform register `d`, and nothing else (R144). -/
structure UniDone (d : Nat) (val : Word → Prop) (s t : State) (c : WCtx) : Prop where
  value : val (t.regIn c.w.id (.s d) 0)
  frame : OnlyRegs (fun r _ => r = .s d) s t c

/-- FRAME of a memory word that has issued and left an operation pending: the bytes it has changed are among `touched`
(accessed and dirty bits of the table entries it used); no scratchpad byte and no register has changed; counter `k` is
one higher; the path has moved past the word; nothing else of the machine has changed but what the memory system keeps of
translations and forks. -/
structure Issued (touched : Nat → Prop) (k : Nat) (s t : State) (c : WCtx) : Prop where
  mem    : ∀ a, ¬ touched a → sget t.mem a = sget s.mem a
  scr    : ∀ a, sget t.scr a = sget s.scr a
  hw     : t.hw = s.hw
  parts  : t.parts = s.parts
  grids  : t.grids = s.grids
  blocks : t.blocks = s.blocks
  cores  : ∀ k, (t.core k).butPorts = (s.core k).butPorts
  chans  : t.chans = s.chans
  time   : t.time = s.time
  locks  : t.msys.locks = s.msys.locks
  regs   : ∀ r l, r.exists_ = true → t.regIn c.w.id r l = s.regIn c.w.id r l
  own    : ∃ w, aget t.waves c.w.id = some w ∧ w.path c.p.id = some c.advanced ∧
    w.ctr = c.w.ctr.set k (c.w.ctr.getD k 0 + 1) ∧ w.launch = c.w.launch ∧ w.lk = c.w.lk ∧ w.stack = c.w.stack ∧
    w.dsp = c.w.dsp ∧ w.trap = c.w.trap ∧ w.exited = c.w.exited
  waves  : ∀ j, j ≠ c.w.id → (aget t.waves j).map Wave.butForks = (aget s.waves j).map Wave.butForks

/-- The wave's newest operation. -/
def State.newOp (s : State) (w : Nat) : Option PendOp := (aget s.waves w).bind fun x => x.ops.getLast?

/-- A lane of a wave stands at a header, on a path that runs. -/
def State.standsAt (s : State) (w l a : Nat) : Prop := ∃ x, aget s.waves w = some x ∧
  ∃ q ∈ x.paths, inLanes q.lanes l = true ∧ q.hdr = a ∧ q.idx = 0 ∧ q.st = .run

end Sys2Proof.Machine
end

