-- ==== Sys2Proof/Certificates/Slice0/Obligations.lean ====
section
/-!
DEFINITION. The statements for the provers. A statement about a word says: where the word stands before its wave
(`AtWord`) and nothing stands before its effect (`Clear`), `exec` answers a next state, and that state holds the effect
the spec gives, with its frame. Events say the same of their operands.
-/
namespace Sys2Proof.Claims
open Sys2Proof.Machine

/-! ### Vocabulary of the integer words (R17, R35, R127) -/

/-- The integer that an element pattern of type `t` stands for. -/
def value (t : IntTy) (n : Nat) : Int := if t.signed && decide (2 ^ (t.width - 1) ≤ n) then (n : Int) - 2 ^ t.width else n

/-- The least and greatest integer of a type. -/
def least (t : IntTy) : Int := if t.signed then -(2 ^ (t.width - 1)) else 0
def greatest (t : IntTy) : Int := if t.signed then 2 ^ (t.width - 1) - 1 else 2 ^ t.width - 1

/-- The pattern `y` is the exact integer `x` finished: clamped under `sat`, else modulo `2^w`. -/
def finished (t : IntTy) (sat : Bool) (x : Int) (y : Nat) : Prop :=
  if sat then value t y = max (least t) (min (greatest t) x) else (y : Int) = x % 2 ^ t.width

/-- Element `e` of operand b read at width `w`: of vb, or the literal, extended as the type says, for every element. -/
def bElem (c : WCtx) (o : OpsV) (signed : Bool) (w l e : Nat) : Nat := match o.lit with
  | some x => ((if signed then x.toInt else (x.toNat : Int)) % 2 ^ w).toNat
  | none => elem w (c.v l o.b) e

/-- Operand b of an untyped word: vb, or the literal sign-extended to 64 bits. -/
def bSext (c : WCtx) (o : OpsV) (l : Nat) : Word := match o.lit with
  | some x => x.signExtend 64
  | none => c.v l o.b

/-- The third input: the fourth register when the prefix supplies one, else vd before the word. -/
def cIn (c : WCtx) (o : OpsV) (l : Nat) : Word := match c.pfx with
  | some p => if p.has4 then c.v l p.fourth else c.v l o.d
  | none => c.v l o.d

/-- Each element `e` of the register `x` satisfies `P e`. -/
def eachElem (w : Nat) (x : Word) (P : Nat → Nat → Prop) : Prop := ∀ e, e < 64 / w → P e (elem w x e)

/-- The exact integer that an arithmetic word computes from elements of va, of b and of the third input, whether `sat`
acts on it, its type and operands (R128 to R131, R140). -/
def exactInt : Instr → Option (IntTy × OpsV × Bool × (Int → Int → Int → Int))
  | .add t o => some (t, o, true, fun a b _ => a + b)
  | .sub t o => some (t, o, true, fun a b _ => a - b)
  | .mul t o => some (t, o, true, fun a b _ => a * b)
  | .mulhi t o => some (t, o, false, fun a b _ => a * b / 2 ^ t.width)
  | .mad t o => some (t, o, true, fun a b c => a * b + c)
  | .min t o => some (t, o, false, fun a b _ => if a ≤ b then a else b)
  | .max t o => some (t, o, false, fun a b _ => if a ≤ b then b else a)
  | .abs t o => some (t, o, true, fun a _ _ => if 0 ≤ a then a else -a)
  | .neg t o => some (t, o, true, fun a _ _ => -a)
  | _ => none

/-- The result bit of a word that acts on all 64 bits, from bits of va, of b and of the third input (R132). -/
def bitOf : Instr → Option (OpsV × (Bool → Bool → Bool → Bool))
  | .and o => some (o, fun a b _ => a && b)
  | .or o => some (o, fun a b _ => a || b)
  | .xor o => some (o, fun a b _ => a ^^ b)
  | .andn o => some (o, fun a b _ => a && !b)
  | .not o => some (o, fun a _ _ => !a)
  | .sel o => some (o, fun a b c => (a && c) || (b && !c))
  | _ => none

/-- Where a control element's field lies: position and length, none when it is empty (R135). -/
def fieldAt (w ctl : Nat) : Option (Nat × Nat) :=
  let pos := ctl % 256
  let len := ctl / 256 % 256
  if len = 0 ∨ w ≤ pos then none else some (pos, min len (w - pos))

/-- What a count, shift, reversal or field word says of a result element `y`, from elements of va, b and the third
input (R133 to R135). -/
def elemRule : Instr → Option (OpsV × Nat × Bool × (Nat → Nat → Nat → Nat → Prop))
  | .popc t o => some (o, t.width, t.signed, fun a _ _ y => y = ((List.range t.width).filter fun k => a.testBit k).length)
  | .clz t o => some (o, t.width, t.signed, fun a _ _ y =>
      if a = 0 then y = t.width else y < t.width ∧ 2 ^ (t.width - 1 - y) ≤ a ∧ a < 2 ^ (t.width - y))
  | .brev t o => some (o, t.width, t.signed, fun a _ _ y =>
      ∀ k, k < t.width → y.testBit k = a.testBit (t.width - 1 - k))
  | .shl t o => some (o, t.width, t.signed, fun a b _ y => y = a * 2 ^ b % 2 ^ t.width)
  | .shr t o => some (o, t.width, t.signed, fun a b _ y => value t y = value t a / 2 ^ b)
  | .bfe t o => some (o, t.width, t.signed, fun a b _ y => match fieldAt t.width b with
      | none => y = 0
      | some (pos, n) => ∀ k, k < t.width → y.testBit k =
          if k < n then a.testBit (pos + k) else t.signed && a.testBit (pos + n - 1))
  | .bfi t o => some (o, t.width, t.signed, fun a b c y => match fieldAt t.width b with
      | none => y = c
      | some (pos, n) => ∀ k, k < t.width → y.testBit k =
          if pos ≤ k ∧ k < pos + n then a.testBit (k - pos) else c.testBit k)
  | _ => none

/-- The whole-register result of a move, widening or carry word in a lane (R137 to R142). -/
def regRule : Instr → Option (OpsV × (WCtx → Nat → Word → Prop))
  | .mov o => some (o, fun c l y => y = c.v l o.a)
  | .movImm o => some (o, fun c l y => y = bSext c o l)
  | .movs o => some (o, fun c _ y => y = match o.lit with
      | some x => x.signExtend 64
      | none => c.s o.b)
  | .lid o => some (o, fun _ l y => y.toNat = l)
  | .movp o => some (o, fun c l y => y.toNat = if c.pred l o.a.toNat then 1 else 0)
  | .wid t o => some (o, fun c l y => ∀ e, e < 64 / t.width →
      (elem t.width y e : Int) = toI t.signed (t.width / 2) (elem (t.width / 2) (c.v l o.a) e) % 2 ^ t.width)
  | .nar t o => some (o, fun c l y => ∀ e, e < 32 / t.width →
      finished t c.sat (toI t.signed (2 * t.width) (elem (2 * t.width) (c.v l o.a) e)) (elem t.width y e) ∧
      finished t c.sat (toI t.signed (2 * t.width) (bElem c o t.signed (2 * t.width) l e)) (elem t.width y (e + 32 / t.width)))
  | .addc o => some (o, fun c l y =>
      let cin := match c.pfx with
        | some p => if p.has4 then (c.v l p.fourth).toNat % 2 else 0
        | none => 0
      y.toNat = if 2 ^ 64 ≤ (c.v l o.a).toNat + bElem c o false 64 l 0 + cin then 1 else 0)
  | .subb o => some (o, fun c l y =>
      let cin := match c.pfx with
        | some p => if p.has4 then (c.v l p.fourth).toNat % 2 else 0
        | none => 0
      y.toNat = if ((c.v l o.a).toNat : Int) - bElem c o false 64 l 0 - cin < 0 then 1 else 0)
  | _ => none

/-- The truth value that a word writes to a predicate in a lane (R136, R137, R154, R155). -/
def predRule : Instr → Option (OpsV × (WCtx → Nat → Bool))
  | .cmpEq t o => some (o, fun c l => decide (value t (elem t.width (c.v l o.a) 0) = value t (bElem c o t.signed t.width l 0)))
  | .cmpNe t o => some (o, fun c l => decide (value t (elem t.width (c.v l o.a) 0) ≠ value t (bElem c o t.signed t.width l 0)))
  | .cmpLt t o => some (o, fun c l => decide (value t (elem t.width (c.v l o.a) 0) < value t (bElem c o t.signed t.width l 0)))
  | .cmpLe t o => some (o, fun c l => decide (value t (elem t.width (c.v l o.a) 0) ≤ value t (bElem c o t.signed t.width l 0)))
  | .pand o => some (o, fun c l => c.pred l o.a.toNat && c.pred l o.b.toNat)
  | .por o => some (o, fun c l => c.pred l o.a.toNat || c.pred l o.b.toNat)
  | .pxor o => some (o, fun c l => c.pred l o.a.toNat ^^ c.pred l o.b.toNat)
  | .pnot o => some (o, fun c l => !c.pred l o.a.toNat)
  | .ptst o => some (o, fun c l => decide (c.v l o.a &&& bSext c o l ≠ 0))
  | _ => none

/-! ### Floating point (R50 to R62, R148 to R162) -/

/-- Operand b of a floating-point word: vb, or the literal, which stands for every element (R35, R148). -/
def bFloat (c : WCtx) (o : OpsV) (t : FTy) (l : Nat) : Word := match o.lit with
  | some x => litFloat t x
  | none => c.v l o.b

/-- The element that an arithmetic word of a type computes under a lane's controls, from the values read from elements
of va, of b and of the third input: one exact result rounded once (R150), a selection that rounds nothing (R151), an
integral value (R153), or a correctly rounded quotient or root (R156). -/
def floatElem : Instr → Option (FTy × OpsV × (FpCtl → FVal → FVal → FVal → Nat))
  | .fadd t o => some (t, o, fun k a b _ => fpSumWrite (fmtOf t) k [a, b])
  | .fsub t o => some (t, o, fun k a b _ => fpSumWrite (fmtOf t) k [a, fpNeg b])
  | .fmul t o => some (t, o, fun k a b _ => fpWrite (fmtOf t) k (fpMul a b))
  | .fma t o => some (t, o, fun k a b c => fpSumWrite (fmtOf t) k [fpMul a b, c])
  | .fmin t o => some (t, o, fun _ a b _ => fpExact (fmtOf t) (fpMinNum a b))
  | .fmax t o => some (t, o, fun _ a b _ => fpExact (fmtOf t) (fpMaxNum a b))
  | .frnd t o => some (t, o, fun k a _ _ => fpRnd (fmtOf t) k a)
  | .fsqrt t o => some (t, o, fun k a _ _ => fpSqrt (fmtOf t) k a)
  | .fdiv t o => some (t, o, fun k a b _ => fpDiv (fmtOf t) k a b)
  | .frcp t o => some (t, o, fun k a _ _ => fpDiv (fmtOf t) k (.num false 1 0) a)
  | _ => none

/-- The bounded functions: binary32, but for FRSQ. The implementation's value is a free value (log entry 6), taken when
it lies within the rule's bound (R156). -/
def boundedElem : Instr → Option (Fmt × OpsV × (FpCtl → Nat → Nat))
  | .frsq t o => some (fmtOf t, o, fun k x => fpFlush (fmtOf t) k.ftz
      (fpRsqrt (fmtOf t) (Config.frsq (BitVec.ofNat 64 x) ((fmtOf t).w = 64)).toNat (fpRead (fmtOf t) k.daz x)))
  | .fexp2 o => some (fmtF32, o, fun k x => fpFlush fmtF32 k.ftz
      (fpExp2 (Config.fexp2 (BitVec.ofNat 32 x)).toNat k.sat (fpRead fmtF32 k.daz x)))
  | .flog2 o => some (fmtF32, o, fun k x => fpFlush fmtF32 k.ftz
      (fpLog2 (Config.flog2 (BitVec.ofNat 32 x)).toNat (fpRead fmtF32 k.daz x)))
  | .fsin o => some (fmtF32, o, fun k x => fpFlush fmtF32 k.ftz
      (fpSinCos false (Config.fsin (BitVec.ofNat 32 x)).toNat (fpRead fmtF32 k.daz x)))
  | .fcos o => some (fmtF32, o, fun k x => fpFlush fmtF32 k.ftz
      (fpSinCos true (Config.fcos (BitVec.ofNat 32 x)).toNat (fpRead fmtF32 k.daz x)))
  | .ftanh o => some (fmtF32, o, fun k x => fpFlush fmtF32 k.ftz
      (fpTanh (Config.ftanh (BitVec.ofNat 32 x)).toNat (fpRead fmtF32 k.daz x)))
  | _ => none

/-- The relations of FCMP and FCLASS on element 0 (R154, R155). -/
def floatPred : Instr → Option (OpsV × (WCtx → Nat → Bool))
  | .fcmpEq t o => some (o, fun c l => fpEq (rdF (fmtOf t) (c.ctl l) (c.v l o.a) 0) (rdF (fmtOf t) (c.ctl l) (bFloat c o t l) 0))
  | .fcmpNe t o => some (o, fun c l => !fpEq (rdF (fmtOf t) (c.ctl l) (c.v l o.a) 0) (rdF (fmtOf t) (c.ctl l) (bFloat c o t l) 0))
  | .fcmpLt t o => some (o, fun c l => fpLt (rdF (fmtOf t) (c.ctl l) (c.v l o.a) 0) (rdF (fmtOf t) (c.ctl l) (bFloat c o t l) 0))
  | .fcmpLe t o => some (o, fun c l =>
      let a := rdF (fmtOf t) (c.ctl l) (c.v l o.a) 0
      let b := rdF (fmtOf t) (c.ctl l) (bFloat c o t l) 0
      fpLt a b || fpEq a b)
  | .fcmpUn t o => some (o, fun c l =>
      fpIsNan (rdF (fmtOf t) (c.ctl l) (c.v l o.a) 0) || fpIsNan (rdF (fmtOf t) (c.ctl l) (bFloat c o t l) 0))
  | .fclass t o => some (o, fun c l => classF (fmtOf t) (c.v l o.a) o.b)
  | _ => none

/-! ### Conversions, scales, dot products and pairs (R57 to R67, R152, R157 to R162) -/

/-- CVT between floating formats: from the first to the second (R157). -/
def cvtFloat : CvtForm → Option (Fmt × Fmt)
  | .f32f64 => some (fmtF64, fmtF32)
  | .f16f32 => some (fmtF32, fmtF16)
  | .bf16f32 => some (fmtF32, fmtBF16)
  | .e4m3f32 => some (fmtF32, fmtE4M3)
  | .e5m2f32 => some (fmtF32, fmtE5M2)
  | .e2m1f32 => some (fmtF32, fmtE2M1)
  | .f64f32 => some (fmtF32, fmtF64)
  | .f32f16 => some (fmtF16, fmtF32)
  | .f32bf16 => some (fmtBF16, fmtF32)
  | .f32e4m3 => some (fmtE4M3, fmtF32)
  | .f32e5m2 => some (fmtE5M2, fmtF32)
  | .f32e2m1 => some (fmtE2M1, fmtF32)
  | _ => none

/-- CVT between integers and a floating format: the format, whether the integer is signed, and whether it is the result
(R157). -/
def cvtInt : CvtForm → Option (Fmt × Bool × Bool)
  | .i32f32 => some (fmtF32, true, true)
  | .n32f32 => some (fmtF32, false, true)
  | .i64f64 => some (fmtF64, true, true)
  | .n64f64 => some (fmtF64, false, true)
  | .f32i32 => some (fmtF32, true, false)
  | .f32n32 => some (fmtF32, false, false)
  | .f64i64 => some (fmtF64, true, false)
  | .f64n64 => some (fmtF64, false, false)
  | _ => none

/-- CVT (R55 to R57, R157): a narrowing form packs the elements of va, then of b, and zeros; a widening form takes the lowest
elements of va exactly; daz and ftz act on formats of 16 bits and more. -/
def cvtRule (k : CvtForm) (o : OpsV) (c : WCtx) (l : Nat) (y : Word) : Prop :=
  (∀ src dst, cvtFloat k = some (src, dst) → ∀ e, e < 64 / dst.w →
    (dst.w < src.w → elem dst.w y e = if 64 / src.w * 2 ≤ e then 0 else
      fpNarrow dst { c.ctl l with ftz := (c.ctl l).ftz && decide (16 ≤ dst.w) } (fpRead src (c.ctl l).daz
        (if e < 64 / src.w then elem src.w (c.v l o.a) e
         else elem src.w (bFloat c o (if src.w = 64 then .f64 else .f32) l) (e - 64 / src.w))) % 2 ^ dst.w) ∧
    (src.w < dst.w → elem dst.w y e = fpWrite dst { c.ctl l with sat := false }
      (fpRead src ((c.ctl l).daz && decide (16 ≤ src.w)) (elem src.w (c.v l o.a) e)) % 2 ^ dst.w)) ∧
  ∀ f sg int, cvtInt k = some (f, sg, int) → ∀ e, e < 64 / f.w →
    (int = true → (elem f.w y e : Int) = fpToInt (c.ctl l) sg f.w (fpRead f (c.ctl l).daz (elem f.w (c.v l o.a) e)) % 2 ^ f.w) ∧
    (int = false → ∀ n, n = toI sg f.w (elem f.w (c.v l o.a) e) →
      elem f.w y e = fpWrite f { c.ctl l with sat := false } (.num (decide (n < 0)) n.natAbs 0) % 2 ^ f.w)

/-- The narrow format of a CVTS form, and whether the form narrows (R158). -/
def cvtsForm : CvtsForm → Fmt × Bool
  | .e4m3f32 => (fmtE4M3, true)
  | .e5m2f32 => (fmtE5M2, true)
  | .e2m1f32 => (fmtE2M1, true)
  | .f32e4m3 => (fmtE4M3, false)
  | .f32e5m2 => (fmtE5M2, false)
  | .f32e2m1 => (fmtE2M1, false)

/-- An element under a scale byte `E`: times `2^(E − 127)`, or NaN under 0xFF (R59, R61). -/
def underScale (x : FVal) (E : Nat) : FVal := if E = 0xFF then .nan else fpScale x ((E : Int) - 127)

/-- CVTS (R158): a narrowing form writes elements 4q to 4q+3 and keeps the rest of vd; a widening form writes elements 2q and
2q+1 of va, widened. -/
def cvtsRule (k : CvtsForm) (o : OpsV) (c : WCtx) (l : Nat) (y : Word) : Prop :=
  let w := o.lit.getD 0
  let q := (w.extractLsb 12 10).toNat
  let E := elem 8 (c.v l (w.extractLsb 6 0)) (w.extractLsb 9 7).toNat
  let f := (cvtsForm k).1
  ((cvtsForm k).2 = true → ∀ e, e < 64 / f.w → elem f.w y e = if 4 * q ≤ e ∧ e < 4 * q + 4 then
      fpNarrow f { c.ctl l with ftz := false } (if E = 0xFF then .nan else fpScale (fpRead fmtF32 (c.ctl l).daz
        (elem 32 (if e < 4 * q + 2 then c.v l o.a else c.v l o.b) ((e - 4 * q) % 2))) (127 - (E : Int))) % 2 ^ f.w
    else elem f.w (c.v l o.d) e) ∧
  ((cvtsForm k).2 = false → ∀ j, j < 2 → elem 32 y j = fpWrite fmtF32 { c.ctl l with ftz := false }
    (underScale (fpDecode f (elem f.w (c.v l o.a) (2 * q + j))) E) % 2 ^ 32)

/-- SCL.SC8.F32 (R159): every byte of vd is the least scale that brings both magnitudes within the target, 254 if none does, and
0xFF where a value or the target is not finite or the target not positive. -/
def sclRule (o : OpsV) (c : WCtx) (l : Nat) (y : Word) : Prop :=
  let x (j : Nat) : FVal := fpRead fmtF32 (c.ctl l).daz (elem 32 (c.v l o.a) j)
  let T := fpDecode fmtF32 (elem 32 (bFloat c o .f32 l) 0)
  let num (v : FVal) : Prop := ∃ neg m e, v = .num neg m e
  let within (E : Nat) : Prop := ∀ j, j < 2 → fpLt (fpScale T ((E : Int) - 127)) (fpAbs (x j)) = false
  ∃ E, (∀ e, e < 8 → elem 8 y e = E) ∧
    ((∀ j, j < 2 → num (x j)) → num T → fpLt (.num false 0 0) T = true → E ≤ 254 ∧ (E < 254 → within E) ∧ ∀ k, k < E → ¬ within k) ∧
    ((∃ j, j < 2 ∧ ¬ num (x j)) ∨ ¬ num T ∨ fpLt (.num false 0 0) T = false → E = 0xFF)

/-- Weight `i` of a KQ8 index (R62). -/
def kqWeight (ix i : Nat) : FVal :=
  let bit (k : Nat) : Nat := ix / 2 ^ k % 2
  let b := if i < 7 then bit (8 + i) else ((List.range 7).map fun j => bit (8 + j)).sum % 2
  let neg := if i < 7 then bit i else if bit 15 = 0 then bit 7 else ((List.range 7).map bit).sum % 2
  let halves := if bit 15 = 0 then 2 * b else 1 + 2 * b
  .num (decide (neg = 1 ∧ halves ≠ 0)) halves (-1)

/-- The exact products of a floating DOT word in a lane (R61, R162). -/
def dotTerms (k : DotForm) (o : OpsV) (c : WCtx) (l : Nat) : List FVal :=
  let w := o.lit.getD 0
  let Ea := elem 8 (c.v l (w.extractLsb 6 0)) (w.extractLsb 9 7).toNat
  let Eb := elem 8 (c.v l (w.extractLsb 16 10)) (w.extractLsb 19 17).toNat
  let plain (f : Fmt) : List FVal := (List.range (64 / f.w)).map fun i =>
    fpMul (fpRead f (c.ctl l).daz (elem f.w (c.v l o.a) i)) (fpRead f (c.ctl l).daz (elem f.w (c.v l o.b) i))
  let scaled (f : Fmt) : List FVal := (List.range (64 / f.w)).map fun i =>
    fpMul (underScale (fpDecode f (elem f.w (c.v l o.a) i)) Ea) (underScale (fpDecode f (elem f.w (c.v l o.b) i)) Eb)
  match k with
  | .f16 => plain fmtF16
  | .bf16 => plain fmtBF16
  | .e4m3 => scaled fmtE4M3
  | .e5m2 => scaled fmtE5M2
  | .e2m1 => scaled fmtE2M1
  | .kq8 => (List.range 32).map fun i => fpMul (underScale (kqWeight (elem 16 (c.v l o.a) (i / 8)) (i % 8)) Ea)
      (underScale (fpDecode fmtE4M3 (elem 8 (c.v l (o.b + BitVec.ofNat 7 (i / 8))) (i % 8))) Eb)

/-- The winning pair (R67): a NaN loses, the larger value wins with −0 below +0, and of equals the lower index. -/
def winner (a b : FVal × Nat) : FVal × Nat :=
  if fpIsNan a.1 && fpIsNan b.1 then (.nan, min a.2 b.2) else if fpIsNan a.1 then b else if fpIsNan b.1 then a
  else if fpAbove a.1 b.1 then a else if fpAbove b.1 a.1 then b else (a.1, min a.2 b.2)

/-- The result register of the conversion, scale, decode, dot and pair words in a lane (R152, R157 to R162). -/
def convertRule : Instr → Option (OpsV × (WCtx → Nat → Word → Prop))
  | .cvt k o => some (o, cvtRule k o)
  | .cvts k o => some (o, cvtsRule k o)
  | .sclSc8F32 o => some (o, sclRule o)
  | .kqdec o => some (o, fun c l y =>
      let k := match o.lit with
        | some x => x.zeroExtend 64
        | none => c.v l o.b
      ∀ e, e < 4 → elem 16 y e = fpExact fmtBF16 (kqWeight (elem 16 (c.v l o.a) (k.toNat % 4)) (e + if k.getLsbD 2 then 4 else 0)) % 2 ^ 16)
  | .dot k o => some (o, fun c l y =>
      let e := if (o.lit.getD 0).getLsbD 20 then 1 else 0
      elem 32 y e = fpSumWrite fmtF32 (c.ctl l) (dotTerms k o c l ++ [fpRead fmtF32 (c.ctl l).daz (elem 32 (cIn c o l) e)]) % 2 ^ 32 ∧
        elem 32 y (1 - e) = elem 32 (c.v l o.d) (1 - e))
  | .dot8 x y o => some (o, fun c l r => dotRule 8 x y o c l r)
  | .dot4 x y o => some (o, fun c l r => dotRule 4 x y o c l r)
  | .fmaxix .f64 _ => none
  | .fmaxix t o => some (o, fun c l y => ∀ k, k < 32 / (fmtOf t).w →
      let w := (fmtOf t).w
      let pair (x : Word) : FVal × Nat := (fpRead (fmtOf t) (c.ctl l).daz (elem w x (2 * k)), elem w x (2 * k + 1))
      elem w y (2 * k) = fpExact (fmtOf t) (winner (pair (c.v l o.a)) (pair (c.v l o.b))).1 % 2 ^ w ∧
        elem w y (2 * k + 1) = (winner (pair (c.v l o.a)) (pair (c.v l o.b))).2)
  | _ => none
where
  /-- DOT8 and DOT4: the exact sum of the products and one 32-bit accumulator element of the third input, finished once;
  the other element of vd is kept (R162). -/
  dotRule (w : Nat) (x y : Sgn) (o : OpsV) (c : WCtx) (l : Nat) (r : Word) : Prop :=
    let e := if (o.lit.getD 0).getLsbD 20 then 1 else 0
    let s : Int := ((List.range (64 / w)).map fun k =>
      toI (x == .i) w (elem w (c.v l o.a) k) * toI (y == .i) w (elem w (c.v l o.b) k)).sum
    finished .i32 c.sat (s + value .i32 (elem 32 (cIn c o l) e)) (elem 32 r e) ∧
      elem 32 r (1 - e) = elem 32 (c.v l o.d) (1 - e)

/-! ### REDUX (R65, R165) -/

/-- The partial of `2^n` leaves from leaf `p` on: each step pairs neighbours, the lower left, under the first leaf's number. -/
def pairTree {α : Type} (op : Nat → α → α → α) (leaf : Nat → α) : Nat → Nat → α
  | 0, p => leaf p
  | n + 1, p => op p (pairTree op leaf n p) (pairTree op leaf n (p + 2 ^ n))

/-- An operation in which an absent partial loses. -/
def ofPresent {α : Type} (f : α → α → α) (_p : Nat) : Option α → Option α → Option α
  | none, y => y
  | some x, none => some x
  | some x, some y => some (f x y)

/-- REDUX over the active lanes of a wave of `2^n` lanes, each leaf read under its lane's controls and each step under those of
the lane of its left partial's first leaf (R165). -/
def reduxRule (k : ReduxOp) (o : OpsV) (c : WCtx) (n : Nat) (y : Word) : Prop :=
  let act (p : Nat) : Bool := inLanes c.act (p / 2)
  let val (p : Nat) : FVal := fpRead fmtF32 (c.ctl (p / 2)).daz (elem 32 (c.v (p / 2) o.a) (p % 2))
  let leaf (p : Nat) : Option FVal := if act p then some (val p) else none
  let pick (f : FVal → FVal → FVal) : Nat := fpExact fmtF32 ((pairTree (ofPresent f) leaf (n + 1) 0).getD .nan) % 2 ^ 32
  match k with
  | .addF32 => ∀ e, e < 2 → elem 32 y e = fpExact fmtF32 (pairTree
      (fun p a b => fpDecode fmtF32 (fpSumWrite fmtF32 (c.ctl (p / 2)) [a, b]))
      (fun p => if act p then val p else .num true 0 0) (n + 1) 0) % 2 ^ 32
  | .addI32 => ∀ e, e < 2 → elem 32 y e =
      ((List.range (2 ^ (n + 1))).map fun p => if act p then elem 32 (c.v (p / 2) o.a) (p % 2) else 0).sum % 2 ^ 32
  | .maxF32 => ∀ e, e < 2 → elem 32 y e = pick fpMaxNum
  | .minF32 => ∀ e, e < 2 → elem 32 y e = pick fpMinNum
  | .maxixF32 =>
    let r := (pairTree (ofPresent winner) (fun l => if inLanes c.act l then
      some (fpRead fmtF32 (c.ctl l).daz (elem 32 (c.v l o.a) 0), elem 32 (c.v l o.a) 1) else none) n 0).getD (.nan, 0xFFFFFFFF)
    elem 32 y 0 = fpExact fmtF32 r.1 % 2 ^ 32 ∧ elem 32 y 1 = r.2

/-- The rational value of an exact number. -/
def rat : FVal → ℚ
  | .num neg m e => (if neg then -1 else 1) * (m : ℚ) * 2 ^ e
  | _ => 0

/-- Is an exact value a finite number? -/
def finite : FVal → Bool
  | .num _ _ _ => true
  | _ => false

/-- The finite value `r` of format `f` is what mode `rm` makes of `x` among the format's finite values: the nearest, the
even pattern of two that are as near (0); the largest not beyond `x` in magnitude (1); the largest not above (2); the
smallest not below (3). -/
def roundedTo (f : Fmt) (rm : Nat) (x : ℚ) (r : Nat) : Prop := ∀ q, q < 2 ^ f.w → finite (fpDecode f q) = true →
  let v := rat (fpDecode f r)
  let u := rat (fpDecode f q)
  match rm with
  | 0 => |x - v| ≤ |x - u| ∧ (|x - v| = |x - u| → u ≠ v → r % 2 = 0)
  | 1 => |v| ≤ |x| ∧ (0 ≤ x * v) ∧ (0 ≤ x * u → |u| ≤ |x| → |u| ≤ |v|)
  | 2 => v ≤ x ∧ (u ≤ x → u ≤ v)
  | _ => x ≤ v ∧ (x ≤ u → v ≤ u)

/-! ### Cross-lane words (R163 to R167) -/

/-- The width of the subgroups that code `g` makes of a wave, and the first lane of a lane's subgroup (R164). -/
def groupWidth (W g : Nat) : Nat := if g = 0 then W else min (2 ^ g) W
def groupBase (S l : Nat) : Nat := l - l % S

/-- Operand k and code g of an immediate shuffle (R164). -/
def shuffleImm (o : OpsV) : Int × Nat := match o.lit with
  | some x => ((x.extractLsb 6 0).toInt, (x.extractLsb 10 8).toNat)
  | none => (o.b.toInt, 0)

/-- The lane each lane of a shuffle reads (R164). -/
def shuffleFrom : Instr → Option (OpsV × (WCtx → Nat → Nat))
  | .shfl o => some (o, fun c l =>
      let x := match o.lit with
        | some y => y.zeroExtend 64
        | none => c.v l o.b
      let g := bitsOf x 34 32
      let S := groupWidth c.w.width (if g = 7 then 0 else g)
      groupBase S l + bitsOf x 31 0 % S)
  | .shflX o => some (o, fun c l =>
      let S := groupWidth c.w.width (shuffleImm o).2
      groupBase S l + ((l % S) ^^^ ((shuffleImm o).1 % 128).toNat) % S)
  | .shflUp o => some (o, fun c l =>
      let S := groupWidth c.w.width (shuffleImm o).2
      groupBase S l + (((l % S : Nat) - (shuffleImm o).1) % (S : Int)).toNat)
  | .shflDn o => some (o, fun c l =>
      let S := groupWidth c.w.width (shuffleImm o).2
      groupBase S l + (((l % S : Nat) + (shuffleImm o).1) % (S : Int)).toNat)
  | .bcast o => some (o, fun c l =>
      let S := groupWidth c.w.width (shuffleImm o).2
      groupBase S l + ((shuffleImm o).1 % (S : Int)).toNat)
  | _ => none

/-- VOTE's answer over the active lanes (R166). -/
def voteRule (k : VoteOp) (c : WCtx) (a : BitVec 7) (y : Word) : Prop := match k with
  | .any => (y = 1 ∧ ∃ l, inLanes c.act l = true ∧ c.v l a ≠ 0) ∨ (y = 0 ∧ ∀ l, inLanes c.act l = true → c.v l a = 0)
  | .all => (y = 1 ∧ ∀ l, inLanes c.act l = true → c.v l a ≠ 0) ∨ (y = 0 ∧ ∃ l, inLanes c.act l = true ∧ c.v l a = 0)
  | .bal => ∀ l, l < 64 → (y.getLsbD l = true ↔ inLanes c.act l = true ∧ c.v l a ≠ 0)

/-! ### Uniform words (R144 to R147) -/

/-- Operand b of a uniform word: sb, or the literal, sign-extended, or zero-extended where the suffix is .n64. -/
def uB (c : WCtx) (o : OpsG) (n : Bool) : Word := match o.lit with
  | some x => if n then x.zeroExtend 64 else x.signExtend 64
  | none => c.s o.b

/-- A 64-bit pattern as a signed or unsigned integer. -/
def int64 (t : Sgn) (x : Word) : Int := match t with
  | .i => x.toInt
  | .n => x.toNat

/-- What a uniform word says of its result (R145 to R147); `s` is the state it issues in. -/
def uniRule : Instr → Option (OpsG × (WCtx → State → Word → Prop))
  | .uadd o => some (o, fun c _ y => y.toNat = ((c.s o.a).toNat + (uB c o false).toNat) % 2 ^ 64)
  | .usub o => some (o, fun c _ y => (y.toNat : Int) = ((c.s o.a).toNat - (uB c o false).toNat : Int) % 2 ^ 64)
  | .umul o => some (o, fun c _ y => y.toNat = (c.s o.a).toNat * (uB c o false).toNat % 2 ^ 64)
  | .umulhi t o => some (o, fun c _ y =>
      (y.toNat : Int) = int64 t (c.s o.a) * int64 t (uB c o (t == .n)) / 2 ^ 64 % 2 ^ 64)
  | .umin t o => some (o, fun c _ y => int64 t y = min (int64 t (c.s o.a)) (int64 t (uB c o (t == .n))))
  | .umax t o => some (o, fun c _ y => int64 t y = max (int64 t (c.s o.a)) (int64 t (uB c o (t == .n))))
  | .uand o => some (o, fun c _ y => ∀ k, k < 64 → y.getLsbD k = ((c.s o.a).getLsbD k && (uB c o false).getLsbD k))
  | .uor o => some (o, fun c _ y => ∀ k, k < 64 → y.getLsbD k = ((c.s o.a).getLsbD k || (uB c o false).getLsbD k))
  | .uxor o => some (o, fun c _ y => ∀ k, k < 64 → y.getLsbD k = ((c.s o.a).getLsbD k ^^ (uB c o false).getLsbD k))
  | .ushl o => some (o, fun c _ y => y.toNat = (c.s o.a).toNat * 2 ^ (uB c o false).toNat % 2 ^ 64)
  | .ushr t o => some (o, fun c _ y => int64 t y = int64 t (c.s o.a) / 2 ^ (uB c o (t == .n)).toNat)
  | .umov o => some (o, fun c _ y => y = c.s o.a)
  | .umovImm o => some (o, fun c _ y => y = uB c o false)
  | .ucmpEq o => some (o, fun c _ y => y = if c.s o.a = uB c o false then 1 else 0)
  | .ucmpNe o => some (o, fun c _ y => y = if c.s o.a = uB c o false then 0 else 1)
  | .ucmpLt t o => some (o, fun c _ y => y = if int64 t (c.s o.a) < int64 t (uB c o (t == .n)) then 1 else 0)
  | .ucmpLe t o => some (o, fun c _ y => y = if int64 t (c.s o.a) ≤ int64 t (uB c o (t == .n)) then 1 else 0)
  | .upopc o => some (o, fun c _ y => y.toNat = ((List.range 64).filter fun k => (c.s o.a).getLsbD k).length)
  | .uclz o => some (o, fun c _ y =>
      if c.s o.a = 0 then y.toNat = 64 else y.toNat < 64 ∧ (c.s o.a).getLsbD (63 - y.toNat) = true ∧
        ∀ k, 63 - y.toNat < k → (c.s o.a).getLsbD k = false)
  | .movl o => some (o, fun c s y => y =
      let n := 128 + o.a.toNat
      if n = 152 then s.time.dev else if n < 156 then c.w.lreg n
      else match c.w.trap with
        | some t => if c.p.handler then (if n = 156 then t.cause else if n = 157 then t.pc else if n = 158 then t.lanes
            else t.addr) else 0
        | none => 0)
  | .ulane o => some (o, fun c _ y => y = c.v ((uB c o false).toNat % c.w.width) o.a)
  | _ => none

/-! ### Memory words (R208 to R224) -/

/-- The bytes of the table entries that some lanes' translations used (accessed and dirty bits, R92). -/
def leafBytes (l : List (List (Xlat × Nat))) (a : Nat) : Prop := ∃ xl ∈ l, ∃ x ∈ xl, ∃ p, x.1.slot = some p ∧ p ≤ a ∧ a < p + 8

/-- Every lane's access of `n` bytes passes the checks of R209: it translates with the rights it needs, is aligned where
it must be, meets no range lock and no address region that its word refuses; `xl` is each lane's translation. -/
def allPass (s : State) (c : WCtx) (n : Nat) (acc : Acc) (aligned : Bool) (bad : Xlat → Bool) (lanes : List (Nat × Word))
    (xl : Nat → List (Xlat × Nat)) : Prop := ∀ e ∈ lanes, s.laneX c.w.part e.2 n acc = .ok (xl e.1) ∧
      (aligned = true → e.2.toNat % n = 0) ∧ (∀ x ∈ xl e.1, bad x.1 = false) ∧ s.locked c.w.core false e.2.toNat n = false

/-- The lanes of a word with their translations. -/
def accs (lanes : List (Nat × Word)) (xl : Nat → List (Xlat × Nat)) : List LaneAcc := lanes.map fun e => ⟨e.1, e.2, xl e.1⟩

/-- The plain and ordered global loads: their lanes with the addresses they load from, bytes, sign extension,
destinations, kind of access, and the order's effects (R211, R212, R214, R216). -/
structure LoadForm where
  lanes   : WCtx → List (Nat × Word)
  n       : Nat
  signed  : Bool
  dst     : List RegName
  acc     : Acc
  aligned : Bool
  bad     : Xlat → Bool
  acquire : Nat
  drain   : Bool

def globalLoad : Instr → Option LoadForm
  | .ldG t b o => some ⟨fun c => c.addrs b o t.bytes, t.bytes, t.signed, [.v o.d.toNat], .load, false, fun _ => false, 0, false⟩
  | .ldGN64X2 b o => some ⟨fun c => c.addrs b o 16, 16, false, [.v o.d.toNat, .v (o.d.toNat + 1)], .load, false, fun _ => false,
      0, false⟩
  | .uld o => some ⟨fun c => [(0, addOff (c.s o.a) (mOffset o 8))], 8, false, [.s o.d.toNat], .load, false, fun _ => false, 0, false⟩
  | .ldo t o => some ⟨fun c => c.addrsAT o, t.bytes, false, [.v o.d.toNat], .ldo, true,
      fun x => o.order.acquires && o.scope ≠ .sys && portMem x.pa, if !o.order.acquires then 0 else if o.scope.atBlk then 2 else 1,
      o.order.acquires⟩
  | _ => none

/-- The plain global stores and the relaxed STO: lanes with the addresses they store to, bytes, each lane's data, and
the kind of access (R211, R212, R214, R216). -/
structure StoreForm where
  lanes   : WCtx → List (Nat × Word)
  n       : Nat
  data    : WCtx → Nat → List Byte
  acc     : Acc
  aligned : Bool

def globalStore : Instr → Option StoreForm
  | .stG t b o => some ⟨fun c => c.addrs b o t.bytes, t.bytes, fun c l => bytesOf t.bytes (c.v l o.d).toNat, .store, false⟩
  | .stGN64X2 b o => some ⟨fun c => c.addrs b o 16, 16,
      fun c l => bytesOf 8 (c.v l o.d).toNat ++ bytesOf 8 (c.v l (o.d + 1)).toNat, .store, false⟩
  | .ust o => some ⟨fun c => [(0, addOff (c.s o.a) (mOffset o 8))], 8, fun c _ => bytesOf 8 (c.s o.d).toNat, .store, false⟩
  | .sto t o => if o.order.releases then none else
      some ⟨fun c => c.addrsAT o, t.bytes, fun c l => bytesOf t.bytes (c.v l o.d).toNat, .ldo, true⟩
  | _ => none

/-- The scratchpad and window loads: whether the whole window, bytes, sign extension and destinations (R100, R211,
R212). -/
def scratchLoad : Instr → Option (Bool × OpsG × Nat × Bool × List RegName)
  | .ldS t o => some (false, o, t.bytes, t.signed, [.v o.d.toNat])
  | .ldSN64X2 o => some (false, o, 16, false, [.v o.d.toNat, .v (o.d.toNat + 1)])
  | .ldRN64 o => some (true, o, 8, false, [.v o.d.toNat])
  | .ldRN64X2 o => some (true, o, 16, false, [.v o.d.toNat, .v (o.d.toNat + 1)])
  | _ => none

/-- The scratchpad and window stores: whether the whole window, bytes and each lane's data. -/
def scratchStore : Instr → Option (Bool × OpsG × Nat × (WCtx → Nat → List Byte))
  | .stS t o => some (false, o, t.bytes, fun c l => bytesOf t.bytes (c.v l o.d).toNat)
  | .stSN64X2 o => some (false, o, 16, fun c l => bytesOf 8 (c.v l o.d).toNat ++ bytesOf 8 (c.v l (o.d + 1)).toNat)
  | .stRN64 o => some (true, o, 8, fun c l => bytesOf 8 (c.v l o.d).toNat)
  | .stRN64X2 o => some (true, o, 16, fun c l => bytesOf 8 (c.v l o.d).toNat ++ bytesOf 8 (c.v l (o.d + 1)).toNat)
  | _ => none

/-- Every lane's scratchpad offset lies in the part or window, is aligned, meets no range lock, and for a load no
uncorrectable error; `pl` is each lane's core and local address (R100, R209). -/
def scratchPass (s : State) (c : WCtx) (window read : Bool) (n : Nat) (lanes : List (Nat × Word)) (pl : Nat → Nat × Nat) : Prop :=
  ∀ e ∈ lanes, s.windowPlace c window e.2.toNat n = some (pl e.1) ∧ e.2.toNat % n = 0 ∧
    s.locked (pl e.1).1 true (pl e.1).2 n = false ∧ (read = true → s.eccHit (.scr (pl e.1).1 (pl e.1).2) n = false)

/-- The atomic words: what each does to its location, its bytes, and the second operand (R218 to R220). -/
def atomicForm : Instr → Option (OpsAT × AtomFn × Nat × (WCtx → Nat → Word))
  | .atomAdd .n32 o => some (o, .add, 4, fun _ _ => 0)
  | .atomAdd .n64 o => some (o, .add, 8, fun _ _ => 0)
  | .atomAdd .f32 o => some (o, .addF32, 4, fun _ _ => 0)
  | .atomMin .i o => some (o, .minI, 8, fun _ _ => 0)
  | .atomMin .n o => some (o, .minN, 8, fun _ _ => 0)
  | .atomMax .i o => some (o, .maxI, 8, fun _ _ => 0)
  | .atomMax .n o => some (o, .maxN, 8, fun _ _ => 0)
  | .atomMaxix o => some (o, .maxN, 8, fun _ _ => 0)
  | .atomAnd o => some (o, .and, 8, fun _ _ => 0)
  | .atomOr o => some (o, .or, 8, fun _ _ => 0)
  | .atomXor o => some (o, .xor, 8, fun _ _ => 0)
  | .atomXchg o => some (o, .xchg, 8, fun _ _ => 0)
  | .cas .n32 o => some (o, .cas, 4, fun c l => c.v l (o.d + 1))
  | .cas .n64 o => some (o, .cas, 8, fun c l => c.v l (o.d + 1))
  | _ => none

/-- A global access as its checks see it: its lanes with their addresses, bytes and kind, whether it must be aligned, when
its scope is refused outright and where its region is, and whether its faults concern the whole path (R209, R214, R222). -/
structure Access where
  lanes   : WCtx → List (Nat × Word)
  n       : Nat
  acc     : Acc
  aligned : Bool
  early   : WCtx → Bool
  bad     : Xlat → Bool
  whole   : Bool

def accessOf (i : Instr) : Option Access := match globalLoad i, globalStore i, atomicForm i with
  | some f, _, _ => some ⟨f.lanes, f.n, f.acc, f.aligned, fun c => c.w.strict && (match i with
      | .ldo _ o => o.order.acquires && o.scope.wide
      | _ => false), f.bad, (match i with | .uld _ => true | _ => false)⟩
  | none, some f, _ => some ⟨f.lanes, f.n, f.acc, f.aligned, fun _ => false, fun _ => false,
      (match i with | .ust _ => true | _ => false)⟩
  | none, none, some (o, _, n, _) => some ⟨fun c => c.addrsAT o, n, .atomic, true, fun c => c.w.strict && o.scope.wide,
      fun x => o.scope ≠ .sys && portMem x.pa, false⟩
  | none, none, none => match i with
    | .sto t o => some ⟨fun c => c.addrsAT o, t.bytes, .ldo, true, fun c => c.w.strict && o.scope.wide,
        fun x => o.scope ≠ .sys && portMem x.pa, false⟩
    | _ => none

/-- Lanes of a fault, and the address of the first of them. -/
def lanesIn (whole : Bool) (c : WCtx) (l : List (Nat × Word)) : Lanes := if whole then c.act else lanesOf (l.map Prod.fst)
def firstOf (l : List (Nat × Word)) : Word := (l.headD (0, 0)).2

/-- The granules of 32 bytes that a word's accesses touch (R194). -/
def granulesOf (l : List LaneAcc) (n : Nat) : List Loc := (((l.map fun a => piecesOf a n).flatten).map fun p => granules p.loc p.n).flatten

/-- What an atomic leaves at its location of `n` bytes, from the old value and its operands (R218, R220). -/
def atomicResult (f : AtomFn) (n old x y : Nat) : Option Nat := match f with
  | .add => some ((old + x) % 2 ^ (8 * n))
  | .minN => some (min old (x % 2 ^ (8 * n)))
  | .maxN => some (max old (x % 2 ^ (8 * n)))
  | .and => some (old &&& (x % 2 ^ (8 * n)))
  | .or => some (old ||| (x % 2 ^ (8 * n)))
  | .xor => some (old ^^^ (x % 2 ^ (8 * n)))
  | .xchg => some (x % 2 ^ (8 * n))
  | .cas => some (if old = x % 2 ^ (8 * n) then y % 2 ^ (8 * n) else old)
  | _ => none

/-! ### Control words (R169 to R181, R188, R203 to R207) -/

/-- FRAME of a control word: its wave is `w` now, with every counter, operation, queued store, launch and
display register as it was, and every register but those `changed`; memory is unchanged. -/
structure Moves (changed : RegName → Prop) (s t : State) (c : WCtx) (w : Wave) : Prop where
  own    : aget t.waves c.w.id = some w
  mem    : ∀ a, sget t.mem a = sget s.mem a
  scr    : ∀ a, sget t.scr a = sget s.scr a
  time   : t.time = s.time
  hw     : t.hw = s.hw
  regs   : ∀ r l, r.exists_ = true → ¬ changed r → w.reg r l = c.w.reg r l
  kept   : w.ctr = c.w.ctr ∧ w.ops = c.w.ops ∧ w.queue = c.w.queue ∧ w.launch = c.w.launch ∧ w.dsp = c.w.dsp ∧
    w.exited = c.w.exited ∧ w.redGen = c.w.redGen ∧ w.redCnt = c.w.redCnt

/-- A branch's target: H + 4 × offset (R33, R170). -/
def branchTarget (c : WCtx) (off : Int) : Nat := (((c.hdr : Int) + 4 * off) % 2 ^ 64).toNat

/-- The direct branches: their offset and when they are taken (R170). -/
def branchForm : Instr → Option (Int × (WCtx → Prop))
  | .bra o => some (o.off.toInt, fun _ => True)
  | .braAny o => some (o.off.toInt, fun c => ∃ l, inLanes c.act l = true ∧ c.pred l o.p.toNat = true)
  | .braAll o => some (o.off.toInt, fun c => ∀ l, inLanes c.act l = true → c.pred l o.p.toNat = true)
  | .braNz o => some (o.off.toInt, fun c => c.s o.n ≠ 0)
  | .braZ o => some (o.off.toInt, fun c => c.s o.n = 0)
  | _ => none

/-- A lane's target of BRX or CALLX: from v, s or lk (R171). -/
def laneTarget (c : WCtx) (o : OpsG) (l : Nat) : Word :=
  if o.b = 0 then c.v l o.a else if o.b = 1 then c.s o.a else sget c.w.lk l

/-- A lane's return stack, top first (R22). -/
def stackOf (w : Wave) (l : Nat) : List Word := (aget w.stack l).getD []

/-- The word pushed its return point in its active lanes: it is on top of their stacks and in lk (R172). -/
def pushed (c : WCtx) (w : Wave) : Prop :=
  (∀ l, inLanes c.act l = true → stackOf w l = BitVec.ofNat 64 c.after :: stackOf c.w l ∧
    sget w.lk l = BitVec.ofNat 64 c.after) ∧
  ∀ l, inLanes c.act l = false → stackOf w l = stackOf c.w l ∧ sget w.lk l = sget c.w.lk l

/-- Every active lane has room for one more return point (R22). -/
def stackRoom (c : WCtx) : Prop := ∀ l, inLanes c.act l = true → (stackOf c.w l).length < c.w.rets

/-- The lanes whose return-stack cache is full, and where the oldest entry of each is spilled (R22). -/
def spillLanes (s : State) (c : WCtx) : List (Nat × Word) :=
  (c.lanes.filter fun l => decide (8 ≤ c.w.cached l)).map fun l => (l, c.w.spillAddr (s.spillBase c.w) l (c.w.spilledOf l))

/-- The lanes of which some of the top `n` entries stand in spill memory, and where the youngest of those is (R22, R173). -/
def refillLanes (s : State) (c : WCtx) (n : Nat) : List (Nat × Word) :=
  (c.lanes.filter fun l => decide (c.w.cached l < min n (stackOf c.w l).length)).map fun l =>
    (l, c.w.spillAddr (s.spillBase c.w) l (c.w.spilledOf l - 1))

/-- The calls and how they call: a direct target, or each lane's own (R172, R203). -/
def callForm : Instr → Option (Int ⊕ OpsG)
  | .call o => some (.inl o.off.toInt)
  | .callx o => some (.inr o)
  | .fcall o => some (.inl o.off.toInt)
  | .fcallP o => some (.inl o.off.toInt)
  | _ => none

/-- The path entered the partition's handler for a fault (R236 to R238): the trap registers tell of it, the path stands
at the entry address in handler mode, and no register has changed. -/
structure Entered (code : Nat) (lanes : Lanes) (addr : Word) (s t : State) (c : WCtx) : Prop where
  mem  : ∀ a, sget t.mem a = sget s.mem a
  own  : ∃ w k p, aget t.waves c.w.id = some w ∧ w.trap = some k ∧ w.path c.p.id = some p ∧
    k.cause.toNat % 256 = code % 256 ∧ k.cause.toNat / 2 ^ 20 % 16 = c.idx % 16 ∧ k.cause.toNat / 2 ^ 16 % 2 = 0 ∧
    k.pc = BitVec.ofNat 64 (c.addr % 2 ^ 52) ∧ k.lanes = lanes &&& widthMask c.w.width ∧ k.addr = addr ∧ k.entry = (s.part c.w.part).hentry ∧
    k.base = (s.part c.w.part).hbase ∧ k.size = (s.part c.w.part).hsize ∧
    p.hdr = (s.part c.w.part).hentry ∧ p.handler = true ∧ p.st = .run ∧ p.lanes = c.p.lanes ∧
    (∀ r l, w.reg r l = c.w.reg r l) ∧ w.stack = c.w.stack ∧ w.lk = c.w.lk ∧ w.ctr = c.w.ctr ∧ w.ops = c.w.ops ∧
    ∀ j, j ≠ c.p.id → w.path j = c.w.path j

/-- The word raises a fault precisely: its path takes it at the word, with nothing of the word performed but that the
registers it names count for the wave's fork (R198, R236). -/
def Raises (i : Instr) (g : Sig) (s : State) (c : WCtx) (code : Nat) (lanes : Lanes) (addr : Word) : Prop :=
  exec i s = .next (takeFault (c.named i g s) c.w.id c.p.id (c.fault code lanes addr))

/-- As `Raises`, with class 0 in tcause: the fault is that of a target from a register (R237). -/
def RaisesAtTarget (i : Instr) (g : Sig) (s : State) (c : WCtx) (code : Nat) (lanes : Lanes) (addr : Word) : Prop :=
  exec i s = .next (takeFault (c.named i g s) c.w.id c.p.id { c.fault code lanes addr with cls := 0 })

/-- The wave has no fork and is no twin. -/
def alone (w : Wave) : Prop := w.twin = none ∧ w.forks = []

/-- No path of the wave waits. -/
def allRun (w : Wave) : Prop := ∀ q ∈ w.paths, q.st = .run


/-! ### Words on objects in memory (R182 to R187, R225 to R232, R332 to R350) -/

/-- The thread has issued nothing to `n` bytes at `a`, and no acquire, that is still to be performed (R113). -/
def nonePending (s : State) (c : WCtx) (a : Word) (n : Nat) : Prop := c.ownPending (c.advance s) a n = false

/-- A release of the wave at .dev or .sys may act: it has drained, and its die's ports have delivered what they took in
(R112, R120). -/
def releases (s : State) (c : WCtx) : Prop := c.w.drained = true ∧ ∀ p ∈ s.msys.ports, p.die ≠ c.w.die

/-- A word acted on an object in one step and its answer is owed: memory is that of `m`, every other byte, register and
path as it was; counter `k` is one higher, and an operation that is done owes `vals` to the registers `dst`. -/
structure Answered (m : State) (k : Nat) (dst : List RegName) (vals : List RegWrite) (s t : State) (c : WCtx) : Prop where
  mem  : ∀ a, sget t.mem a = sget m.mem a
  scr  : ∀ a, sget t.scr a = sget m.scr a
  time : t.time = s.time
  regs : ∀ r l, r.exists_ = true → t.regIn c.w.id r l = s.regIn c.w.id r l
  own  : ∃ w, aget t.waves c.w.id = some w ∧ w.path c.p.id = some c.advanced ∧
    w.ctr = c.w.ctr.set k (c.w.ctr.getD k 0 + 1) ∧ w.queue = c.w.queue ∧ w.exited = c.w.exited
  op   : ∃ o, t.newOp c.w.id = some o ∧ o.ctr = some k ∧ o.kind = .done ∧ o.owes = dst ∧ o.writes = vals

/-- As `Answered`, but the path waits until the answer is written. -/
structure AnsweredWaiting (m : State) (k : Nat) (dst : List RegName) (vals : List RegWrite) (s t : State) (c : WCtx) : Prop where
  mem  : ∀ a, sget t.mem a = sget m.mem a
  scr  : ∀ a, sget t.scr a = sget m.scr a
  time : t.time = s.time
  regs : ∀ r l, r.exists_ = true → t.regIn c.w.id r l = s.regIn c.w.id r l
  own  : ∃ w o, aget t.waves c.w.id = some w ∧ t.newOp c.w.id = some o ∧ o.ctr = some k ∧ o.kind = .done ∧ o.owes = dst ∧
    o.writes = vals ∧ w.path c.p.id = some { c.advanced with st := .op o.id } ∧ w.ctr = c.w.ctr.set k (c.w.ctr.getD k 0 + 1) ∧
    w.queue = c.w.queue ∧ w.exited = c.w.exited

/-- A word took its step and its path waits until `kind` comes about: memory is that of `m`, every register as it was. -/
structure WaitsFor (m : State) (k : Option Nat) (kind : OpKind) (dst : List RegName) (s t : State) (c : WCtx) : Prop where
  mem  : ∀ a, sget t.mem a = sget m.mem a
  scr  : ∀ a, sget t.scr a = sget m.scr a
  time : t.time = s.time
  regs : ∀ r l, r.exists_ = true → t.regIn c.w.id r l = s.regIn c.w.id r l
  own  : ∃ w o, aget t.waves c.w.id = some w ∧ t.newOp c.w.id = some o ∧ o.ctr = k ∧ o.kind = kind ∧ o.owes = dst ∧
    w.path c.p.id = some { c.advanced with st := .op o.id } ∧ (∀ j, k = some j → w.ctr = c.w.ctr.set j (c.w.ctr.getD j 0 + 1)) ∧
    w.queue = c.w.queue ∧ w.exited = c.w.exited

/-- The ring table's entry that the word names, read in the state `s1` (R226); its scope suits the mode, no range lock
covers the ring's header, and the thread has nothing pending at the table or the header; `x` is where its memory
stands, which holds no poison. -/
def ringAt (s : State) (c : WCtx) (o : OpsG) (chan : Bool) (r : Ring) (s1 : State) (x : Xlat) : Prop :=
  (c.advance s).ring c.w.part c.w.die (BitVec.ofNat 64 c.w.rings) (ringIdx o) chan = .ok (r, s1) ∧
  (c.w.strict = true → chan = false → r.dev = false) ∧ s1.locked c.w.core false r.base 512 = false ∧
  nonePending s c (BitVec.ofNat 64 c.w.rings) 8 ∧ nonePending s c r.ent 16 ∧ nonePending s c (BitVec.ofNat 64 r.base) 512 ∧
  s1.ringMem c.w.part r = .ok x ∧ s1.poisoned (.glob x.pa) 512 = false

/-- A counted barrier's state dword (R182). -/
def barWord (phase : Bool) (remaining : Nat) (pending : Int) : Word :=
  BitVec.ofNat 64 ((if phase then 2 ^ 63 else 0) + remaining * 2 ^ 36 + (pending % 2 ^ 36).toNat)

/-- The fields of a counted barrier (R182). -/
def barPhase (d : Word) : Bool := d.getLsbD 63
def barRem (d : Word) : Nat := d.toNat / 2 ^ 36 % 2 ^ 24
def barPend (d : Word) : Int := toI true 36 (d.toNat % 2 ^ 36)
def barExp (d : Word) : Nat := d.toNat % 2 ^ 24

/-- The state dword after a step leaves `r` remaining and `q` pending: the phase completes when both are 0 (R183). -/
def barNext (d0 d1 : Word) (r : Nat) (q : Int) : Word :=
  if r = 0 ∧ q = 0 then barWord (!barPhase d0) (barExp d1) 0 else barWord (barPhase d0) r q

/-- A wave's access to a counted barrier at `a` passes its checks: it translates to `x`, is aligned to 16 bytes, meets
no lock, no poison and nothing that the thread has pending there, has a well-formed object, and in strict mode not one of scope
.dev (R183, R209). -/
def barAt (s : State) (c : WCtx) (a : Word) (x : Xlat) : Prop :=
  (c.advance s).objXlat c.w.part a .atomic = .ok x ∧ a.toNat % 16 = 0 ∧ s.locked c.w.core false a.toNat 16 = false ∧
  s.poisoned (.glob x.pa) 16 = false ∧ nonePending s c a 16 ∧ ((s.dword x.pa).toNat / 2 ^ 60 % 8 = 0 ∧ (s.dword (x.pa + 8)).toNat / 2 ^ 25 = 0 ∧ barExp (s.dword (x.pa + 8)) ≠ 0) ∧
  (c.w.strict = true → (s.dword (x.pa + 8)).getLsbD 24 = false)

/-- A future's forms (R332). -/
def futEmpty (w : Word) : Prop := w = 0
def futWaiting (w : Word) : Prop := w.toNat / 2 ^ 62 = 1 ∧ w.toNat / 2 ^ 40 % 2 ^ 22 ≠ 0 ∧ w.toNat % 2 ^ 40 ≠ 0
def futDone (w : Word) : Prop := 2 ≤ w.toNat / 2 ^ 62 ∧ w.toNat / 2 ^ 40 % 2 ^ 22 = 0

/-- A wave's access to a future at `a` passes the checks of R209 and R340, and the thread has nothing pending there; `x` is
its translation, where no poison stands. -/
def futAt (s : State) (c : WCtx) (a : Word) (x : Xlat) : Prop :=
  (c.advance s).futXlat c.w.part a = .ok x ∧ s.locked c.w.core false a.toNat 8 = false ∧ nonePending s c a 8 ∧
  s.poisoned (.glob x.pa) 8 = false


/-! ### Awl engine words (R279 to R296) -/

/-- The cursor stands at a word of a channel's program; `e` is what the word knows. -/
def AtEng (s : State) (e : ECtx) : Prop := s.cur = .chan e.c e.hdr e.hword e.idx e.next ∧ e.ch = s.chan e.c

/-- The channel past its word (R30, R284). -/
def engNext (e : ECtx) : Chan :=
  if e.next ≤ (e.hword.extractLsb 31 28).toNat then { e.ch with idx := e.next, st := .running }
  else { e.ch with hdr := e.hdr + 4 * ((e.hword.extractLsb 31 28).toNat + 1), idx := 0, clause := none, st := .running }

/-- FRAME of an engine word that changes only its own channel, which is `k` now. -/
structure EngOnly (k : Chan) (s t : State) (e : ECtx) : Prop where
  own    : t.chan e.c = k
  chans  : ∀ c, c ≠ e.c → t.chan c = s.chan c
  mem    : ∀ a, sget t.mem a = sget s.mem a
  scr    : ∀ a, sget t.scr a = sget s.scr a
  waves  : t.waves = s.waves
  blocks : t.blocks = s.blocks
  grids  : t.grids = s.grids
  cores  : t.cores = s.cores
  parts  : t.parts = s.parts
  msys   : t.msys = s.msys
  hw     : t.hw = s.hw
  time   : t.time = s.time

/-- Operand b of an engine word: x[b] or the literal sign-extended (R279). -/
def xB (e : ECtx) (o : OpsG) : Word := match o.lit with
  | some l => l.signExtend 64
  | none => e.x o.b

/-- The integer words: the result `y` from x[a] and b (R281). -/
def engRule : Instr → Option (OpsG × (Word → Word → Word → Prop))
  | .aAdd o => some (o, fun a b y => y.toNat = (a.toNat + b.toNat) % 2 ^ 64)
  | .aSub o => some (o, fun a b y => (y.toNat : Int) = ((a.toNat : Int) - b.toNat) % 2 ^ 64)
  | .aMul o => some (o, fun a b y => y.toNat = a.toNat * b.toNat % 2 ^ 64)
  | .aAnd o => some (o, fun a b y => ∀ k, k < 64 → y.getLsbD k = (a.getLsbD k && b.getLsbD k))
  | .aOr o => some (o, fun a b y => ∀ k, k < 64 → y.getLsbD k = (a.getLsbD k || b.getLsbD k))
  | .aXor o => some (o, fun a b y => ∀ k, k < 64 → y.getLsbD k = (a.getLsbD k ^^ b.getLsbD k))
  | .aShl o => some (o, fun a b y => y.toNat = if 64 ≤ b.toNat then 0 else a.toNat * 2 ^ b.toNat % 2 ^ 64)
  | .aShr o => some (o, fun a b y => y.toNat = if 64 ≤ b.toNat then 0 else a.toNat / 2 ^ b.toNat)
  | .aSra o => some (o, fun a b y => y.toInt = a.toInt / 2 ^ min 64 b.toNat)
  | .aMin o => some (o, fun a b y => y.toInt = min a.toInt b.toInt)
  | .aMax o => some (o, fun a b y => y.toInt = max a.toInt b.toInt)
  | .aMov o => some (o, fun a _ y => y = a)
  | .aMovImm o => some (o, fun _ b y => y = b)
  | _ => none

/-- The channel's branches: their offset, and when they are taken (R284). -/
def engBranch : Instr → Option (Int × (ECtx → Prop))
  | .aB o => some (o.off.toInt, fun _ => True)
  | .aBeq o => some (o.off.toInt, fun e => e.x (o.a.zeroExtend 7) = e.x (o.b.zeroExtend 7))
  | .aBne o => some (o.off.toInt, fun e => e.x (o.a.zeroExtend 7) ≠ e.x (o.b.zeroExtend 7))
  | .aBlt o => some (o.off.toInt, fun e => (e.x (o.a.zeroExtend 7)).toInt < (e.x (o.b.zeroExtend 7)).toInt)
  | .aBge o => some (o.off.toInt, fun e => (e.x (o.b.zeroExtend 7)).toInt ≤ (e.x (o.a.zeroExtend 7)).toInt)
  | _ => none

/-- A channel sent to H + 4 × offset. -/
def engGoto (e : ECtx) (off : Int) (k : Chan) : Chan :=
  { k with hdr := (((e.hdr : Int) + 4 * off) % 2 ^ 64).toNat, idx := 0, clause := none }

/-- Two 32-bit coordinates (R286). -/
def pair32 (x y : Nat) : Word := BitVec.ofNat 64 (x % 2 ^ 32 + y % 2 ^ 32 * 2 ^ 32)

/-- A signed coordinate within 32 bits. -/
def fits32 (x : Int) : Prop := -(2 ^ 31) ≤ x ∧ x < 2 ^ 31

/-- The tensor-descriptor words that complete: the descriptor after them, from the one before (R286, R287). -/
def tdRule : Instr → Option (OpsG × (ECtx → OpsG → Td → Option Td))
  | .tdSet o => some (o, fun e o t => some { t with base := e.x o.a, stride := xB e o })
  | .tdDim o => some (o, fun e o t =>
      if (e.x o.a).toNat / 2 ^ 62 < 2 ∧ (e.x o.a).toNat / 2 ^ 59 % 8 < 5 ∧ (e.x o.a).toNat / 2 ^ 56 % 8 = 0
      then some { t with dims := e.x o.a } else none)
  | .tdCoord o => some (o, fun e o t => some { t with coord := pair32 (e.x o.a).toNat (xB e o).toNat })
  | .tdStep o => some (o, fun e o t =>
      let x := t.c0 + toI true 32 ((e.x o.a).toNat % 2 ^ 32)
      let y := t.c1 + toI true 32 ((xB e o).toNat % 2 ^ 32)
      if -(2 ^ 31) ≤ x ∧ x < 2 ^ 31 ∧ -(2 ^ 31) ≤ y ∧ y < 2 ^ 31
      then some { t with coord := pair32 (x % 2 ^ 32).toNat (y % 2 ^ 32).toNat } else none)
  | .tdClr o => some (o, fun _ _ _ => some ⟨0, 0, 0, 0⟩)
  | _ => none

/-- The element moves of MV.TILE, MV.TILET and MV.REBLK, row by row: where each element is read, none for pad, and where
it is written, none when it is discarded (R288, R291, R292). -/
def elemMoves : Instr → Option (OpsG × (ECtx → OpsG → List ElemMove))
  | .mvTile o => some (o, fun e o =>
      let d := e.td o.d
      let t := e.td o.a
      (tileAt ((e.x o.b).toNat / 2 ^ 32) ((e.x o.b).toNat % 2 ^ 32)).map fun rc =>
        (t.elem (t.c0 + rc.2) (t.c1 + rc.1), d.elem (d.c0 + rc.2) (d.c1 + rc.1)))
  | .mvTilet o => some (o, fun e o =>
      let d := e.td o.d
      let t := e.td o.a
      (tileAt ((e.x o.b).toNat / 2 ^ 32) ((e.x o.b).toNat % 2 ^ 32)).map fun rc =>
        (t.elem (t.c0 + rc.2) (t.c1 + rc.1), d.elem (d.c0 + rc.1) (d.c1 + rc.2)))
  | .mvReblk o => some (o, fun e o =>
      let d := e.td o.d
      let t := e.td o.a
      let bh := (e.x o.b).toNat / 2 ^ 40 % 2 ^ 8
      let bw := (e.x o.b).toNat / 2 ^ 32 % 2 ^ 8
      let rows := (e.x o.b).toNat / 2 ^ 16 % 2 ^ 16
      let cols := (e.x o.b).toNat % 2 ^ 16
      let nb := (cols + bw - 1) / bw
      let d0 := d.base.toInt + d.c0 * t.esize + d.c1 * d.stride.toInt
      ((tileAt ((rows + bh - 1) / bh) nb).map fun b => (tileAt bh bw).map fun rc =>
        (if b.1 * bh + rc.1 < rows ∧ b.2 * bw + rc.2 < cols then t.elem (t.c0 + (b.2 * bw + rc.2 : Nat)) (t.c1 + (b.1 * bh + rc.1 : Nat))
          else none,
         some (d0 + (((b.1 * nb + b.2) * bh * bw + rc.1 * bw + rc.2) * t.esize : Nat)))).flatten)
  | _ => none

/-- What R291 and R292 forbid in the size register of a move. -/
def moveOk (i : Instr) (e : ECtx) (o : OpsG) : Prop := (e.td o.d).esize = (e.td o.a).esize ∧ match i with
  | .mvReblk _ => (e.x o.b).toNat / 2 ^ 48 = 0 ∧ (e.x o.b).toNat / 2 ^ 40 % 2 ^ 8 ≠ 0 ∧ (e.x o.b).toNat / 2 ^ 32 % 2 ^ 8 ≠ 0 ∧
      ((((e.x o.b).toNat / 2 ^ 16 % 2 ^ 16 + (e.x o.b).toNat / 2 ^ 40 % 2 ^ 8 - 1) / ((e.x o.b).toNat / 2 ^ 40 % 2 ^ 8)) *
        (((e.x o.b).toNat % 2 ^ 16 + (e.x o.b).toNat / 2 ^ 32 % 2 ^ 8 - 1) / ((e.x o.b).toNat / 2 ^ 32 % 2 ^ 8)) *
        ((e.x o.b).toNat / 2 ^ 40 % 2 ^ 8) * ((e.x o.b).toNat / 2 ^ 32 % 2 ^ 8)) * (e.td o.a).esize ≤ 2 ^ 32
  | _ => (e.x o.b).toNat / 2 ^ 32 * ((e.x o.b).toNat % 2 ^ 32) < 2 ^ 24


/-! ## Words that write registers -/

/-- ADD, SUB, MUL, MULHI, MAD, MIN, MAX, ABS and NEG: each element of vd is the exact integer of the matching elements
of va, of vb or the literal, and of the third input, finished once: wrapped, or clamped under `sat`. -/
def IntegerWordsCompute : Prop := ∀ i t o sat f g s c, exactInt i = some (t, o, sat, f) →
  AtWord i g s c → Clear i g c → ∃ u, exec i s = .next u ∧
    VecDone o.d.toNat (fun l y => eachElem t.width y fun e n => finished t (sat && c.sat)
      (f (value t (elem t.width (c.v l o.a) e)) (value t (bElem c o t.signed t.width l e)) (value t (elem t.width (cIn c o l) e))) n)
      s u c

/-- AND, OR, XOR, ANDN, NOT and SEL act on each of the 64 bits; a literal is sign-extended; their encodings. -/
def LogicWordsActOnEveryBit : Prop :=
  (∀ i o f g s c, bitOf i = some (o, f) → AtWord i g s c → Clear i g c → ∃ u, exec i s = .next u ∧
    VecDone o.d.toNat (fun l y => ∀ k, k < 64 →
      y.getLsbD k = f ((c.v l o.a).getLsbD k) ((bSext c o l).getLsbD k) ((cIn c o l).getLsbD k)) s u c) ∧
  ∀ (st : BitVec 2) (d a b : BitVec 7),
    decode .bare ⟨none, st ++ 0x034#9 ++ d ++ a ++ b, none⟩ = .ok (.and ⟨st, d, a, b, none, none⟩) ∧
    decode .bare ⟨none, st ++ 0x035#9 ++ d ++ a ++ b, none⟩ = .ok (.or ⟨st, d, a, b, none, none⟩) ∧
    decode .bare ⟨none, st ++ 0x036#9 ++ d ++ a ++ b, none⟩ = .ok (.xor ⟨st, d, a, b, none, none⟩) ∧
    decode .bare ⟨none, st ++ 0x037#9 ++ d ++ a ++ b, none⟩ = .ok (.andn ⟨st, d, a, b, none, none⟩) ∧
    decode .bare ⟨none, st ++ 0x038#9 ++ d ++ a ++ 0#7, none⟩ = .ok (.not ⟨st, d, a, 0, none, none⟩) ∧
    decode .bare ⟨none, st ++ 0x03F#9 ++ d ++ a ++ b, none⟩ = .ok (.sel ⟨st, d, a, b, none, none⟩)

/-- POPC, CLZ, BREV, SHL, SHR, BFE and BFI: what each says of each element. -/
def BitCountShiftAndFieldWords : Prop := ∀ i o w sg rule g s c, elemRule i = some (o, w, sg, rule) →
  AtWord i g s c → Clear i g c → ∃ u, exec i s = .next u ∧
    VecDone o.d.toNat (fun l y => eachElem w y fun e n =>
      rule (elem w (c.v l o.a) e) (bElem c o sg w l e) (elem w (cIn c o l) e) n) s u c

/-- MOV, MOVS, LID, MOVP, WID, NAR, ADDC and SUBB: the register each writes. -/
def MoveAndCarryWords : Prop := ∀ i o rule g s c, regRule i = some (o, rule) →
  AtWord i g s c → Clear i g c → ∃ u, exec i s = .next u ∧ VecDone o.d.toNat (fun l y => rule c l y) s u c

/-- CMP, PAND, POR, PXOR, PNOT and PTST: the predicate each writes; p0 stays true. -/
def IntegerPredicateWords : Prop := ∀ i o f g s c, predRule i = some (o, f) →
  AtWord i g s c → Clear i g c → ∃ u, exec i s = .next u ∧ PredDone o.d.toNat (f c) s u c

/-- FADD, FSUB, FMUL, FMA, FMIN, FMAX, FRND, FSQRT, FDIV and FRCP: each element under its lane's controls, its operands
read under daz. -/
def FloatWordsByElement : Prop := ∀ i t o f g s c, floatElem i = some (t, o, f) →
  AtWord i g s c → Clear i g c → ∃ u, exec i s = .next u ∧
    VecDone o.d.toNat (fun l y => eachElem (fmtOf t).w y fun e n =>
      n = f (c.ctl l) (rdF (fmtOf t) (c.ctl l) (c.v l o.a) e) (rdF (fmtOf t) (c.ctl l) (bFloat c o t l) e)
        (rdF (fmtOf t) (c.ctl l) (cIn c o l) e) % 2 ^ (fmtOf t).w) s u c

/-- FRSQ, FEXP2, FLOG2, FSIN, FCOS and FTANH: each element is the implementation's value where it lies within the
bound (log entry 6), under ftz and daz. -/
def BoundedFunctionWords : Prop := ∀ i f o k g s c, boundedElem i = some (f, o, k) →
  AtWord i g s c → Clear i g c → ∃ u, exec i s = .next u ∧
    VecDone o.d.toNat (fun l y => eachElem f.w y fun e n => n = k (c.ctl l) (elem f.w (c.v l o.a) e) % 2 ^ f.w) s u c

/-- FCMP and FCLASS: the predicate each writes. -/
def FloatPredicateWords : Prop := ∀ i o f g s c, floatPred i = some (o, f) →
  AtWord i g s c → Clear i g c → ∃ u, exec i s = .next u ∧ PredDone o.d.toNat (f c) s u c

/-- CVT, CVTS, SCL.SC8.F32, KQDEC, the DOT words and FMAXIX but its .f64 form: the elements each writes. -/
def ConvertDotAndIndexWords : Prop := ∀ i o rule g s c, convertRule i = some (o, rule) →
  AtWord i g s c → Clear i g c → ∃ u, exec i s = .next u ∧ VecDone o.d.toNat (fun l y => rule c l y) s u c

/-- FMAXIX.F64 writes the winning value to vd and its index to vd+1. -/
def MaxIndexF64WritesAPair : Prop := ∀ o g s c, (Instr.fmaxix .f64 o).wf = true →
  AtWord (.fmaxix .f64 o) g s c → Clear (.fmaxix .f64 o) g c → ∃ u, exec (.fmaxix .f64 o) s = .next u ∧
    (∀ l, inLanes c.act l = true →
      let pair (r : BitVec 7) : FVal × Nat := (fpRead fmtF64 (c.ctl l).daz (c.v l r).toNat, (c.v l (r + 1)).toNat % 2 ^ 32)
      (u.regIn c.w.id (.v o.d.toNat) l).toNat = fpExact fmtF64 (winner (pair o.a) (pair o.b)).1 % 2 ^ 64 ∧
        (u.regIn c.w.id (.v (o.d.toNat + 1)) l).toNat = (winner (pair o.a) (pair o.b)).2) ∧
    (∀ l, inLanes c.zeroed l = true →
      u.regIn c.w.id (.v o.d.toNat) l = 0 ∧ u.regIn c.w.id (.v (o.d.toNat + 1)) l = 0) ∧
    OnlyRegs (fun r l => (r = .v o.d.toNat ∨ r = .v (o.d.toNat + 1)) ∧ (inLanes c.act l || inLanes c.zeroed l) = true) s u c

/-- A finite result of a rounding is the format's finite value that the mode names: the exact result is rounded once. -/
def RoundingFollowsTheMode : Prop :=
  ∀ f ∈ [fmtF64, fmtF32, fmtF16, fmtBF16, fmtE5M2, fmtE4M3], ∀ (rm : Nat) (neg : Bool) (m : Nat) (e : Int), rm < 4 →
    finite (fpDecode f (fpWrite f ⟨rm, false, false, false⟩ (.num neg m e))) = true →
    roundedTo f rm (rat (.num neg m e)) (fpWrite f ⟨rm, false, false, false⟩ (.num neg m e))

/-- SHFL and BCAST: an active lane takes the register of its source lane if that lane is active, and keeps its own
otherwise. -/
def ShufflesReadActiveLanes : Prop := ∀ i o src g s c, shuffleFrom i = some (o, src) →
  AtWord i g s c → Clear i g c → ∃ u, exec i s = .next u ∧
    VecDone o.d.toNat (fun l y => if inLanes c.act (src c l) then y = c.v (src c l) o.a
      else y = s.regIn c.w.id (.v o.d.toNat) l) s u c

/-- PERM and FCTL.RD: each byte of vd is the byte of va that the matching byte of b names modulo 8; vd is fctl. -/
def PermAndControlReads : Prop := ∀ o g s c,
  (AtWord (.perm o) g s c → Clear (.perm o) g c → ∃ u, exec (.perm o) s = .next u ∧
    VecDone o.d.toNat (fun l y => ∀ e, e < 8 → elem 8 y e = elem 8 (c.v l o.a) (elem 8 (bSext c o l) e % 8)) s u c) ∧
  (AtWord (.fctlRd o) g s c → Clear (.fctlRd o) g c → ∃ u, exec (.fctlRd o) s = .next u ∧
    VecDone o.d.toNat (fun l y => y = c.fctl l) s u c)

/-- REDUX gives every active lane the root of the fixed tree over the active lanes of its wave, of 8 to 64 lanes: the rounded
sum, the sum modulo 2³², the largest or least value, or the winning pair. -/
def ReduxWords : Prop := ∀ k o g s c n, AtWord (.redux k o) g s c → Clear (.redux k o) g c → c.w.width = 2 ^ n → n ≤ 6 →
  ∃ u, exec (.redux k o) s = .next u ∧ VecDone o.d.toNat (fun _ y => reduxRule k o c n y) s u c

/-- FCTL.WR writes bits [4:0] of va or of the literal to fctl of each active lane. -/
def FctlWriteTakesFiveBits : Prop := ∀ o g s c, AtWord (.fctlWr o) g s c → Clear (.fctlWr o) g c →
  ∃ u, exec (.fctlWr o) s = .next u ∧
    (∀ l, inLanes c.act l = true → u.regIn c.w.id .fctl l = (match o.lit with
      | some x => x.zeroExtend 64
      | none => c.v l o.a) &&& 0x1F) ∧
    OnlyRegs (fun r l => r = .fctl ∧ inLanes c.act l = true) s u c

/-- The uniform words write sd once, with the value each rule gives. -/
def UniformWordsCompute : Prop := ∀ i o rule g s c, uniRule i = some (o, rule) →
  AtWord i g s c → Clear i g c → ∃ u, exec i s = .next u ∧ UniDone o.d.toNat (rule c s) s u c

/-! ## Memory words -/

/-- LD.G, ULD and LDO issue: when every lane passes the checks, one operation is left pending with its counter c0 raised,
owing its destinations, with a piece for each part of each lane's access; no register changes until it completes. -/
def GlobalLoadsIssue : Prop := ∀ i f g s c xl, globalLoad i = some f → AtWord i g s c → Clear i g c →
  c.w.twin = none → (∀ t o, i = .ldo t o → (c.w.strict && o.order.acquires && o.scope.wide) = false) →
  allPass s c f.n f.acc f.aligned f.bad (f.lanes c) xl →
  ∃ u o, exec i s = .next u ∧ Issued (leafBytes ((accs (f.lanes c) xl).map LaneAcc.xl)) 0 s u c ∧
    u.newOp c.w.id = some o ∧ o.id = s.nextId ∧ o.ctr = some 0 ∧ o.owes = f.dst ∧ o.writes = [] ∧ o.acq = f.acquire ∧
    o.drain = f.drain ∧ ∃ l1, o.kind = .load f.signed f.n f.dst l1 ((accs (f.lanes c) xl).map fun a => piecesOf a f.n).flatten

/-- ST.G, UST and a relaxed STO issue: each lane's bytes enter the wave's store queue, behind what stands there, as the
pieces of its access; memory itself is unchanged until they leave it. -/
def GlobalStoresEnterTheQueue : Prop := ∀ i f g s c xl, globalStore i = some f → AtWord i g s c → Clear i g c →
  c.w.twin = none → allPass s c f.n f.acc f.aligned (fun _ => false) (f.lanes c) xl →
  ∃ u w, exec i s = .next u ∧ Issued (leafBytes ((accs (f.lanes c) xl).map LaneAcc.xl)) 2 s u c ∧
    aget u.waves c.w.id = some w ∧
    w.queue = c.w.queue ++ entriesOf s.nextId false ((accs (f.lanes c) xl).map fun a => storeEntries a (f.data c a.lane)).flatten

/-- LD.S and LD.R issue: an operation pending on c1 with one piece for each lane, at its core and local address. -/
def ScratchLoadsIssue : Prop := ∀ i win o n sg dst g s c pl, scratchLoad i = some (win, o, n, sg, dst) →
  AtWord i g s c → Clear i g c → c.w.twin = none → scratchPass s c win true n (c.addrs .v o n) pl →
  ∃ u q, exec i s = .next u ∧ Issued (fun _ => False) 1 s u c ∧ u.newOp c.w.id = some q ∧ q.id = s.nextId ∧
    q.ctr = some 1 ∧ q.owes = dst ∧
    q.kind = .load sg n dst false ((c.addrs .v o n).map fun e => ⟨e.1, 0, n, .scr (pl e.1).1 (pl e.1).2, none⟩)

/-- ST.S and ST.R issue: each lane's bytes enter the wave's store queue for its core and local address. -/
def ScratchStoresEnterTheQueue : Prop := ∀ i win o n data g s c pl, scratchStore i = some (win, o, n, data) →
  AtWord i g s c → Clear i g c → c.w.twin = none → scratchPass s c win false n (c.addrs .v o n) pl →
  ∃ u w, exec i s = .next u ∧ Issued (fun _ => False) 2 s u c ∧ aget u.waves c.w.id = some w ∧
    w.queue = c.w.queue ++ (c.addrs .v o n).map fun e => ⟨s.nextId, e.1, .scr (pl e.1).1 (pl e.1).2, data c e.1, none, false⟩

/-- A twin's load is left pending as any load and its granules join the twin's load set, of at most 256; while they do not
fit it, the twin waits. -/
def TwinsLoadIntoTheirSet : Prop :=
  (∀ i f g s c xl t gs, globalLoad i = some f → AtWord i g s c → Clear i g c → c.w.twin = some t →
    allPass s c f.n f.acc f.aligned f.bad (f.lanes c) xl → gs = granulesOf (accs (f.lanes c) xl) f.n →
    (t.loads.length + (gs.eraseDups.filter fun g => !t.loads.contains g).length ≤ 256 → ∃ u o w tw, exec i s = .next u ∧
      Issued (leafBytes ((accs (f.lanes c) xl).map LaneAcc.xl)) 0 s u c ∧ u.newOp c.w.id = some o ∧ o.ctr = some 0 ∧ o.owes = f.dst ∧
      (∃ l1, o.kind = .load f.signed f.n f.dst l1 ((accs (f.lanes c) xl).map fun a => piecesOf a f.n).flatten) ∧
      aget u.waves c.w.id = some w ∧ w.twin = some tw ∧ tw.buf = t.buf ∧ ∀ x, x ∈ tw.loads ↔ x ∈ t.loads ∨ x ∈ gs) ∧
    (256 < t.loads.length + (gs.eraseDups.filter fun g => !t.loads.contains g).length → exec i s = .next s)) ∧
  ∀ i win o n sg dst g s c pl t gs, scratchLoad i = some (win, o, n, sg, dst) → AtWord i g s c → Clear i g c → c.w.twin = some t →
    scratchPass s c win true n (c.addrs .v o n) pl →
    gs = ((c.addrs .v o n).map fun e => granules (.scr (pl e.1).1 (pl e.1).2) n).flatten →
    (t.loads.length + (gs.eraseDups.filter fun g => !t.loads.contains g).length ≤ 256 → ∃ u q w tw, exec i s = .next u ∧
      Issued (fun _ => False) 1 s u c ∧ u.newOp c.w.id = some q ∧ q.owes = dst ∧
      q.kind = .load sg n dst false ((c.addrs .v o n).map fun e => ⟨e.1, 0, n, .scr (pl e.1).1 (pl e.1).2, none⟩) ∧
      aget u.waves c.w.id = some w ∧ w.twin = some tw ∧ ∀ x, x ∈ tw.loads ↔ x ∈ t.loads ∨ x ∈ gs) ∧
    (256 < t.loads.length + (gs.eraseDups.filter fun g => !t.loads.contains g).length → exec i s = .next s)

/-- A store of a twin is in its buffer: no byte of memory, no counter and no register has changed, and its path has moved on. -/
structure Buffered (t : Twin) (l : List StoreEnt) (s u : State) (c : WCtx) : Prop where
  mem  : ∀ a, sget u.mem a = sget s.mem a
  scr  : ∀ a, sget u.scr a = sget s.scr a
  regs : ∀ r l, r.exists_ = true → u.regIn c.w.id r l = s.regIn c.w.id r l
  own  : ∃ w tw, aget u.waves c.w.id = some w ∧ w.twin = some tw ∧ tw.buf = t.buf ++ l ∧ tw.loads = t.loads ∧ w.ctr = c.w.ctr ∧
    w.queue = c.w.queue ∧ w.path c.p.id = some c.advanced

/-- A twin's store enters its buffer, of at most 64 store words, where no other agent sees it; while the buffer is full the
twin waits. A fault of a twin's word is held: the twin stays at the word, and no handler is entered. -/
def TwinsBufferTheirStoresAndHoldFaults : Prop :=
  (∀ i f g s c xl t, globalStore i = some f → AtWord i g s c → Clear i g c → c.w.twin = some t →
    allPass s c f.n f.acc f.aligned (fun _ => false) (f.lanes c) xl →
    ((t.buf.map StoreEnt.op).eraseDups.length < 64 → ∃ u, exec i s = .next u ∧
      Buffered t (entriesOf s.nextId false ((accs (f.lanes c) xl).map fun a => storeEntries a (f.data c a.lane)).flatten) s u c) ∧
    (64 ≤ (t.buf.map StoreEnt.op).eraseDups.length → exec i s = .next s)) ∧
  (∀ i win o n data g s c pl t, scratchStore i = some (win, o, n, data) → AtWord i g s c → Clear i g c → c.w.twin = some t →
    scratchPass s c win false n (c.addrs .v o n) pl →
    ((t.buf.map StoreEnt.op).eraseDups.length < 64 → ∃ u, exec i s = .next u ∧
      Buffered t ((c.addrs .v o n).map fun e => ⟨s.nextId, e.1, .scr (pl e.1).1 (pl e.1).2, data c e.1, none, false⟩) s u c) ∧
    (64 ≤ (t.buf.map StoreEnt.op).eraseDups.length → exec i s = .next s)) ∧
  ∀ i g s c t code lanes addr, AtWord i g s c → c.w.twin = some t → Raises i g s c code lanes addr →
    ∃ u w tw, exec i s = .next u ∧ aget u.waves c.w.id = some w ∧ w.path c.p.id = some c.p ∧ w.trap = c.w.trap ∧ w.twin = some tw ∧
      tw.held = some ⟨code, lanes, addr, c.addr, c.idx, (c.hword.extractLsb 27 25).toNat⟩ ∧ tw.buf = t.buf ∧
      (∀ a, sget u.mem a = sget s.mem a) ∧ ∀ r l, w.reg r l = c.w.reg r l

/-- An atomic issues one step for each active lane, in ascending order of lanes, on c2; it owes its old values to vd. -/
def AtomicsIssueOneStepPerLane : Prop := ∀ i o f n y g s c xl, atomicForm i = some (o, f, n, y) →
  AtWord i g s c → Clear i g c → (c.w.strict && o.scope.wide) = false →
  allPass s c n .atomic true (fun x => o.scope ≠ .sys && portMem x.pa) (c.addrsAT o) xl →
  ∃ u q, exec i s = .next u ∧ Issued (leafBytes ((accs (c.addrsAT o) xl).map LaneAcc.xl)) 2 s u c ∧
    u.newOp c.w.id = some q ∧ q.id = s.nextId ∧ q.ctr = some 2 ∧ q.owes = [.v o.d.toNat] ∧ q.drain = true ∧
    q.kind = .atomic f n (.v o.d.toNat)
      ((c.addrsAT o).map fun e => ⟨e.1, placeOf (xl e.1) 0, c.v e.1 o.d, y c e.1⟩)

/-- RED.ADD issues one contribution for each active lane; in strict mode they carry the wave's generation and count, and
the count rises. A release STO is performed behind the store queue. RED.FLUSH waits for the wave's earlier words, and in
strict mode opens the next generation. -/
def ReductionsAndReleaseStoresIssue : Prop :=
  (∀ i o f32 g s c xl, (i = .redAddF32 o ∧ f32 = true ∨ i = .redAddN64 o ∧ f32 = false) → AtWord i g s c → Clear i g c →
    s.genWaits c.w = false →
    allPass s c (if f32 then 4 else 8) .atomic true (fun x => portMem x.pa) (c.addrsAT o) xl →
    ∃ u q w, exec i s = .next u ∧ Issued (leafBytes ((accs (c.addrsAT o) xl).map LaneAcc.xl)) 2 s u c ∧
      u.newOp c.w.id = some q ∧ q.ctr = some 2 ∧ q.kind = .red f32 (if c.w.strict then some (c.w.redGen, c.w.redCnt) else none)
        ((c.addrsAT o).map fun e => ⟨e.1, placeOf (xl e.1) 0, c.v e.1 o.d, 0⟩) ∧
      aget u.waves c.w.id = some w ∧ w.redCnt = c.w.redCnt + 1 ∧ w.redGen = c.w.redGen) ∧
  (∀ t o g s c xl, o.order.releases = true → AtWord (.sto t o) g s c → Clear (.sto t o) g c →
    (c.w.strict && o.scope.wide) = false →
    allPass s c t.bytes .ldo true (fun x => o.scope ≠ .sys && portMem x.pa) (c.addrsAT o) xl →
    ∃ u q, exec (.sto t o) s = .next u ∧ Issued (leafBytes ((accs (c.addrsAT o) xl).map LaneAcc.xl)) 2 s u c ∧
      u.newOp c.w.id = some q ∧ q.drain = true ∧
      q.kind = .sto t.bytes ((c.addrsAT o).map fun e => ⟨e.1, placeOf (xl e.1) 0, c.v e.1 o.d, 0⟩)) ∧
  ∀ o g s c, AtWord (.redFlush o) g s c → Clear (.redFlush o) g c → s.genWaits c.w = false →
    ∃ u q w, exec (.redFlush o) s = .next u ∧ Issued (fun _ => False) 2 s u c ∧ u.newOp c.w.id = some q ∧ q.kind = .redFlush ∧
      aget u.waves c.w.id = some w ∧ (w.redGen, w.redCnt) = if c.w.strict then (c.w.redGen + 1, 0) else (c.w.redGen, c.w.redCnt)

/-- FENCE waits until the wave has drained, and a release at .dev or .sys for its die's ports; then it changes nothing but its
path, and what its lanes had spilled becomes visible at a release; as an acquire at .blk or wider it empties the core's L1.
FENCE.SC.SYS waits for both. -/
def FencesWaitForTheWave : Prop :=
  (∀ i g s c, (∃ o, i = .fence o ∨ i = .fenceScSys o) → AtWord i g s c →
    Clear i g c → c.w.drained = false → exec i s = .next s) ∧
  (∀ o g s c, AtWord (.fence o) g s c → Clear (.fence o) g c → c.w.drained = true →
    (o.imm.toNat / 4 % 4 ≠ 0 → 2 ≤ o.imm.toNat % 4 → ∀ p ∈ s.msys.ports, p.die ≠ c.w.die) →
    ∃ u w, exec (.fence o) s = .next u ∧ aget u.waves c.w.id = some w ∧ w.path c.p.id = some c.advanced ∧
      (o.imm.toNat / 4 % 4 = 0 ∨ c.w.spills = [] → ∀ a, sget u.mem a = sget s.mem a) ∧
      (o.imm.toNat / 4 % 4 ≠ 0 → ∀ e ∈ w.spills, inLanes c.act e.lane = false) ∧
      (∀ r l, r.exists_ = true → u.regIn c.w.id r l = s.regIn c.w.id r l) ∧
      (o.imm.toNat / 4 % 4 ≠ 1 → o.imm.toNat % 4 ≠ 0 → ∀ l ∈ u.msys.l1, l.core ≠ c.w.core)) ∧
  (∀ o g s c, AtWord (.fence o) g s c → Clear (.fence o) g c → o.imm.toNat / 4 % 4 ≠ 0 → 2 ≤ o.imm.toNat % 4 →
    (∃ p ∈ s.msys.ports, p.die = c.w.die) → exec (.fence o) s = .next s) ∧
  (∀ o g s c, AtWord (.fenceScSys o) g s c → Clear (.fenceScSys o) g c →
    (c.w.drained = true → (∀ p ∈ s.msys.ports, p.die ≠ c.w.die) →
      ∃ u w, exec (.fenceScSys o) s = .next u ∧ aget u.waves c.w.id = some w ∧ w.path c.p.id = some c.advanced ∧
        (c.w.spills = [] → ∀ a, sget u.mem a = sget s.mem a) ∧ (∀ e ∈ w.spills, inLanes c.act e.lane = false) ∧
        (∀ r l, r.exists_ = true → u.regIn c.w.id r l = s.regIn c.w.id r l) ∧ ∀ l ∈ u.msys.l1, l.core ≠ c.w.core) ∧
    ((∃ p ∈ s.msys.ports, p.die = c.w.die) → exec (.fenceScSys o) s = .next s))

/-- A global load, store or atomic, of a lane or of the whole path, whose accesses some lanes may not make faults for exactly
those lanes, the first of them in taddr, before anything of it is performed: a scope that strict mode refuses, then
ACCESS_RIGHTS, MISALIGNED, ATOMIC_SCOPE of the region, RANGE_LOCK; a scratchpad access outside its part or window
SCRATCH_BOUNDS, then MISALIGNED, RANGE_LOCK and for a load SCRATCH_ECC. -/
def RefusedAccessesFaultPrecisely : Prop :=
  (∀ i f g s c (x : Nat × Word → LaneX) l, accessOf i = some f → AtWord i g s c → Clear i g c →
    x = (fun e => s.laneX c.w.part e.2 f.n f.acc) →
    (f.early c = true → Raises i g s c 0x16 c.act (firstOf (f.lanes c))) ∧
    (f.early c = false → l ≠ [] →
      (l = ((f.lanes c).filter fun e => x e = .rights) → Raises i g s c 0x11 (lanesIn f.whole c l) (firstOf l)) ∧
      ((∀ e ∈ f.lanes c, x e ≠ .rights) →
        (f.aligned = true → l = ((f.lanes c).filter fun e => e.2.toNat % f.n ≠ 0) →
          Raises i g s c 0x12 (lanesIn f.whole c l) (firstOf l)) ∧
        ((f.aligned = true → ∀ e ∈ f.lanes c, e.2.toNat % f.n = 0) →
          (l = ((f.lanes c).filter fun e => match x e with | .ok y => y.any fun p => f.bad p.1 | _ => false) →
            Raises i g s c 0x16 (lanesIn f.whole c l) (firstOf l)) ∧
          ((∀ e ∈ f.lanes c, ∀ y, x e = .ok y → ∀ p ∈ y, f.bad p.1 = false) →
            l = ((f.lanes c).filter fun e => s.locked c.w.core false e.2.toNat f.n) →
            Raises i g s c 0x15 (lanesIn f.whole c l) (firstOf l)))))) ∧
  ∀ i win n read o g s c (all l : List (Nat × Word)) (pl : Nat × Word → Option (Nat × Nat)),
    ((∃ sg dst, scratchLoad i = some (win, o, n, sg, dst)) ∧ read = true ∨ (∃ d, scratchStore i = some (win, o, n, d)) ∧ read = false) →
    AtWord i g s c → Clear i g c → all = c.addrs .v o n → pl = (fun e => s.windowPlace c win e.2.toNat n) → l ≠ [] →
    (l = (all.filter fun e => (pl e).isNone) → Raises i g s c 0x13 (lanesIn false c l) (firstOf l)) ∧
    ((∀ e ∈ all, (pl e).isSome = true) →
      (l = (all.filter fun e => e.2.toNat % n ≠ 0) → Raises i g s c 0x12 (lanesIn false c l) (firstOf l)) ∧
      ((∀ e ∈ all, e.2.toNat % n = 0) →
        (l = (all.filter fun e => (pl e).any fun p => s.locked p.1 true p.2 n) → Raises i g s c 0x15 (lanesIn false c l) (firstOf l)) ∧
        ((∀ e ∈ all, ∀ p, pl e = some p → s.locked p.1 true p.2 n = false) → read = true →
          l = (all.filter fun e => (pl e).any fun p => s.eccHit (.scr p.1 p.2) n) →
          Raises i g s c 0x14 (lanesIn false c l) (firstOf l))))

/-! ## Events of the memory system -/

/-- What a load of the wave `w` of 32 bytes at a sector gets: zeros where another module refuses the read; else what memory
holds, with the writes its die's ports still hold laid over host and Cinch memory; or, for a load that the L1 may
serve, what its core's line, not yet expired, holds. -/
def sectorGets (s : State) (w : Wave) (q : Nat) (l1 : Bool) (bs : List Byte) : Prop :=
  if s.refusedAt (.glob (32 * q)) then bs = List.replicate 32 0 else
  bs = (if portMem (32 * q) then forwardOver (s.portQueue w.die) (.glob (32 * q)) (s.bytes (.glob (32 * q)) 32)
    else s.bytes (.glob (32 * q)) 32) ∨
  (l1 = true ∧ ∃ l ∈ s.msys.l1, l.core = w.core ∧ l.line = q / 4 ∧ s.clock < l.fill + 16384 ∧ bs = (l.bytes.drop (32 * q % 128)).take 32)

/-- The address of a place. -/
def addrOf : Loc → Nat
  | .glob pa => pa
  | .scr _ a => a

/-- A piece with its bytes out of `bs`, and the stores `own` laid over them. -/
def taking (q : Piece) (own : List StoreEnt) (bs : List Byte) : Piece := { q with data := some (forwardOver own q.loc (bs.take q.n)) }

/-- HOME_SLICE_SERVICE of a load's piece: it, and every waiting piece of its word in the same sector or at the same place,
takes the bytes that memory or the scratchpad holds, or those of its core's L1 line, with the thread's own earlier stores laid
over them; a refused read gives zeros and raises vector 2; nothing else in memory changes. -/
def ServedPiecesReadMemory : Prop :=
  (∀ s w o id k sg n dst l1 pieces p, s.cur = .event (.service w.id id k false) →
    s.liveWave w.id = some w → w.op id = some o → o.id = id → w.mayServe o = true → o.kind = .load sg n dst l1 pieces → pieces[k]? = some p →
    p.data = none → (∀ q ∈ pieces, p.with q = true → s.spoiled q.loc q.n = false) → l1 = false →
    (∀ pa, p.loc = .glob pa → localMem pa = true) →
    ∃ u, exec .homeSliceService s = .next u ∧ (∀ a, sget u.mem a = sget s.mem a) ∧ (∀ a, sget u.scr a = sget s.scr a) ∧
      ∃ x, aget u.waves w.id = some x ∧ x.v = w.v ∧ x.ops = w.ops.map fun y => if y.id = id then
        { o with kind := .load sg n dst l1 (pieces.map fun q =>
            if p.with q then { q with data := some (forwardOver (s.seenStores w id q.lane) q.loc (s.bytes q.loc q.n)) } else q) }
        else y) ∧
  ∀ s (t : State) w o id k sg n dst l1 pieces p b, s.cur = .event (.service w.id id k false) → t = { s with fresh := s.fresh + 1 } →
    s.liveWave w.id = some w → w.op id = some o → o.id = id → w.mayServe o = true → o.kind = .load sg n dst l1 pieces → pieces[k]? = some p →
    p.data = none → (∀ q ∈ pieces, p.with q = true → s.spoiled q.loc q.n = false) → p.sector = some b →
    ∃ u bs, exec .homeSliceService s = .next u ∧ sectorGets t w b l1 bs ∧
      (t.refusedAt (.glob (32 * b)) = false → ∀ a, sget u.mem a = sget s.mem a) ∧
      (t.refusedAt (.glob (32 * b)) = true → (u.part w.part).pend.testBit 2 = true) ∧ (∀ a, sget u.scr a = sget s.scr a) ∧
      ∃ x, aget u.waves w.id = some x ∧ x.v = w.v ∧ x.ops = w.ops.map fun y => if y.id = id then
        { o with kind := .load sg n dst l1 (pieces.map fun q =>
            if q.data = none ∧ q.sector = some b then taking q (s.seenStores w id q.lane) (bs.drop (addrOf q.loc - 32 * b)) else q) }
        else y

/-- HOME_SLICE_SERVICE of an atomic's next lane: the location takes the new value, the old one is owed to the lane, and
every byte outside the location is unchanged. While one that releases at .dev or .sys finds a write in its die's port, it
waits. -/
def ServedAtomicsReplaceTheirLocation : Prop := ∀ s w o id k f n dst a rest pa v, s.cur = .event (.service w.id id k false) →
  s.liveWave w.id = some w → w.op id = some o → o.id = id → w.mayServe o = true → o.kind = .atomic f n dst (a :: rest) → a.loc = .glob pa →
  s.spoiled a.loc n = false → localMem pa = true → (n = 4 ∨ n = 8) → w.spills = [] →
  ((o.rel = 2 ∧ ∃ p ∈ s.msys.ports, p.die = w.die) → exec .homeSliceService s = .next s) ∧
  ((o.rel = 2 → ∀ p ∈ s.msys.ports, p.die ≠ w.die) → s.portHolds w.die a.loc n = false → atomicResult f n (ofBytes (s.bytes a.loc n)) a.x.toNat a.y.toNat = some v →
  ∃ u, exec .homeSliceService s = .next u ∧ u.bytes a.loc n = bytesOf n v ∧
    (∀ b, b < pa ∨ pa + n ≤ b → sget u.mem b = sget s.mem b) ∧ (∀ b, sget u.scr b = sget s.scr b) ∧
    ∃ x, aget u.waves w.id = some x ∧ x.ops = w.ops.map fun y => if y.id = id then
      { o with kind := .atomic f n dst rest, writes := o.writes ++ [⟨dst, a.lane, BitVec.ofNat 64 (ofBytes (s.bytes a.loc n))⟩]
               rel := 0 } else y)

/-- A byte after some stores, oldest first, have been written over it. -/
def memAfter (l : List StoreEnt) (a : Nat) (b : Byte) : Byte := l.foldl (fun b e => match e.loc with
  | .glob pa => if pa ≤ a ∧ a < pa + e.bytes.length then e.bytes.getD (a - pa) b else b
  | .scr _ _ => b) b
def scrAfter (l : List StoreEnt) (a : Nat) (b : Byte) : Byte := l.foldl (fun b e => match e.loc with
  | .scr k x => if scrKey k x ≤ a ∧ a < scrKey k x + e.bytes.length then e.bytes.getD (a - scrKey k x) b else b
  | .glob _ => b) b

/-- STORE_QUEUE_LEAVE: the oldest store of a wave's queue is written to the memory or scratchpad it names, with its word's
others in the same sector, in the order of lanes, and no other byte changes; a spill of its return stacks goes where only
its thread sees it until the thread's next release. -/
def StoresLeaveInOrder : Prop := ∀ s w e rest g left, s.cur = .event (.wave w.id) → s.liveWave w.id = some w →
  w.queue = e :: rest → (∀ o ∈ w.ops, o.id < e.op → o.performed = true) →
  (g, left) = (if e.sector = none then ([e], rest) else w.queue.partition fun x => x.op = e.op && x.sector = e.sector) →
  (e.spill = false → w.spills = [] → (∀ x ∈ g, ∀ pa, x.loc = .glob pa → localMem pa = true) →
    ∃ u, exec .storeQueueLeave s = .next u ∧ (∀ a, sget u.mem a = memAfter g a (sget s.mem a)) ∧
    (∀ a, sget u.scr a = scrAfter g a (sget s.scr a)) ∧
    ∃ x, aget u.waves w.id = some x ∧ x.queue = left ∧ x.v = w.v ∧ x.spills = w.spills) ∧
  (e.spill = true → ∃ u, exec .storeQueueLeave s = .next u ∧ (∀ a, sget u.mem a = sget s.mem a) ∧
    ∃ x, aget u.waves w.id = some x ∧ x.queue = rest ∧ x.v = w.v ∧ x.spills = w.spills ++ [e])

/-- STORE_QUEUE_LEAVE: an entry behind an older word's store does not leave. -/
def StoresWaitForOlderWords : Prop := ∀ s w k e, s.cur = .event (.op w.id k) → s.liveWave w.id = some w → w.queue[k]? = some e →
  (∃ x ∈ w.queue.take k, x.op ≠ e.op) → exec .storeQueueLeave s = .next s

/-- The value that a load's bytes give the `k`-th of its destinations in a lane: one register takes them all, extended as
the form says, and a pair 8 each (R211, R212, R214). -/
def loadValue (sg : Bool) (n : Nat) (dst : List RegName) (pieces : List Piece) (k l : Nat) : Word :=
  let bs := ((pieces.filter fun p => p.lane = l).map fun p => p.data.getD []).flatten
  if dst.length = 1 then BitVec.ofInt 64 (toI sg (8 * n) (ofBytes bs)) else BitVec.ofNat 64 (ofBytes ((bs.drop (8 * k)).take 8))

/-- LOAD_COMPLETE: once every piece has returned, the destinations of each lane, one register, a pair, or a uniform one, take
the loaded value; the counter falls; a lane that has exited is not written, and a register that a later word has written since
keeps that value or takes the load's. -/
def LoadsCompleteWithTheirBytes : Prop := ∀ s w o id n sg dst l1 pieces, s.cur = .event (.op w.id id) →
  s.liveWave w.id = some w → w.op id = some o → o.id = id → o.kind = .load sg n dst l1 pieces →
  ((∃ m, m < 128 ∧ dst = [.v m]) ∨ (∃ m, m < 127 ∧ dst = [.v m, .v (m + 1)]) ∨ ∃ m, dst = [.s m] ∧ ∀ p ∈ pieces, p.lane = 0) →
  (∀ p ∈ pieces, p.data.isSome = true ∧ p.lane < 64) → w.live ≠ 0 →
  ∃ u x, exec .loadComplete s = .next u ∧ aget u.waves w.id = some x ∧
    x.ops = w.ops.filter (fun y => decide (y.id ≠ id)) ∧
    x.ctr = (match o.ctr with | some j => w.ctr.set j (w.ctr.getD j 0 - 1) | none => w.ctr) ∧
    (∀ a, sget u.mem a = sget s.mem a) ∧
    ∀ k r l, dst[k]? = some r → l < 64 → (r.uniform = true → l = 0) →
      ((r.uniform = true ∨ inLanes w.exited l = false) → (∃ p ∈ pieces, p.lane = l) →
        (inLanes (RegSet_at o.raced r) l = false → x.reg r l = loadValue sg n dst pieces k l) ∧
        (inLanes (RegSet_at o.raced r) l = true → x.reg r l = loadValue sg n dst pieces k l ∨ x.reg r l = w.reg r l)) ∧
      ((r.uniform = false ∧ inLanes w.exited l = true) ∨ (∀ p ∈ pieces, p.lane ≠ l) → x.reg r l = w.reg r l)

/-- VARIABLE_LATENCY_COMPLETION of an atomic whose steps are all done, or of a word whose result is there: the owed
values are written, the counter falls, and the operation is gone. -/
def CompletedWordsDeliverTheirResults : Prop := ∀ s w o id, s.cur = .event (.op w.id id) → s.liveWave w.id = some w →
  w.op id = some o → o.id = id → (o.kind = .done ∨ ∃ f n d, o.kind = .atomic f n d []) → o.raced = [] → w.live ≠ 0 →
  (∀ x ∈ o.writes, x.lane < 64 ∧ ∃ m, m < 128 ∧ x.reg = .v m) → (o.writes.map fun x => (x.reg, x.lane)).Nodup →
  ∃ u x, exec .variableLatencyCompletion s = .next u ∧ aget u.waves w.id = some x ∧
    x.ops = w.ops.filter (fun y => decide (y.id ≠ id)) ∧
    x.ctr = (match o.ctr with | some j => w.ctr.set j (w.ctr.getD j 0 - 1) | none => w.ctr) ∧
    (∀ e ∈ o.writes, x.reg e.reg e.lane = e.val) ∧
    ∀ a, sget u.mem a = sget s.mem a

/-- A port's write reaches memory when it is delivered (WRITE_DELIVERY), and not before an earlier write to the same bytes
or an earlier message; L1_LINE_EXPIRY drops a line only at its age;
WAITER_RESEND, MESH_RETRY and INJECTION_BAR change nothing that a program can see. -/
def PortsAndLinesKeepTheirRules : Prop :=
  (∀ s d p, s.cur = .event (.delivery d 0) → (s.msys.ports.filter fun q => q.die = d).head? = some p →
    (s.refusedAt (.glob p.pa) = false → ∃ u, exec .writeDelivery s = .next u ∧ u.bytes (.glob p.pa) p.bytes.length = p.bytes ∧
      ∀ a, a < p.pa ∨ p.pa + p.bytes.length ≤ a → sget u.mem a = sget s.mem a) ∧
    (s.refusedAt (.glob p.pa) = true → ∃ u t : State, exec .writeDelivery s = .next u ∧ u = t.interrupt p.part 2 d ∧
      ∀ a, sget t.mem a = sget s.mem a)) ∧
  (∀ s d k p, s.cur = .event (.delivery d k) → (s.msys.ports.filter fun q => q.die = d)[k]? = some p →
    (∃ q ∈ (s.msys.ports.filter fun q => q.die = d).take k, q.rel = true ∨ overlaps q.pa q.bytes.length p.pa p.bytes.length = true) →
    exec .writeDelivery s = .next s) ∧
  (∀ s k l, s.cur = .event (.line k l) → ∃ u, exec .l1LineExpiry s = .next u ∧
    u.msys.l1 = s.msys.l1.filter (fun x => !(x.core = k && x.line = l && decide (x.fill + 16384 ≤ s.clock))) ∧
    ∀ a, sget u.mem a = sget s.mem a) ∧
  ∀ s a, s.cur = .event a → exec .waiterResend s = .next s ∧ exec .meshRetry s = .next s ∧ exec .injectionBar s = .next s

/-! ## Control words -/

/-- A direct branch sends its whole path to H + 4 × offset when it is taken and leaves it to go on past its clause when it is
not; it divides no path and changes nothing else; its five encodings, with every operand, and the words the rule writes out; p0 is true. -/
def DirectBranchesGoTheirWay : Prop :=
  (∀ i off taken g s c, branchForm i = some (off, taken) → AtWord i g s c → Clear i g c →
    (taken c → ∃ u, exec i s = .next u ∧ Keeps (fun _ _ => False) (some (c.p.goto (branchTarget c off))) s u c) ∧
    (¬ taken c → ∃ u, exec i s = .next u ∧ OnlyRegs (fun _ _ => False) s u c) ∧
    ((c.hword.extractLsb 31 28).toNat < c.next → c.advanced = c.p.goto (c.hdr + 4 * ((c.hword.extractLsb 31 28).toNat + 1)))) ∧
  (∀ (st : BitVec 2) (p : BitVec 3) (n : BitVec 7) (x : BitVec 21) (y : BitVec 18) (z : BitVec 14),
    decode .bare ⟨none, st ++ 0x170#9 ++ x, none⟩ = .ok (.bra ⟨st, x⟩) ∧
    decode .bare ⟨none, st ++ 0x171#9 ++ p ++ y, none⟩ = .ok (.braAny ⟨st, p, y⟩) ∧
    decode .bare ⟨none, st ++ 0x172#9 ++ p ++ y, none⟩ = .ok (.braAll ⟨st, p, y⟩) ∧
    decode .bare ⟨none, st ++ 0x173#9 ++ n ++ z, none⟩ = .ok (.braNz ⟨st, n, z⟩) ∧
    decode .bare ⟨none, st ++ 0x174#9 ++ n ++ z, none⟩ = .ok (.braZ ⟨st, n, z⟩)) ∧
  decode .bare ⟨none, 0x2E1FFFFD, none⟩ = .ok (.bra ⟨0, -3⟩) ∧ decode .bare ⟨none, 0x2E280004, none⟩ = .ok (.braAny ⟨0, 2, 4⟩) ∧
  decode .bare ⟨none, 0x2E617FFE, none⟩ = .ok (.braNz ⟨0, 5, -2⟩) ∧ ∀ (c : WCtx) l, c.pred l 0 = true

/-- CALL, CALLX, FCALL and FCALL.P push the return point in every active lane and send each lane to its target; a lane
whose stack is full makes them raise FRAME_EXHAUST for exactly those lanes, with nothing pushed; lanes that hold 8 entries
spill their oldest, as a store of the wave's on c2, and while c2 is full the call waits. -/
def CallsPushTheReturnPoint : Prop := ∀ i f g s c, callForm i = some f → AtWord i g s c → Clear i g c →
  (∀ o, f = .inr o → ∀ l, inLanes c.act l = true → (laneTarget c o l).toNat % 4 = 0) →
  (∀ xl, ((∃ o, i = .call o) ∨ (∃ o, i = .callx o) ∨ refillLanes s c 1 = []) → stackRoom c → c.w.twin = none → spillLanes s c ≠ [] →
    (63 ≤ c.w.ctr.getD 2 0 → exec i s = .next s) ∧
    (c.w.ctr.getD 2 0 < 63 → allPass s c 8 .store false (fun _ => false) (spillLanes s c) xl →
      ∃ u w, exec i s = .next u ∧ aget u.waves c.w.id = some w ∧ pushed c w ∧ w.ctr = c.w.ctr.set 2 (c.w.ctr.getD 2 0 + 1) ∧
        w.queue = c.w.queue ++ entriesOf s.nextId true ((accs (spillLanes s c) xl).map fun a =>
          storeEntries a (bytesOf 8 (c.w.entry a.lane (c.w.spilledOf a.lane)).toNat)).flatten ∧
        (∀ l, w.spilledOf l = c.w.spilledOf l + if ∃ e ∈ spillLanes s c, e.1 = l then 1 else 0) ∧
        (∀ a, ¬ leafBytes ((accs (spillLanes s c) xl).map LaneAcc.xl) a → sget u.mem a = sget s.mem a) ∧
        ∀ r l, r.exists_ = true → w.reg r l = c.w.reg r l)) ∧
  (stackRoom c → spillLanes s c = [] → ((∃ o, i = .call o) ∨ (∃ o, i = .callx o) ∨ refillLanes s c 1 = []) →
    ∃ u w, exec i s = .next u ∧ Moves (fun _ => False) s u c w ∧ pushed c w ∧ w.trap = c.w.trap ∧
    match f with
    | .inl off => w.path c.p.id = some (c.p.goto (branchTarget c off))
    | .inr o => ∀ l, inLanes c.act l = true → u.standsAt c.w.id l (laneTarget c o l).toNat) ∧
  ∀ m, (∀ l, inLanes m l = (inLanes c.act l && decide (c.w.rets ≤ (stackOf c.w l).length))) → m ≠ 0 →
    Raises i g s c 0x22 m 0

/-- BRX sends each active lane to its own target, one path for each distinct target; so does RET, to the return points
it pops; entries that stand in spill memory are read first, and RET waits for them. A target of BRX, CALLX or RET that is not a
multiple of 4 raises FETCH_ALIGN for those lanes, an empty stack RET_EMPTY. -/
def RegisterTargetsDivideThePath : Prop :=
  (∀ o g s c, AtWord (.brx o) g s c → Clear (.brx o) g c → c.p.handler = false →
    (∀ l, inLanes c.act l = true → (laneTarget c o l).toNat % 4 = 0) →
    ∃ u w, exec (.brx o) s = .next u ∧ Moves (fun _ => False) s u c w ∧ w.stack = c.w.stack ∧ w.lk = c.w.lk ∧ w.trap = c.w.trap ∧
      ∀ l, inLanes c.act l = true → u.standsAt c.w.id l (laneTarget c o l).toNat) ∧
  (∀ o g s c, AtWord (.ret o) g s c → Clear (.ret o) g c → c.w.records = [] → refillLanes s c 2 = [] →
    (∀ l, inLanes c.act l = true → ∃ a rest, stackOf c.w l = a :: rest ∧ a.toNat % 4 = 0) →
    ∃ u w, exec (.ret o) s = .next u ∧ Moves (fun _ => False) s u c w ∧ w.trap = c.w.trap ∧
      (∀ l, inLanes c.act l = true → u.standsAt c.w.id l ((stackOf c.w l).headD 0).toNat ∧
        stackOf w l = (stackOf c.w l).tail ∧ sget w.lk l = (stackOf c.w l).tail.headD 0) ∧
      ∀ l, inLanes c.act l = false → stackOf w l = stackOf c.w l ∧ sget w.lk l = sget c.w.lk l) ∧
  (∀ o g s c xl, AtWord (.ret o) g s c → Clear (.ret o) g c → c.w.twin = none → refillLanes s c 2 ≠ [] →
    (∀ l, inLanes c.act l = true → stackOf c.w l ≠ []) → allPass s c 8 .load false (fun _ => false) (refillLanes s c 2) xl →
    ∃ u w q, exec (.ret o) s = .next u ∧ aget u.waves c.w.id = some w ∧ u.newOp c.w.id = some q ∧ q.ctr = none ∧
      w.path c.p.id = some { c.p with st := .op q.id } ∧ w.stack = c.w.stack ∧ w.lk = c.w.lk ∧ w.ctr = c.w.ctr ∧
      q.kind = .refill ((accs (refillLanes s c 2) xl).map fun e =>
        (e.lane, c.w.spilledOf e.lane - 1, (piecesOf e 8).map fun p => (p.loc, p.n))) ∧
      (∀ a, ¬ leafBytes ((accs (refillLanes s c 2) xl).map LaneAcc.xl) a → sget u.mem a = sget s.mem a) ∧
      ∀ r l, r.exists_ = true → w.reg r l = c.w.reg r l) ∧
  (∀ o g s c m, AtWord (.ret o) g s c → Clear (.ret o) g c →
    (∀ l, inLanes m l = (inLanes c.act l && decide (stackOf c.w l = []))) → m ≠ 0 →
    Raises (.ret o) g s c 0x20 m 0) ∧
  (∀ o g s c m l, AtWord (.ret o) g s c → Clear (.ret o) g c → (∀ k, inLanes c.act k = true → stackOf c.w k ≠ []) →
    refillLanes s c 2 = [] → (∀ k, inLanes m k = (inLanes c.act k && decide (((stackOf c.w k).headD 0).toNat % 4 ≠ 0))) →
    inLanes m l = true → (∀ k, k < l → inLanes m k = false) → RaisesAtTarget (.ret o) g s c 0x04 m ((stackOf c.w l).headD 0)) ∧
  ∀ i o g s c m l, (i = .brx o ∨ i = .callx o) → AtWord i g s c → Clear i g c →
    (∀ k, inLanes m k = (inLanes c.act k && decide ((laneTarget c o k).toNat % 4 ≠ 0))) → inLanes m l = true →
    (∀ k, k < l → inLanes m k = false) → RaisesAtTarget i g s c 0x04 m (laneTarget c o l)

/-- In handler mode a BRX to targets outside the latched window leaves it: with no other handler path, the trap registers
clear, and each lane stands at its target; at tpc it resumes at the faulting word, and after it for TRAP and BRK. -/
def BrxLeavesHandlerMode : Prop := ∀ o g s c t, AtWord (.brx o) g s c → Clear (.brx o) g c → c.w.trap = some t →
  c.p.handler = true → (∀ q ∈ c.w.paths, q.handler = true → q.id = c.p.id) → c.act ≠ 0 →
  (∀ l, inLanes c.act l = true → (laneTarget c o l).toNat % 4 = 0 ∧
    ((laneTarget c o l).toNat < t.base ∨ t.base + t.size ≤ (laneTarget c o l).toNat)) →
  ∃ u w, exec (.brx o) s = .next u ∧ Moves (fun _ => False) s u c w ∧ w.trap = none ∧
    ∀ l, inLanes c.act l = true → ∃ q ∈ w.paths, inLanes q.lanes l = true ∧ q.handler = false ∧
      (q.hdr, q.idx) = if laneTarget c o l = t.pc then
          (t.pc.toNat - 4 * (t.cause.toNat / 2 ^ 20 % 16), t.cause.toNat / 2 ^ 20 % 16 +
            if t.cause.toNat % 256 = 0x60 ∨ t.cause.toNat % 256 = 0x61 then 1 else 0)
        else ((laneTarget c o l).toNat, 0)

/-- FCALL with a confident prediction, and FCALL.P, start a twin when R191 allows a fork: it stands at the return point
with the caller's registers but v0 to v3, which hold the predicted values, or s[N] in v0; its counters are 0 and its
queue empty. -/
def ForksStartATwinAtTheReturnPoint : Prop := ∀ i g s c (f : Nat → Nat → Word) slot frame s1, AtWord i g s c → Clear i g c → stackRoom c →
  spillLanes s c = [] → refillLanes s c 1 = [] →
  ((∃ o, i = .fcallP o ∧ ∀ k l, f k l = if k = 0 then c.s o.n else c.w.reg (.v k) l) ∨
   ∃ o e, i = .fcall o ∧ aget (s.core c.w.core).pred (c.addr / 4 % 512) = some e ∧ e.site = c.addr ∧ 1 ≤ e.conf ∧
    ∀ k, k < 4 → (e.modes.getD k 0 = 1 ∧ ∀ l, f k l = c.w.reg (.v k) l) ∨
      (e.modes.getD k 0 = 2 ∧ ∀ l, f k l = e.base.getD k 0 + BitVec.ofNat 64 l * e.stride.getD k 0)) →
  c.w.twin = none → c.act = c.w.live → c.w.ctr.all (· = 0) = true → c.w.forks.length < 2 →
  (((c.advance s).onSub c.w.core c.w.sub).filter fun w => w.twin.isSome).length < 4 →
  (c.advance s).freeSlot c.w.core c.w.sub c.w.vregs c.w.width = some slot →
  (c.advance s).alloc c.w.part c.w.die (c.w.rets * 8 * c.w.width) 256 (.fork c.w.id) = (.at frame, s1) →
  ∃ u k x w, exec i s = .next u ∧ aget s.waves k = none ∧ aget u.waves k = some x ∧ x.twin.map Twin.parent = some c.w.id ∧
    x.slot = slot ∧ x.ctr = List.replicate 6 0 ∧ x.queue = [] ∧ x.ops = [] ∧ x.launch = c.w.launch ∧ x.dsp = c.w.dsp ∧
    (∃ p, x.paths = [p] ∧ p.hdr = c.after ∧ p.idx = 0 ∧ p.st = .run ∧ p.lanes = c.act) ∧
    (∀ j l, j < 4 → inLanes c.act l = true → x.reg (.v j) l = f j l) ∧
    (∀ r l, r.exists_ = true → (∀ j, j < 4 → r ≠ .v j) → x.reg r l = c.w.reg r l) ∧
    aget u.waves c.w.id = some w ∧ (w.forks.getLast?).bind ForkRec.twin = some k ∧ pushed c w

/-- FORK.STAT reads the wave's fork state or its core's counts; FORK.KILL discards the wave's twins, all of them or the
youngest, and counts them squashed; FORK.CLR empties the core's predictor, or one site's entry. -/
def ForkWordsActOnForks : Prop :=
  (∀ o g s c, AtWord (.forkStat o) g s c → Clear (.forkStat o) g c → ∃ u, exec (.forkStat o) s = .next u ∧
    UniDone o.d.toNat (fun x => x = if o.b = 0 then
        BitVec.ofNat 64 (c.w.cause * 256 + (if c.w.twin.isSome then 16 else 0) + c.w.forks.length * 4 +
          (c.w.forks.filter fun f => f.twin.isSome).length)
      else if o.b = 1 then (s.core c.w.core).committed else if o.b = 2 then (s.core c.w.core).squashed
      else (s.core c.w.core).plain) s u c) ∧
  (∀ o g s c, AtWord (.forkKill o) g s c → Clear (.forkKill o) g c → o.b ≠ 0 → ∃ u w, exec (.forkKill o) s = .next u ∧
    aget u.waves c.w.id = some w ∧ (∀ f ∈ w.forks, f.twin = none) ∧ (∀ a, sget u.mem a = sget s.mem a) ∧
    (∀ r l, w.reg r l = c.w.reg r l) ∧
    (∀ t, t ≠ c.w.id → (∃ f ∈ c.w.forks, f.twin = some t) → aget u.waves t = none) ∧
    (u.core c.w.core).squashed = (s.core c.w.core).squashed +
      BitVec.ofNat 64 (c.w.forks.filter fun f => f.twin.isSome).length) ∧
  (∀ o g s c pre f post t, AtWord (.forkKill o) g s c → Clear (.forkKill o) g c → o.b = 0 → c.w.forks = pre ++ f :: post →
    f.twin = some t → (∀ e ∈ pre, e.twin ≠ some t) → (∀ e ∈ post, e.twin = none) →
    ∃ u w, exec (.forkKill o) s = .next u ∧ aget u.waves c.w.id = some w ∧ (t ≠ c.w.id → aget u.waves t = none) ∧
      w.forks.map ForkRec.twin = pre.map ForkRec.twin ++ none :: post.map ForkRec.twin ∧
      (∀ r l, w.reg r l = c.w.reg r l) ∧ (u.core c.w.core).squashed = (s.core c.w.core).squashed + 1) ∧
  ∀ o g s c, AtWord (.forkClr o) g s c → Clear (.forkClr o) g c → ∃ u w, exec (.forkClr o) s = .next u ∧
    aget u.waves c.w.id = some w ∧ w.path c.p.id = some c.advanced ∧ (∀ r l, w.reg r l = c.w.reg r l) ∧
    (o.b = 0 → (u.core c.w.core).pred = []) ∧
    (o.b ≠ 0 → ∀ e, e ∈ (u.core c.w.core).pred ↔ e ∈ (s.core c.w.core).pred ∧ e.2.site ≠ (c.s o.a).toNat)

/-- FORK_RESOLUTION of the youngest record whose lanes are back: a fork with no cause against it commits, and the wave
goes on as its twin, with its own queue first, its counts, and the registers that only the callee wrote, the pages of
its stores now dirty; a fork whose predicted v0 to v3 differ from what the lanes returned with is squashed with cause 1
and the wave keeps its registers. -/
def ForksCommitOrAreSquashed : Prop := ∀ s w r t x tw, s.cur = .event (.wave w.id) → s.liveWave w.id = some w →
  w.resolvable = some r → r.twin = some t → t ≠ w.id → aget s.waves t = some x → x.id = t → x.twin = some tw → r.clash = 0 →
  (∀ e ∈ r.wrote, e.1.exists_ = true) →
  ((∃ l k, inLanes r.back l = true ∧ k < 4 ∧ w.reg (.v k) l ≠ sget tw.start (l * 4 + k)) →
    ∃ u y, exec .forkResolution s = .next u ∧ aget u.waves t = none ∧ aget u.waves w.id = some y ∧ y.cause = 1 ∧
      (∀ q l, y.reg q l = w.reg q l) ∧ ((∀ l, inLanes r.back l = true → w.spilledOf l = 0) → ∀ a, sget u.mem a = sget s.mem a) ∧
      (u.core w.core).squashed = (s.core w.core).squashed + 1) ∧
  ((∀ l k, inLanes r.back l = true → k < 4 → w.reg (.v k) l = sget tw.start (l * 4 + k)) → regClash r.wrote tw.rd = false →
    tw.held = none → ∃ u y, exec .forkResolution s = .next u ∧ aget u.waves t = none ∧ aget u.waves w.id = some y ∧
      y.twin = none ∧ y.paths = x.paths ∧ y.queue = w.queue ++ tw.buf ∧ y.ops = w.ops ++ x.ops ∧ y.exited = w.exited ∧
      (∀ n l, n < 4 → y.reg (.v n) l = x.reg (.v n) l) ∧
      (∀ n l, n < 128 → (∀ e ∈ r.wrote, e.1 ≠ .v n) → y.reg (.v n) l = x.reg (.v n) l) ∧
      (∀ n l, 4 ≤ n → n < 128 → (∃ e ∈ r.wrote, e.1 = .v n ∧ inLanes e.2 l = true) → (∀ e ∈ tw.wr, e.1 ≠ .v n) →
        y.reg (.v n) l = w.reg (.v n) l) ∧
      (∀ a, (∀ e ∈ tw.buf, ∀ p, e.leaf = some p → a < p ∨ p + 8 ≤ a) → sget u.mem a = sget s.mem a) ∧
      (u.core w.core).committed = (s.core w.core).committed + 1)

/-- SPLIT: lanes whose predicate is true go to the target and the others past the clause; when there are both, jN takes the
mask of the path that waits its turn and its partner mask that of the path that goes first, which in strict mode is the
one with the lowest lane. -/
def SplitDividesByPredicate : Prop := ∀ o g s c, AtWord (.split o) g s c → Clear (.split o) g c →
  ∃ u w, exec (.split o) s = .next u ∧ Moves (fun r => r = .j o.j.toNat) s u c w ∧
    (∀ l, inLanes c.act l = true → u.standsAt c.w.id l
      (if c.pred l o.p.toNat then branchTarget c o.off.toInt else c.after)) ∧
    ((∃ l, inLanes c.act l = true ∧ c.pred l o.p.toNat = true) → (∃ l, inLanes c.act l = true ∧ c.pred l o.p.toNat = false) →
      ∃ takenFirst : Bool,
        (∀ l, inLanes (sget w.j o.j.toNat) l = (inLanes c.act l && c.pred l o.p.toNat != takenFirst)) ∧
        (∀ l, inLanes (sget w.jp o.j.toNat) l = (inLanes c.act l && c.pred l o.p.toNat == takenFirst)) ∧
        (c.w.strict = true → inLanes (sget w.jp o.j.toNat) (lowestLane c.act) = true))

/-- JOIN: while a lane that jN or its partner mask names has neither exited nor come there, the path waits; when all the
wave's other paths wait there, it goes on as one path with their lanes, and both masks become 0. MEET sets mtg in the
active lanes, to H + 4 × literal or from a register. -/
def JoinWaitsAndMeetIsSet : Prop :=
  (∀ o g s c, AtWord (.join o) g s c → Clear (.join o) g c → (∀ q ∈ c.w.paths, q.id ≠ c.p.id → q.st = .run) →
    (∃ l, inLanes (sget c.w.j o.d.toNat ||| sget c.w.jp o.d.toNat) l = true ∧ inLanes c.w.exited l = false ∧
      inLanes c.p.lanes l = false) →
    ∃ u w, exec (.join o) s = .next u ∧ Moves (fun _ => False) s u c w ∧ w.path c.p.id =
      some { c.p.goto c.after with st := .join o.d.toNat (sget c.w.j o.d.toNat ||| sget c.w.jp o.d.toNat) }) ∧
  (∀ o g s c, AtWord (.join o) g s c → Clear (.join o) g c →
    (∀ q ∈ c.w.paths, q.id ≠ c.p.id → (∃ m, q.st = .join o.d.toNat m) ∧ q.hdr = c.after ∧ q.handler = c.p.handler) →
    (∀ l, inLanes (sget c.w.j o.d.toNat ||| sget c.w.jp o.d.toNat) l = true → inLanes c.w.exited l = true ∨
      inLanes c.p.lanes l = true ∨ ∃ q ∈ c.w.paths, q.id ≠ c.p.id ∧ inLanes q.lanes l = true) →
    ∃ u w p, exec (.join o) s = .next u ∧ Moves (fun r => r = .j o.d.toNat) s u c w ∧ w.paths = [p] ∧ p.hdr = c.after ∧
      p.st = .run ∧ sget w.j o.d.toNat = 0 ∧ sget w.jp o.d.toNat = 0 ∧
      ∀ l, inLanes p.lanes l = true ↔ inLanes c.p.lanes l = true ∨ ∃ q ∈ c.w.paths, q.id ≠ c.p.id ∧ inLanes q.lanes l = true) ∧
  ∀ i g s c (f : Nat → Word), (∃ o, i = .meet o ∧ ∀ l, f l = BitVec.ofNat 64 (branchTarget c (o.lit.getD 0).toInt)) ∨
      (∃ o, i = .meetV o ∧ ∀ l, f l = c.v l o.a) → AtWord i g s c → Clear i g c → allRun c.w →
    ∃ u, exec i s = .next u ∧ OnlyRegs (fun r l => r = .mtg ∧ inLanes c.act l = true) s u c ∧
      ∀ l, inLanes c.act l = true → u.regIn c.w.id .mtg l = f l

/-- BAR.SYNC waits for the wave to drain and its atomics to complete, and then for every wave of its block: while one
that has not exited has not arrived, the path waits for the barrier's phase; the last arrival lets it run on, its core's
L1 emptied. -/
def BarSyncWaitsForEveryWave : Prop := ∀ o g s c b, AtWord (.barSync o) g s c → Clear (.barSync o) g c →
  c.p.handler = false → aget s.blocks c.w.block = some b →
  ((c.w.drained = false ∨ c.w.owesOld = true) → exec (.barSync o) s = .next s) ∧
  (c.w.drained = true → c.w.owesOld = false → (∃ i, i < b.nwaves ∧ i ≠ c.w.idx ∧ (b.bar o.imm.toNat).cur.contains i = false ∧
      ∃ x ∈ s.wavesOf b.id, x.idx = i ∧ x.live ≠ 0) → b.id = c.w.block →
    ∃ u w, exec (.barSync o) s = .next u ∧ aget u.waves c.w.id = some w ∧ (∀ e ∈ w.spills, inLanes c.act e.lane = false) ∧
      (c.w.spills = [] → ∀ a, sget u.mem a = sget s.mem a) ∧
      (∀ r l, w.reg r l = c.w.reg r l) ∧ w.path c.p.id = some { c.advanced with
        st := .bar o.imm.toNat ((b.bar o.imm.toNat).phase + if (b.bar o.imm.toNat).cur.contains c.w.idx then 1 else 0) }) ∧
  (c.w.drained = true → c.w.owesOld = false → (b.bar o.imm.toNat).cur.contains c.w.idx = false → b.id = c.w.block →
    (∀ i, i < b.nwaves → i = c.w.idx ∨ (b.bar o.imm.toNat).cur.contains i = true ∨
      ∀ x ∈ s.wavesOf b.id, x.idx = i → x.live = 0) →
    ∃ u w p, exec (.barSync o) s = .next u ∧ aget u.waves c.w.id = some w ∧ (c.w.spills = [] → ∀ a, sget u.mem a = sget s.mem a) ∧
      (∀ r l, w.reg r l = c.w.reg r l) ∧ w.path c.p.id = some p ∧ p.st = .run ∧ p.hdr = c.advanced.hdr ∧ p.idx = c.advanced.idx ∧
      ∀ l ∈ u.msys.l1, l.core ≠ c.w.core)

/-- NOP changes nothing; YIELD in normal mode neither, and in strict mode it makes the next wave above that can issue its
block's running wave; RNG is a fixed function of the seed, the lane's thread and the counter register. -/
def NopYieldAndRng : Prop :=
  (∀ o g s c, AtWord (.nop o) g s c → Clear (.nop o) g c → ∃ u, exec (.nop o) s = .next u ∧ OnlyRegs (fun _ _ => False) s u c) ∧
  (∀ o g s c, AtWord (.yield o) g s c → Clear (.yield o) g c → c.p.handler = false → c.w.strict = false →
    ∃ u, exec (.yield o) s = .next u ∧ OnlyRegs (fun _ _ => False) s u c) ∧
  (∀ o g s c k b, AtWord (.yield o) g s c → Clear (.yield o) g c → c.p.handler = false → c.w.strict = true →
    (c.advance s).lowestAble c.w.block (c.w.idx + 1) = some k → aget s.blocks c.w.block = some b →
    ∃ u w, exec (.yield o) s = .next u ∧ Moves (fun _ => False) s u c w ∧ w.path c.p.id = some c.advanced ∧
      aget u.blocks c.w.block = some { b with run := k, owed := false }) ∧
  ∀ o g s c, AtWord (.rng o) g s c → Clear (.rng o) g c → ∃ u, exec (.rng o) s = .next u ∧
    VecDone o.d.toNat (fun l x => x = rngMix (rngMix (c.w.lreg 150 ^^^ rngMix (((c.w.lreg 128 <<< 14) |||
      (c.w.lreg 138 * c.w.lreg 139 + BitVec.ofNat 64 l)) ^^^ c.w.lreg 151)) + c.v l o.a * 0xD1F05A37C2E98B63#64)) s u c

/-- EXIT ends its lanes for good: its path is gone and they count as exited; a wave all of whose lanes have exited, with
nothing outstanding, is gone from the machine. -/
def ExitEndsLanesForGood : Prop := ∀ o g s c, AtWord (.exit o) g s c → Clear (.exit o) g c →
  (c.w.live &&& ~~~c.act ≠ 0 → ∃ u w, exec (.exit o) s = .next u ∧ aget u.waves c.w.id = some w ∧
    w.exited = c.w.exited ||| c.act ∧ w.path c.p.id = none ∧ (∀ a, sget u.mem a = sget s.mem a) ∧
    (∀ r l, r ≠ .mtg → (∀ k, r ≠ .j k) → w.reg r l = c.w.reg r l) ∧ w.ctr = c.w.ctr ∧ w.queue = c.w.queue ∧ w.ops = c.w.ops) ∧
  (c.w.live &&& ~~~c.act = 0 → c.w.ctr.all (· = 0) = true → c.w.queue = [] → c.w.ops = [] →
    ∃ u, exec (.exit o) s = .next u ∧ aget u.waves c.w.id = none)

/-- TRAP and BRK raise TRAP_SW and BREAKPOINT for their active lanes with the immediate as taddr: the path enters the
partition's handler with the trap registers set; with no handler the grid ends with the code; in handler mode it ends with
the code that entered it. -/
def TrapsEnterTheHandler : Prop := ∀ i g s c code imm, (∃ o, i = .trap o ∧ code = 0x60 ∧ imm = o.imm.zeroExtend 64) ∨
    (∃ o, i = .brk o ∧ code = 0x61 ∧ imm = o.imm.zeroExtend 64) → AtWord i g s c → Clear i g c → c.w.forks = [] →
  (c.w.trap = none → (s.part c.w.part).hentry ≠ 0 → ∃ u, exec i s = .next u ∧ Entered code c.act imm s u c) ∧
  (c.w.trap = none → (s.part c.w.part).hentry = 0 → exec i s = .next (s.endGrid c.w.grid code (s.blockIdx c.w.block))) ∧
  ∀ t, c.w.trap = some t → c.p.handler = true → exec i s = .next (s.endGrid c.w.grid t.first (s.blockIdx c.w.block))

/-- The instruction-cache hints change no register and no byte but the accessed bits of the table entries that translate
their blocks; IC.PIN pins each block when its core has room for them all, IC.UNPIN unpins them. -/
def HintsOnlyPin : Prop := ∀ i o g s c, (i = .icPf o ∨ i = .icPin o ∨ i = .icUnpin o) → AtWord i g s c → Clear i g c →
  ∃ u w, exec i s = .next u ∧ aget u.waves c.w.id = some w ∧ w.path c.p.id = some c.advanced ∧
    (∀ a, (∀ x ∈ s.hintBlocks c o, ∀ p, x.slot = some p → a < p ∨ p + 8 ≤ a) → sget u.mem a = sget s.mem a) ∧
    (∀ r l, r.exists_ = true → u.regIn c.w.id r l = s.regIn c.w.id r l) ∧
    (i = .icPin o → (s.msys.pins.filter fun p => p.core = c.w.core).length + (s.hintBlocks c o).length ≤ 128 →
      ∀ x ∈ s.hintBlocks c o, ∃ p ∈ u.msys.pins, p.core = c.w.core ∧ p.blk = x.pa / 128) ∧
    (i = .icUnpin o → ∀ x ∈ s.hintBlocks c o, ∀ p ∈ u.msys.pins, p.core = c.w.core → p.blk ≠ x.pa / 128)

/-! ## Words on objects -/

/-- RING.CLAIM takes the ring's next count, which names the slot and its phase, and RING.AWAIT its own sequence number;
each answers the slot's address at once when the slot stands as it wants it, empty or full in that phase, with no older
waiter that can go, and otherwise its path waits for that. -/
def RingsGiveSlotsInTurn : Prop :=
  (∀ o g s c r s1 x n m, AtWord (.ringClaim o) g s c → Clear (.ringClaim o) g c → ringAt s c o false r s1 x → n = (s1.dword x.pa).toNat →
    (s1.slotByte x.pa (n % r.slots)).toNat < 4 →
    m = (s1.touch c.w.part x true).setDword x.pa (s1.dword x.pa + 1) →
    (m.slotIs x.pa (n % r.slots) false (n / r.slots % 2 = 1) = true → m.waiterBefore (x.pa + 64 + n % r.slots) m.nextId = false →
      ∃ u, exec (.ringClaim o) s = .next u ∧
      Answered m 4 [.s o.d.toNat] [⟨.s o.d.toNat, 0, BitVec.ofNat 64 (r.base + 512 + n % r.slots * 2 ^ r.lsize)⟩] s u c) ∧
    ((m.slotIs x.pa (n % r.slots) false (n / r.slots % 2 = 1) = false ∨ m.waiterBefore (x.pa + 64 + n % r.slots) m.nextId = true) →
      c.p.handler = false → ∃ u, exec (.ringClaim o) s = .next u ∧
      WaitsFor m (some 4) (.ring (x.pa + 64 + n % r.slots) false (n / r.slots % 2 = 1) (.s o.d.toNat)
        (r.base + 512 + n % r.slots * 2 ^ r.lsize) true) [.s o.d.toNat] s u c)) ∧
  ∀ o g s c r s1 x n m, AtWord (.ringAwait o) g s c → Clear (.ringAwait o) g c → ringAt s c o false r s1 x → n = (c.s o.a).toNat → (s1.slotByte x.pa (n % r.slots)).toNat < 4 →
    m = s1.touch c.w.part x true →
    (m.slotIs x.pa (n % r.slots) true (n / r.slots % 2 = 1) = true → m.waiterBefore (x.pa + 64 + n % r.slots) m.nextId = false →
      ∃ u, exec (.ringAwait o) s = .next u ∧
      Answered m 4 [.s o.d.toNat] [⟨.s o.d.toNat, 0, BitVec.ofNat 64 (r.base + 512 + n % r.slots * 2 ^ r.lsize)⟩] s u c) ∧
    ((m.slotIs x.pa (n % r.slots) true (n / r.slots % 2 = 1) = false ∨ m.waiterBefore (x.pa + 64 + n % r.slots) m.nextId = true) →
      c.p.handler = false → ∃ u, exec (.ringAwait o) s = .next u ∧
      WaitsFor m (some 4) (.ring (x.pa + 64 + n % r.slots) true (n / r.slots % 2 = 1) (.s o.d.toNat)
        (r.base + 512 + n % r.slots * 2 ^ r.lsize) true) [.s o.d.toNat] s u c)

/-- RING.POST and RING.REL wait for the wave to drain, and those of a .dev ring for its die's ports; POST marks an empty
slot full in its phase, REL a full slot empty in the other; a slot in the wrong state raises RING_STATE and stays as it
is. -/
def RingSlotsChangeHands : Prop := ∀ i o full g s c r s1 x k b, (i = .ringPost o ∧ full = true ∨ i = .ringRel o ∧ full = false) →
  AtWord i g s c → Clear i g c →
  (c.w.drained = false → exec i s = .next s) ∧
  (c.w.drained = true → ringAt s c o false r s1 x → k < r.slots →
    (c.s o.a).toNat = r.base + 512 + k * 2 ^ r.lsize → b = s1.slotByte x.pa k → b.toNat < 4 →
    (b.getLsbD 0 = !full → (r.dev = true → ∀ p ∈ s.msys.ports, p.die ≠ c.w.die) → ∃ u, exec i s = .next u ∧
      Answered (((s1.touch c.w.part x true).setBytes (.glob (x.pa + 64 + k))
        [BitVec.ofNat 8 (if full then 1 + (if b.getLsbD 1 then 2 else 0) else if b.getLsbD 1 then 0 else 2)]).publish c.w.id c.act)
        4 [] [] s u c) ∧
    (b.getLsbD 0 = !full → r.dev = true → (∃ p ∈ s.msys.ports, p.die = c.w.die) → exec i s = .next s) ∧
    (b.getLsbD 0 = full → Raises i g s c 0x50 c.act r.ent))

/-- The next message slot of a channel's counter at `which`: slot `k` in phase `ph`, whose bytes stand at `y`; taking it leaves
`m`, in which the count is one higher (R231, R232). -/
structure NextSlot (s1 : State) (c : WCtx) (r : Ring) (x : Xlat) (which k : Nat) (ph : Bool) (y : Xlat) (m : State) : Prop where
  slot  : k = (s1.dword (x.pa + which)).toNat % r.slots
  phase : ph = decide ((s1.dword (x.pa + which)).toNat / r.slots % 2 = 1)
  byte  : (s1.slotByte x.pa k).toNat < 4
  fits  : 8 * c.w.width ≤ 2 ^ r.lsize
  place : s1.objXlat c.w.part (BitVec.ofNat 64 (r.base + 512 + k * 2 ^ r.lsize)) .atomic = .ok y
  free  : s1.locked c.w.core false (r.base + 512 + k * 2 ^ r.lsize) (2 ^ r.lsize) = false
  count : m = (((s1.touch c.w.part x true).setDword (x.pa + which) (s1.dword (x.pa + which) + 1)).touch c.w.part y true).publish c.w.id c.act

/-- SEND and RECV take the slot that the channel's count names and raise the count by one, once the wave has drained and its
die's ports hold nothing; when the slot stands empty, SEND writes one dword for each lane, 0 for a lane that is not
active, and marks it full; when it stands full, RECV takes the active lanes' dwords, 0 in lanes that the sender has not,
and marks it empty in the next phase; with an older waiter that can go, or otherwise, the path waits. -/
def ChannelsCarryMessages : Prop :=
  (∀ i g s c, ((∃ o, i = .send o) ∨ ∃ o, i = .recv o) → AtWord i g s c → Clear i g c → c.w.drained = false → exec i s = .next s) ∧
  (∀ i o g s c r s1 x which k ph y m, (i = .send o ∧ which = 0 ∨ i = .recv o ∧ which = 8) → AtWord i g s c → Clear i g c →
    c.w.drained = true → (∃ p ∈ s.msys.ports, p.die = c.w.die) → ringAt s c o true r s1 x → NextSlot s1 c r x which k ph y m →
    exec i s = .next s) ∧
  (∀ o g s c r s1 x k ph y m msg, AtWord (.send o) g s c → Clear (.send o) g c → releases s c → ringAt s c o true r s1 x →
    NextSlot s1 c r x 0 k ph y m →
    msg = ((List.range c.w.width).map fun l => bytesOf 8 (if inLanes c.act l then c.v l o.a else 0).toNat).flatten →
    (m.slotIs x.pa k false ph = true → m.waiterBefore (x.pa + 64 + k) m.nextId = false → ∃ u, exec (.send o) s = .next u ∧
      Answered ((m.setBytes (.glob y.pa) msg).setBytes (.glob (x.pa + 64 + k)) [BitVec.ofNat 8 (1 + if ph then 2 else 0)]) 4 [] []
        s u c) ∧
    ((m.slotIs x.pa k false ph = false ∨ m.waiterBefore (x.pa + 64 + k) m.nextId = true) → c.p.handler = false →
      ∃ u, exec (.send o) s = .next u ∧ WaitsFor m (some 4) (.send (x.pa + 64 + k) ph y.pa msg) [] s u c)) ∧
  ∀ o g s c r s1 x k ph y m, AtWord (.recv o) g s c → Clear (.recv o) g c → releases s c → ringAt s c o true r s1 x →
    NextSlot s1 c r x 8 k ph y m →
    (m.slotIs x.pa k true ph = true → m.waiterBefore (x.pa + 64 + k) m.nextId = false →
      (∀ l, inLanes c.act l = true → m.poisoned (.glob (y.pa + 8 * l)) 8 = false) → ∃ u, exec (.recv o) s = .next u ∧
      Answered (m.setBytes (.glob (x.pa + 64 + k)) [BitVec.ofNat 8 (if ph then 0 else 2)]) 4 [.v o.d.toNat]
        (c.lanes.map fun l => ⟨.v o.d.toNat, l,
          if ∀ n, aget m.msys.sent y.pa = some n → l < n then m.dword (y.pa + 8 * l) else 0⟩) s u c) ∧
    ((m.slotIs x.pa k true ph = false ∨ m.waiterBefore (x.pa + 64 + k) m.nextId = true) → c.p.handler = false →
      ∃ u, exec (.recv o) s = .next u ∧ WaitsFor m (some 4) (.recv (x.pa + 64 + k) ph y.pa (.v o.d.toNat)) [.v o.d.toNat] s u c)

/-- BAR.ARRIVE lowers what remains by one and answers the phase it counted in; BAR.EXPECT raises what is pending; the phase
completes when both are 0. BAR.WAIT goes on at once when the phase differs from its token, and otherwise its path waits
until it does. -/
def CountedBarriersCount : Prop :=
  (∀ o g s c x, AtWord (.barArrive o) g s c → Clear (.barArrive o) g c → c.w.drained = true → barAt s c (c.s o.a) x →
    ((s.dword (x.pa + 8)).getLsbD 24 = true → ∀ p ∈ s.msys.ports, p.die ≠ c.w.die) →
    (1 ≤ barRem (s.dword x.pa) → ∃ u, exec (.barArrive o) s = .next u ∧
      Answered ((((c.advance s).touch c.w.part x true).setDword x.pa
        (barNext (s.dword x.pa) (s.dword (x.pa + 8)) (barRem (s.dword x.pa) - 1) (barPend (s.dword x.pa)))).publish c.w.id c.act) 4 [.s o.d.toNat]
        [⟨.s o.d.toNat, 0, if barPhase (s.dword x.pa) then 1 else 0⟩] s u c) ∧
    (barRem (s.dword x.pa) = 0 → Raises (.barArrive o) g s c 0x50 c.act (c.s o.a))) ∧
  (∀ o g s c x n, AtWord (.barExpect o) g s c → Clear (.barExpect o) g c → barAt s c (c.s o.a) x →
    n = (match o.lit with | some l => l.toNat | none => (c.s o.b).toNat) →
    (barPend (s.dword x.pa) + n < 2 ^ 35 → n < 2 ^ 35 → ∃ u, exec (.barExpect o) s = .next u ∧
      Answered (((c.advance s).touch c.w.part x true).setDword x.pa
        (barNext (s.dword x.pa) (s.dword (x.pa + 8)) (barRem (s.dword x.pa)) (barPend (s.dword x.pa) + n))) 4 [] [] s u c) ∧
    (2 ^ 35 ≤ n → Raises (.barExpect o) g s c 0x50 c.act (c.s o.a))) ∧
  ∀ o g s c x tok, AtWord (.barWait o) g s c → Clear (.barWait o) g c → c.p.handler = false → barAt s c (c.s o.a) x →
    tok = (c.s o.b).getLsbD 0 →
    (barPhase (s.dword x.pa) ≠ tok → ∃ u w, exec (.barWait o) s = .next u ∧ aget u.waves c.w.id = some w ∧
      w.path c.p.id = some c.advanced ∧ (∀ a, sget u.mem a = sget ((c.advance s).touch c.w.part x false).mem a) ∧
      (∀ r l, w.reg r l = c.w.reg r l) ∧ w.ctr = c.w.ctr ∧ w.ops = c.w.ops ∧ ∀ l ∈ u.msys.l1, l.core ≠ c.w.core) ∧
    (barPhase (s.dword x.pa) = tok → ∀ y, ((c.advance s).touch c.w.part x false).objXlat c.w.part (c.s o.a) .atomic = .ok y →
      ∃ u, exec (.barWait o) s = .next u ∧
        WaitsFor ((c.advance s).touch c.w.part x false) none (.barWait y.pa tok) [] s u c)

/-- FUT.NEW makes a word EMPTY unless waiters hang on it; FUT.RESOLVE and FUT.FAIL settle an unsettled future with 40 bits,
once the wave and its die's ports have drained; a settled one raises FUT_DOUBLE, and its word stays. -/
def FuturesSettleOnce : Prop :=
  (∀ o g s c x, AtWord (.futNew o) g s c → Clear (.futNew o) g c → futAt s c (c.s o.a) x →
    ((futEmpty (s.dword x.pa) ∨ futDone (s.dword x.pa)) → ∃ u, exec (.futNew o) s = .next u ∧
      Answered (((c.advance s).touch c.w.part x true).setDword x.pa 0) 5 [] [] s u c) ∧
    (futWaiting (s.dword x.pa) → Raises (.futNew o) g s c 0x24 c.act (c.s o.a))) ∧
  ∀ i st o g s c x v, (i = .futResolve o ∧ st = 2 ∨ i = .futFail o ∧ st = 3) → AtWord i g s c → Clear i g c →
    v = (match o.lit with | some l => l.toNat | none => (c.s o.b).toNat) →
    (¬ releases s c → exec i s = .next s) ∧
    (releases s c → futAt s c (c.s o.a) x →
      ((futEmpty (s.dword x.pa) ∨ futWaiting (s.dword x.pa)) → ∃ u, exec i s = .next u ∧
        Answered ((((c.advance s).touch c.w.part x true).setDword x.pa (BitVec.ofNat 64 (st * 2 ^ 62 + v % 2 ^ 40))).publish c.w.id c.act)
          5 [] [] s u c ∧
        (futWaiting (s.dword x.pa) → (u.part c.w.part).walks = (s.part c.w.part).walks ++ [(s.dword x.pa).toNat % 2 ^ 40])) ∧
      (futDone (s.dword x.pa) → Raises i g s c 0x23 c.act (c.s o.a)))

/-- FUT.POLL answers the word as it stands; FUT.AWAIT answers a settled word at once, and its path waits for one that is
not; either empties the core's L1 when the word is settled. -/
def FuturesAreRead : Prop := ∀ o g s c x, futAt s c (c.s o.a) x →
  (AtWord (.futPoll o) g s c → Clear (.futPoll o) g c →
    (futEmpty (s.dword x.pa) ∨ futWaiting (s.dword x.pa) ∨ futDone (s.dword x.pa)) → ∃ u, exec (.futPoll o) s = .next u ∧
      Answered ((c.advance s).touch c.w.part x true) 5 [.s o.d.toNat] [⟨.s o.d.toNat, 0, s.dword x.pa⟩] s u c ∧
      (futDone (s.dword x.pa) → ∀ l ∈ u.msys.l1, l.core ≠ c.w.core)) ∧
  (AtWord (.futAwait o) g s c → Clear (.futAwait o) g c →
    (futDone (s.dword x.pa) → ∃ u, exec (.futAwait o) s = .next u ∧
      Answered ((c.advance s).touch c.w.part x true) 5 [.s o.d.toNat] [⟨.s o.d.toNat, 0, s.dword x.pa⟩] s u c ∧
      ∀ l ∈ u.msys.l1, l.core ≠ c.w.core) ∧
    ((futEmpty (s.dword x.pa) ∨ futWaiting (s.dword x.pa)) → c.p.handler = false → ∃ u, exec (.futAwait o) s = .next u ∧
      WaitsFor ((c.advance s).touch c.w.part x true) (some 5) (.futAwait x.pa (.s o.d.toNat)) [.s o.d.toNat] s u c))

/-- LDF, STF and ATOMF access one word of the frame that display register k names, 256 bytes behind its base, on c5; a
level deeper than the wave's own or not linked, or a word outside the frame, raises FRAME_LEVEL with the offset. MOVD reads a display
register. -/
def FrameWordsReachTheDisplayedFrame : Prop :=
  (∀ o g s c xl F h off a, F = sget c.w.dsp o.level.toNat → off = (match o.lit with | some l => l.toNat | none => 8 * o.off.toNat) →
    o.level.toNat ≤ c.w.level → F ≠ 0 → (s.frameGrid c.w.part F.toNat).bind (aget s.grids) = some h → off + 8 ≤ h.kern.frame →
    a = F + BitVec.ofNat 64 (256 + off) →
    (AtWord (.ldf o) g s c → Clear (.ldf o) g c → allPass s c 8 .load true (fun _ => false) (c.lanes.map fun l => (l, a)) xl →
      ∃ u q l1, exec (.ldf o) s = .next u ∧ Issued (leafBytes ((accs (c.lanes.map fun l => (l, a)) xl).map LaneAcc.xl)) 5 s u c ∧
        u.newOp c.w.id = some q ∧ q.ctr = some 5 ∧ q.owes = [.v o.d.toNat] ∧ q.kind = .load false 8 [.v o.d.toNat] l1
          ((accs (c.lanes.map fun l => (l, a)) xl).map fun e => piecesOf e 8).flatten) ∧
    (AtWord (.stf o) g s c → Clear (.stf o) g c → allPass s c 8 .store true (fun _ => false) (c.lanes.map fun l => (l, a)) xl →
      ∃ u w, exec (.stf o) s = .next u ∧ Issued (leafBytes ((accs (c.lanes.map fun l => (l, a)) xl).map LaneAcc.xl)) 5 s u c ∧
        aget u.waves c.w.id = some w ∧ w.queue = c.w.queue ++ entriesOf s.nextId false ((accs (c.lanes.map fun l => (l, a)) xl).map fun e =>
          storeEntries e (bytesOf 8 (c.v e.lane o.d).toNat)).flatten) ∧
    (AtWord (.atomf o) g s c → Clear (.atomf o) g c → c.w.strict = false →
      allPass s c 8 .atomic true (fun _ => false) (c.lanes.map fun l => (l, a)) xl →
      ∃ u q, exec (.atomf o) s = .next u ∧ Issued (leafBytes ((accs (c.lanes.map fun l => (l, a)) xl).map LaneAcc.xl)) 5 s u c ∧
        u.newOp c.w.id = some q ∧ q.ctr = some 5 ∧ q.owes = [.v o.d.toNat] ∧ q.kind = .atomic .addHalves 8 (.v o.d.toNat)
          (c.lanes.map fun l => ⟨l, placeOf (xl l) 0, c.v l o.d, 0⟩))) ∧
  (∀ i o g s c off, (i = .ldf o ∨ i = .stf o ∨ i = .atomf o ∧ c.w.strict = false) → AtWord i g s c → Clear i g c →
    off = (match o.lit with | some l => l.toNat | none => 8 * o.off.toNat) →
    (c.w.level < o.level.toNat ∨ sget c.w.dsp o.level.toNat = 0 ∨
      (∀ h, (s.frameGrid c.w.part (sget c.w.dsp o.level.toNat).toNat).bind (aget s.grids) = some h → h.kern.frame < off + 8)) →
    Raises i g s c 0x21 c.act (BitVec.ofNat 64 off)) ∧
  ∀ o g s c, AtWord (.movd o) g s c → Clear (.movd o) g c → ∃ u, exec (.movd o) s = .next u ∧
    UniDone o.d.toNat (fun x => x = sget c.w.dsp o.b.toNat) s u c

/-- NLAUNCH in its three forms launches the grid its descriptor asks for and answers the base of its frame: the new grid
has the descriptor's kernel, shape and arguments, the launcher as its parent unless it is detached, and a frame that the
parent's chain has been charged with. A malformed descriptor raises FRAME_LEVEL, a launch over a limit FRAME_EXHAUST,
with the descriptor's address in taddr (log entry 17). The path waits until the answer is written; a launch is a release at
.dev. -/
def NestedLaunchesStartAGrid : Prop := ∀ i f o g s c x d s1 k s2 pg,
  (i = .nlaunch o ∧ f = NForm.plain ∨ i = .nlaunchSeq o ∧ f = NForm.seq ∨ i = .nlaunchDet o ∧ f = NForm.det) →
  AtWord i g s c → Clear i g c → (¬ releases s c → exec i s = .next s) ∧ (releases s c →
  (c.advance s).checkObj c (c.s o.a) 64 64 = .ok x →
  (c.advance s).readDwords c.w.part c.w.die (c.s o.a) 8 .atomic = .ok (d, s1) → aget s.grids c.w.grid = some pg →
  (descBad d = true → Raises i g s c 0x21 c.act (c.s o.a)) ∧
  (descBad d = false → s1.readKernel c.w.part c.w.die (bitsOf (dw d 0) 51 6 * 64) .atomic = .ok (k, s2) →
    (∀ F s3, s2.launchChild (childGrid s2 c.w pg d k f) = some (F, s3) → ∃ u h, exec i s = .next u ∧
      AnsweredWaiting (s3.publish c.w.id c.act) 5 [.s o.d.toNat] [⟨.s o.d.toNat, 0, BitVec.ofNat 64 F⟩] s u c ∧ aget u.grids s2.nextId = some h ∧ h.frame = F ∧
      h.kern = k ∧ h.gx = (dw d 1).toNat / 2 ^ 32 ∧ h.gy = (dw d 1).toNat / 2 ^ 16 % 2 ^ 16 ∧ h.gz = (dw d 1).toNat % 2 ^ 16 ∧
      h.args = dw d 2 ∧ h.launcher = some pg.id ∧ h.parent = (if f = .det then none else some pg.id) ∧
      h.detach = decide (f = .det) ∧ h.st = .queued) ∧
    (s2.launchChild (childGrid s2 c.w pg d k f) = none → Raises i g s c 0x22 c.act (c.s o.a))))

/-- CONT.SAVE, its checks passed, saves the wave's lanes in the record, links it to its futures and answers 1 when it
waits for one, or is in strict mode, and 0 when it is ready at once; CONT.WAKE queues a record that is ready and was never
queued and answers 1, and otherwise answers 0. -/
def ContinuationsAreSavedAndWoken : Prop :=
  (∀ o g s c x d s1 a pc s2 made settled, AtWord (.contSave o) g s c → Clear (.contSave o) g c → releases s c →
    a = (c.s o.a).toNat → pc = (c.s o.b).toNat → (c.advance s).checkObj c (c.s o.a) 256 256 = .ok x →
    (c.advance s).readDwords c.w.part c.w.die (c.s o.a) 6 .atomic = .ok (d, s1) → a < 2 ^ 46 → recBad d = false →
    recFirst d + recCount d ≤ c.w.vregs → pc % 4 = 0 → (∀ e ∈ recFuts d, e.2.toNat % 8 = 0) → s1.checkFuts c (recFuts d) = none →
    s1.locked c.w.core false a (256 + recCount d * c.w.width * 8) = false →
    (∃ l, s1.translateAll c.w.part (c.s o.a) (256 + recCount d * c.w.width * 8) .atomic = .ok l) →
    ((c.forgets s1 (a :: (recFuts d).map fun e => e.2.toNat)).writeRec c a pc (recFuts d).length (recFirst d) (recCount d)).linkAll c.w.part c.w.die a (recFuts d) 0 0 = (s2, made, settled, none) →
    ∃ u, exec (.contSave o) s = .next u ∧
      Answered ((s2.dropGuard c a pc ((recFuts d).length - settled)).1.publish c.w.id c.act) 5 [.s o.d.toNat] [⟨.s o.d.toNat, 0,
        if (recFuts d).length - settled ≠ 0 ∨ c.w.strict = true then 1 else 0⟩] s u c) ∧
  ∀ o g s c x, AtWord (.contWake o) g s c → Clear (.contWake o) g c → (c.advance s).checkObj c (c.s o.a) 8 256 = .ok x →
    (c.s o.a).toNat < 2 ^ 46 → nonePending s c (c.s o.a) 8 → s.poisoned (.glob x.pa) 8 = false →
    ((s.dword x.pa).toNat / 2 ^ 62 = 3 → ∃ u, exec (.contWake o) s = .next u ∧
      Answered (((c.advance s).touch c.w.part x true).setDword x.pa (BitVec.ofNat 64 (2 * 2 ^ 62 +
        (s.dword x.pa).toNat / 2 ^ 59 % 8 * 2 ^ 59 + (s.dword x.pa).toNat % 2 ^ 52))) 5 [.s o.d.toNat] [⟨.s o.d.toNat, 0, 1⟩] s u c ∧
      ∀ v, aget (s.part c.w.part).saves (c.s o.a).toNat = some v →
        (u.part c.w.part).ready = (s.part c.w.part).ready ++ [((c.s o.a).toNat, v.grid)]) ∧
    ((s.dword x.pa).toNat / 2 ^ 62 ≠ 3 → ∃ u, exec (.contWake o) s = .next u ∧
      Answered ((c.advance s).touch c.w.part x true) 5 [.s o.d.toNat] [⟨.s o.d.toNat, 0, 0⟩] s u c)

/-! ## Matrix and Awl words of waves -/

/-- MX.ZERO, MX.LOADACC, MX.STACC and MX.ISSUE enter the engine's queue when it has room and their checks pass: the
operation stands last, with the next ticket; MX.ISSUE answers the ticket, which its path waits for. While the queue is
full the word waits, and MX.ISSUE until its wave has drained. -/
def MatrixWordsEnterTheQueue : Prop :=
  (∀ i o (kind : MxKind) g (s : State) (c : WCtx) b, (i = .mxZero o ∧ kind = .zero o.b.toNat ∨
      (i = .mxLoadacc o ∧ kind = .loadacc o.d.toNat (c.s o.a).toNat ∨ i = .mxStacc o ∧ kind = .stacc o.d.toNat (c.s o.a).toNat) ∧
        (c.s o.a).toNat % 4 = 0 ∧ (c.w.lreg 143).toNat ≤ (c.s o.a).toNat ∧ (c.s o.a).toNat + 16384 ≤ (c.w.lreg 143).toNat + b.size) →
    AtWord i g s c → Clear i g c → aget s.blocks c.w.block = some b →
    ((s.core c.w.core).mx.ops.length < 16 → ∃ (u : State) (q : MxOp), exec i s = .next u ∧ Answered s 3 [] [] s u c ∧
      (u.core c.w.core).mx.ops = (s.core c.w.core).mx.ops ++ [q] ∧ q.kind = kind ∧ q.ticket = (s.core c.w.core).mx.accepted + 1 ∧
      (u.core c.w.core).mx.accepted = q.ticket ∧ (u.core c.w.core).mx.acc = (s.core c.w.core).mx.acc) ∧
    (16 ≤ (s.core c.w.core).mx.ops.length → exec i s = .next s)) ∧
  (∀ o g (s : State) (c : WCtx), AtWord (.mxIssue o) g s c → Clear (.mxIssue o) g c → c.w.drained = false →
    exec (.mxIssue o) s = .next s) ∧
  ∀ o g (s : State) (c : WCtx) b (s1 : State) d dA dB, AtWord (.mxIssue o) g s c → Clear (.mxIssue o) g c → aget s.blocks c.w.block = some b → c.w.drained = true →
    dA = (c.s o.b).toNat % 2 ^ 20 → dB = (c.s o.b).toNat / 2 ^ 20 % 2 ^ 20 →
    (∀ f, c.mxBlock (c.advance s) b (c.s o.a) f = f s1 d) →
    (mxParamBad d dA dB = true → Raises (.mxIssue o) g s c 0x30 c.act (c.s o.a)) ∧
    (mxParamBad d dA dB = false → (∀ f, c.mxRingCheck s1 d f = f) → (mxA d).addr + dA < 2 ^ 20 → (mxB d).addr + dB < 2 ^ 20 →
      (mxA (mxDelta d dA dB)).outside (mxK d) b.cores.length (c.w.lreg 143).toNat b.size = false →
      (mxB (mxDelta d dA dB)).outside (mxK d) b.cores.length (c.w.lreg 143).toNat b.size = false →
      (s1.core c.w.core).mx.ops.length < 16 → s1.waves = (c.advance s).waves → s1.time = s.time →
      ∃ (u : State) (q : MxOp), exec (.mxIssue o) s = .next u ∧ AnsweredWaiting (s1.publish c.w.id c.act) 3 [.s o.d.toNat]
        [⟨.s o.d.toNat, 0, BitVec.ofNat 64 q.ticket⟩] s u c ∧
        (u.core c.w.core).mx.ops = (s1.core c.w.core).mx.ops ++ [q] ∧ q.ticket = (s1.core c.w.core).mx.accepted + 1 ∧
        q.kind = .mul (mxDelta d dA dB) ((c.s o.b).toNat / 2 ^ 40) ∧ q.step = 1 ∧ q.chunk = 0 ∧ q.block = c.w.block)

/-- MX.POP takes the oldest row of the pop queue, columns 2l and 2l + 1 to lane l, and waits while there is none; without
a matrix-role wave of its block on the core it raises MX_PARAM. MX.FENCE and MX.WAIT wait until the ticket has completed.
MX.STAT answers the engine's state. -/
def MatrixResultsAreTaken : Prop :=
  (∀ o g s c, AtWord (.mxPop o) g s c → Clear (.mxPop o) g c →
    ((∃ x ∈ s.wavesOf c.w.block, x.core = c.w.core ∧ x.role = 2 ∧ x.live ≠ 0) →
      (∀ t i rest, (s.core c.w.core).mx.pops = (t, i) :: rest → ∃ u, exec (.mxPop o) s = .next u ∧
        Answered s 3 [.v o.d.toNat] (c.lanes.map fun l => ⟨.v o.d.toNat, l, BitVec.ofNat 64
          ((sget (s.core c.w.core).mx.acc (t * 4096 + i * 64 + 2 * (l % 32))).toNat +
           (sget (s.core c.w.core).mx.acc (t * 4096 + i * 64 + (2 * (l % 32) + 1))).toNat * 2 ^ 32)⟩) s u c ∧
        (u.core c.w.core).mx.pops = rest) ∧
      ((s.core c.w.core).mx.pops = [] → c.p.handler = false → ∃ u, exec (.mxPop o) s = .next u ∧
        WaitsFor s (some 3) (.pop c.w.core (.v o.d.toNat)) [.v o.d.toNat] s u c)) ∧
    ((∀ x ∈ s.wavesOf c.w.block, ¬ (x.core = c.w.core ∧ x.role = 2 ∧ x.live ≠ 0)) →
      Raises (.mxPop o) g s c 0x30 c.act 0)) ∧
  (∀ i n g s c, (∃ o, i = .mxFence o ∧ n = (s.core c.w.core).mx.accepted ∨
      i = .mxWait o ∧ n = (c.s o.a).toNat ∧ n ≤ (s.core c.w.core).mx.accepted) → AtWord i g s c → Clear i g c →
    (n ≤ (s.core c.w.core).mx.completed → ∃ u w, exec i s = .next u ∧ aget u.waves c.w.id = some w ∧
      w.path c.p.id = some c.advanced ∧ (∀ r l, w.reg r l = c.w.reg r l) ∧ (∀ a, sget u.mem a = sget s.mem a) ∧
      ∀ l ∈ u.msys.l1, l.core ≠ c.w.core) ∧
    ((s.core c.w.core).mx.completed < n → ∃ u, exec i s = .next u ∧ WaitsFor s none (.ticket c.w.core n) [] s u c)) ∧
  ∀ o g s c, AtWord (.mxStat o) g s c → Clear (.mxStat o) g c → ∃ u x, exec (.mxStat o) s = .next u ∧
    Answered s 3 [.s o.d.toNat] [⟨.s o.d.toNat, 0, x⟩] s u c ∧
    (o.b.toNat = 1 → x = BitVec.ofNat 64 (s.core c.w.core).mx.completed) ∧
    (o.b.toNat = 2 → x = BitVec.ofNat 64 (s.core c.w.core).mx.accepted) ∧
    (o.b.toNat = 3 → x = BitVec.ofNat 64 (s.core c.w.core).mx.pops.length) ∧
    (o.b.toNat = 0 → (s.core c.w.core).mx.ops.length ≤ 31 → (s.core c.w.core).mx.pops.length < 2 ^ 10 →
      ((s.core c.w.core).mx.ops.head?.map MxOp.tile).getD (s.core c.w.core).mx.last < 2 ^ 46 →
      x.toNat / 2 ^ 56 % 32 = (s.core c.w.core).mx.ops.length ∧ x.toNat / 2 ^ 46 % 2 ^ 10 = (s.core c.w.core).mx.pops.length ∧
      ((s.core c.w.core).mx.parked.isSome → x.toNat / 2 ^ 61 = 2) ∧
      ((s.core c.w.core).mx.parked = none → (s.core c.w.core).mx.frozen = true → x.toNat / 2 ^ 61 = 3))

/-- MX.FREEZE, MX.THAW, MX.DRAIN and MX.RESTORE are legal only in handler mode, and raise MX_PARAM outside it. FREEZE
freezes the engine and THAW lets it run; DRAIN freezes it, keeps its operations and pop rows and writes its image, and its path
waits while its die's ports hold any of it; RESTORE gives a frozen engine an image's tiles, tickets and what was kept with it, and does nothing to one that is not frozen. -/
def MatrixEnginesAreDrainedInHandlers : Prop :=
  (∀ i o g s c, (i = .mxFreeze o ∨ i = .mxThaw o ∨ i = .mxDrain o ∨ i = .mxRestore o) → AtWord i g s c → Clear i g c →
    c.p.handler = false → Raises i g s c 0x30 c.act 0) ∧
  (∀ i fr o g s c, (i = .mxFreeze o ∧ fr = true ∨ i = .mxThaw o ∧ fr = false) → AtWord i g s c → Clear i g c → c.p.handler = true →
    ∃ u w, exec i s = .next u ∧ Moves (fun _ => False) s u c w ∧ w.path c.p.id = some c.advanced ∧
      (u.core c.w.core).mx = { (s.core c.w.core).mx with frozen := fr }) ∧
  (∀ o g s c pages, AtWord (.mxDrain o) g s c → Clear (.mxDrain o) g c → c.p.handler = true →
    (∀ f, c.image (c.advance s) (c.s o.a) .store aWrite f = f pages) →
    ∃ u n, exec (.mxDrain o) s = .next u ∧ (u.core c.w.core).mx = { (s.core c.w.core).mx with frozen := true } ∧
      (n, { (s.core c.w.core).mx with frozen := true }) ∈ (u.part c.w.part).imageMx ∧
      (∀ a, sget u.mem a = sget ((pages.foldl (fun (s : State) e => s.touch c.w.part e.1 true) (c.advance s)).writeRuns ⟨c.w.die, c.w.part, c.w.grid⟩
        (pages.map fun e => (.glob e.1.pa, e.2)) ({ (s.core c.w.core).mx with frozen := true }.image n)).mem a) ∧
      (∀ r l, r.exists_ = true → u.regIn c.w.id r l = s.regIn c.w.id r l) ∧
      ∃ w, aget u.waves c.w.id = some w ∧
        ((∀ e ∈ pages, portMem e.1.pa = false) → w.path c.p.id = some c.advanced) ∧
        ((∃ e ∈ pages, portMem e.1.pa = true) → ∃ q, u.newOp c.w.id = some q ∧ q.kind = .ports c.w.die ∧
          w.path c.p.id = some { c.advanced with st := .op q.id })) ∧
  ∀ o g s c pages bs, AtWord (.mxRestore o) g s c → Clear (.mxRestore o) g c → c.p.handler = true →
    (∀ f, c.image (c.advance s) (c.s o.a) .load aRead f = f pages) → (∀ e ∈ pages, s.poisoned (.glob e.1.pa) e.2 = false) →
    bs = s.readRuns c.w.die (pages.map fun e => (.glob e.1.pa, e.2)) →
    ((s.core c.w.core).mx.frozen = false → ∃ u, exec (.mxRestore o) s = .next u ∧ OnlyRegs (fun _ _ => False) s u c) ∧
    ((s.core c.w.core).mx.frozen = true → headerBad ((dwordsOf (bs.drop 131072)).take 8) = false →
      ∃ u, exec (.mxRestore o) s = .next u ∧ (u.core c.w.core).mx.frozen = true ∧
        (u.core c.w.core).mx.owner = (s.core c.w.core).mx.owner ∧
        (u.core c.w.core).mx.accepted = (dw (dwordsOf (bs.drop 131072)) 1).toNat ∧
        (u.core c.w.core).mx.completed = (dw (dwordsOf (bs.drop 131072)) 2).toNat ∧
        (∀ n, n < 32768 → sget (u.core c.w.core).mx.acc n = BitVec.ofNat 32 (ofBytes ((bs.drop (4 * n)).take 4))) ∧
        ∀ r l, r.exists_ = true → u.regIn c.w.id r l = s.regIn c.w.id r l)

/-- AWL.GO, once the wave has drained, offers its chain to a channel of its cluster: a free channel takes it, bound to the
wave's block and partition, and 0 is answered; a busy one keeps what it does and 1 is answered. AWL.STAT answers an item of
a channel, 0 when it works for another partition; AWL.STOP asks a chain of the wave's own grid to end after its record. -/
def AwlWordsStartAndWatchChannels : Prop := ∀ o g s c k, k = c.w.cluster * 8 + o.b.toNat →
  (AtWord (.awlGo o) g s c → Clear (.awlGo o) g c → (c.s o.a).toNat < 2 ^ 52 → (c.s o.a).toNat % 64 = 0 →
    (c.w.drained = false → exec (.awlGo o) s = .next s) ∧
    (∀ b, c.w.drained = true → aget s.blocks c.w.block = some b →
      (((s.chan k).st = .idle ∨ (s.chan k).st = .faulted ∨ (s.chan k).st = .stopped) → ∃ u, exec (.awlGo o) s = .next u ∧
        Answered ((c.advance s).publish c.w.id c.act) 4 [.s o.d.toNat] [⟨.s o.d.toNat, 0, 0⟩] s u c ∧ (u.chan k).st = .running ∧ (u.chan k).ph = .start ∧
        (u.chan k).nextRec = (c.s o.a).toNat ∧ (u.chan k).grid = c.w.grid ∧ (u.chan k).block = c.w.block ∧
        (u.chan k).part = c.w.part ∧ (u.chan k).core = c.w.core ∧ (u.chan k).done = 0) ∧
      (¬ ((s.chan k).st = .idle ∨ (s.chan k).st = .faulted ∨ (s.chan k).st = .stopped) → ∃ u, exec (.awlGo o) s = .next u ∧
        Answered ((c.advance s).publish c.w.id c.act) 4 [.s o.d.toNat] [⟨.s o.d.toNat, 0, 1⟩] s u c ∧ u.chans = s.chans))) ∧
  (AtWord (.awlStat o) g s c → Clear (.awlStat o) g c → ∃ u x, exec (.awlStat o) s = .next u ∧
    Answered s 4 [.s o.d.toNat] [⟨.s o.d.toNat, 0, x⟩] s u c ∧ ((s.chan k).part ≠ c.w.part → x = 0) ∧
    ((s.chan k).part = c.w.part → x = if o.a.toNat = 0 then (s.chan k).status
      else if o.a.toNat = 1 then BitVec.ofNat 64 (s.chan k).fpc else (s.chan k).faddr)) ∧
  (AtWord (.awlStop o) g s c → Clear (.awlStop o) g c → ∃ u, exec (.awlStop o) s = .next u ∧ Answered s 4 [] [] s u c ∧
    u.chan k = { s.chan k with stop := (s.chan k).stop || ((s.chan k).busy && decide ((s.chan k).grid = c.w.grid)) } ∧
    ∀ j, j ≠ k → u.chan j = s.chan j)

/-! ## Awl engine words -/

/-- The integer words of an engine write one x register with the result R281 gives, and nothing else; A.NOP writes none,
nor does A.WAIT, which waits in state 2 while its die's ports hold writes; A.ARG reads the record's arguments and its wave's place,
and raises AWL_ILLEGAL for another number. -/
def EngineIntegerWordsCompute : Prop :=
  (∀ i o r s e, engRule i = some (o, r) → AtEng s e → ∃ u y, exec i s = .next u ∧ r (e.x o.a) (xB e o) y ∧
    EngOnly { engNext e with x := sset e.ch.x o.d.toNat y } s u e) ∧
  (∀ s e, AtEng s e → (∀ o, ∃ u, exec (.aNop o) s = .next u ∧ EngOnly (engNext e) s u e) ∧
    ∀ o, ((∀ p ∈ s.msys.ports, p.die ≠ e.die) → ∃ u, exec (.aWait o) s = .next u ∧ EngOnly (engNext e) s u e) ∧
      ((∃ p ∈ s.msys.ports, p.die = e.die) → ∃ u, exec (.aWait o) s = .next u ∧ EngOnly { e.ch with st := .waiting } s u e)) ∧
  ∀ o s e, AtEng s e →
    (∀ y, (o.b.toNat ≤ 5 → y = (dw e.ch.dwords (2 + o.b.toNat / 2)).toNat / 2 ^ (32 * (o.b.toNat % 2)) % 2 ^ 32) →
        (o.b.toNat = 6 → y = e.ch.recd) → (o.b.toNat = 7 → y = e.ch.base) → (o.b.toNat = 8 → y = e.ch.size) →
        (o.b.toNat = 9 → y = e.ch.core) → o.b.toNat ≤ 9 → ∃ u, exec (.aArg o) s = .next u ∧
        EngOnly { engNext e with x := sset e.ch.x o.d.toNat (BitVec.ofNat 64 y) } s u e) ∧
    (∀ y, 16 ≤ o.b.toNat → o.b.toNat ≤ 21 →
      y = toI true 32 ((dw e.ch.dwords (2 + (o.b.toNat - 16) / 2)).toNat / 2 ^ (32 * (o.b.toNat % 2)) % 2 ^ 32) →
      ∃ u, exec (.aArg o) s = .next u ∧ EngOnly { engNext e with x := sset e.ch.x o.d.toNat (BitVec.ofInt 64 y) } s u e) ∧
    ((9 < o.b.toNat ∧ o.b.toNat < 16 ∨ 21 < o.b.toNat) → exec (.aArg o) s = .next (s.chanFault e.c 0x42 e.addr 0))

/-- An engine's branch sends its channel to H + 4 × offset when taken and, standing last in its clause, to the next header when
not; A.LOOP counts x[a] up, taken or not, and goes back while it is below x[b], which it never is when both are one register;
their six encodings, with every operand, legal only as a clause's last word, and the words the rule writes out. -/
def EngineBranches : Prop :=
  (∀ i off taken s e, engBranch i = some (off, taken) → AtEng s e →
    (taken e → ∃ u, exec i s = .next u ∧ EngOnly (engGoto e off (engNext e)) s u e) ∧
    (¬ taken e → ∃ u, exec i s = .next u ∧ EngOnly (engNext e) s u e)) ∧
  (∀ o s e a k, AtEng s e → a = e.x (o.a.zeroExtend 7) + 1 → k = { engNext e with x := sset e.ch.x o.a.toNat a } →
    (a.toNat < (if o.a = o.b then a else e.x (o.b.zeroExtend 7)).toNat → ∃ u, exec (.aLoop o) s = .next u ∧
      EngOnly (engGoto e o.off.toInt k) s u e) ∧
    ((if o.a = o.b then a else e.x (o.b.zeroExtend 7)).toNat ≤ a.toNat → ∃ u, exec (.aLoop o) s = .next u ∧ EngOnly k s u e)) ∧
  (∀ e, (e.hword.extractLsb 31 28).toNat < e.next → (engNext e).hdr = e.hdr + 4 * ((e.hword.extractLsb 31 28).toNat + 1) ∧
    (engNext e).idx = 0 ∧ (engNext e).clause = none) ∧
  (∀ (st : BitVec 2) (x : BitVec 21) (a b : BitVec 5) (y : BitVec 11) (w : BitVec 32) i,
    (w = st ++ 0x1C0#9 ++ x ∧ i = .aB ⟨st, x⟩ ∨ w = st ++ 0x1C1#9 ++ a ++ b ++ y ∧ i = .aBeq ⟨st, a, b, y⟩ ∨
      w = st ++ 0x1C2#9 ++ a ++ b ++ y ∧ i = .aBne ⟨st, a, b, y⟩ ∨ w = st ++ 0x1C3#9 ++ a ++ b ++ y ∧ i = .aBlt ⟨st, a, b, y⟩ ∨
      w = st ++ 0x1C4#9 ++ a ++ b ++ y ∧ i = .aBge ⟨st, a, b, y⟩ ∨ w = st ++ 0x1C5#9 ++ a ++ b ++ y ∧ i = .aLoop ⟨st, a, b, y⟩) →
    decode (.engine true) ⟨none, w, none⟩ = .ok i ∧ decode (.engine false) ⟨none, w, none⟩ = .error .clauseFormat) ∧
  decode (.engine true) ⟨none, 0x38000005, none⟩ = .ok (.aB ⟨0, 5⟩) ∧
  decode (.engine true) ⟨none, 0x38A117FD, none⟩ = .ok (.aLoop ⟨0, 1, 2, -3⟩)

/-- A.HALT ends the program, its record then completing; A.TRAP faults the channel with TRAP_SW. -/
def EngineHaltAndTrap : Prop :=
  (∀ o s e, AtEng s e → ∃ u, exec (.aHalt o) s = .next u ∧ EngOnly { engNext e with ph := .finish } s u e) ∧
  ∀ o s e, AtEng s e → exec (.aTrap o) s = .next (s.chanFault e.c 0x60 e.addr (o.imm.zeroExtend 64))

/-- A channel fault ends its chain in state 4 with the code, the fault's place and address, and without its locks: the
record's future takes the code when its action is 3, and otherwise the grid faults with it. -/
def ChannelFaultsEndTheChain : Prop := ∀ (s : State) c code fpc addr, code ≠ 0x14 →
  (bitsOf (dw (s.chan c).dwords 0) 62 60 ≠ 3 → ∃ s1 : State, s.chanFault c code fpc addr = s1.endGrid (s.chan c).grid code (BitVec.ofNat 64 (s.chan c).bidx) ∧
    s1.chan c = { s.chan c with st := .faulted, code := code, fpc := fpc, faddr := addr, mc := none, halt := .none, stop := false } ∧
    (∀ k ∈ s1.msys.locks, k.owner ≠ c) ∧ (∀ a, sget s1.mem a = sget s.mem a)) ∧
  (bitsOf (dw (s.chan c).dwords 0) 62 60 = 3 → (s.chan c).ph = .run → code ≠ 0x23 → ∀ x,
    s.futXlat (s.chan c).part (BitVec.ofNat 64 (bitsOf (dw (s.chan c).dwords 7) 51 0)) = .ok x → s.poisoned (.glob x.pa) 8 = false → futEmpty (s.dword x.pa) →
    ((s.chanFault c code fpc addr).chan c).st = .faulted ∧ ((s.chanFault c code fpc addr).chan c).code = code ∧
    (s.chanFault c code fpc addr).dword x.pa =
      BitVec.ofNat 64 (3 * 2 ^ 62 + (code + (s.chan c).bidx % 2 ^ 64 % 2 ^ 32 * 2 ^ 8) % 2 ^ 40))

/-- The tensor-descriptor words write one descriptor as R286 and R287 say, and nothing else; a reserved code in TD.DIM
raises AWL_ILLEGAL, a coordinate that leaves 32 signed bits AWL_ADDR_OVF. -/
def TensorDescriptorWords : Prop := ∀ i o f s e, tdRule i = some (o, f) → AtEng s e →
  (∀ t, f e o (tdOf (sget e.ch.td o.d.toNat)) = some t → ∃ u, exec i s = .next u ∧
    EngOnly { engNext e with td := sset e.ch.td o.d.toNat (t.dims ++ t.coord ++ t.stride ++ t.base : BitVec 256) } s u e) ∧
  (f e o (tdOf (sget e.ch.td o.d.toNat)) = none → (i = .tdDim o → exec i s = .next (s.chanFault e.c 0x42 e.addr 0)) ∧
    (i = .tdStep o → exec i s = .next (s.chanFault e.c 0x40 e.addr 0)) ∧ (i = .tdDim o ∨ i = .tdStep o))

/-- A.LDX loads from an Awl address, and MV.BYTES, MV.TILE, MV.TILET and MV.REBLK move their bytes and elements, once
every access of the word has passed the checks of R280: all reads come before the first write, pads are zeros, and the
bytes written are counted. -/
def EngineMovesReadThenWrite : Prop :=
  (∀ t o s e runs s1, AtEng s e → (e.advance s).engineX e.ch [⟨.reg, (e.x o.a).toInt + (match o.lit with
      | some l => l.toInt
      | none => (e.x o.b).toInt * t.bytes), t.bytes, .load, 1⟩] = .ok (runs, s1) →
    ∃ u, exec (.aLdx t o) s = .next u ∧ (∀ a, sget u.mem a = sget s1.mem a) ∧ (∀ a, sget u.scr a = sget s.scr a) ∧
      u.chan e.c = { engNext e with x := sset e.ch.x o.d.toNat (BitVec.ofNat 64 (ofBytes (s1.readRuns e.die runs.flatten))) }) ∧
  (∀ o s e src dst s1, AtEng s e → (e.x o.b).toNat ≤ 2 ^ 32 → (e.x o.a).toInt + (e.x o.b).toNat < 2 ^ 63 →
    (e.x o.d).toInt + (e.x o.b).toNat < 2 ^ 63 →
    (e.advance s).engineX e.ch [⟨.reg, (e.x o.a).toInt, (e.x o.b).toNat, .load, 1⟩, ⟨.reg, (e.x o.d).toInt, (e.x o.b).toNat, .store, 1⟩] =
      .ok ([src, dst], s1) →
    ∃ u, exec (.mvBytes o) s = .next u ∧ (∀ a, sget u.mem a = sget (s1.writeRuns e.ch.writer dst (s1.readRuns e.die src)).mem a) ∧
      (∀ a, sget u.scr a = sget (s1.writeRuns e.ch.writer dst (s1.readRuns e.die src)).scr a) ∧
      u.chan e.c = { engNext e with bytes := e.ch.bytes + (e.x o.b).toNat }) ∧
  ∀ i o f s e runs s1 l, elemMoves i = some (o, f) → AtEng s e → moveOk i e o → l = f e o →
    (e.advance s).engineX e.ch
      ((l.map fun m => (⟨(e.td o.a).space, m.1.getD 0, if m.1.isSome then (e.td o.a).esize else 0, .load, 1⟩ : AAcc)) ++
       l.map fun m => (⟨(e.td o.d).space, m.2.getD 0, if m.2.isSome then (e.td o.a).esize else 0, .store, 1⟩ : AAcc)) = .ok (runs, s1) →
    ∃ u s2, exec i s = .next u ∧ s2 = (((runs.drop l.length).zip ((runs.take l.length).map fun r =>
        if r.isEmpty then List.replicate (e.td o.a).esize 0 else s1.readRuns e.die r)).foldl
          (fun (s : State) (w : List (Loc × Nat) × List Byte) => s.writeRuns e.ch.writer w.1 w.2) s1) ∧
      (∀ a, sget u.mem a = sget s2.mem a) ∧ (∀ a, sget u.scr a = sget s2.scr a) ∧
      u.chan e.c = { engNext e with bytes := e.ch.bytes + (e.td o.a).esize * (l.filter fun m => m.2.isSome).length }

/-- What an MV.MC that a binding stands for comes to, where `run P` says that a run ends in a state of which `P` holds: with a
receiver that has no credit left the channel waits at its word; otherwise a slot and a credit of every receiver are taken, the
source's bytes written to every slot, and each posted, in ascending order of receivers. -/
def multicasts (o : OpsG) (s : State) (e : ECtx) (run : (State → Prop) → Prop) : Prop := ∀ m, e.ch.mc = some m → m.desc = (e.x o.d).toNat →
  ordersBad e.ch [⟨.glob, (e.x o.d).toInt, 64, .load, 64⟩, ⟨.reg, (e.x o.a).toInt, (e.x o.b).toNat, .load, 1⟩] = none →
  (e.x o.d).toNat % 64 = 0 → (∀ r ∈ groupRings m.dwords, (e.x o.b).toNat ≤ 2 ^ r.2.lsize) →
  ((∃ r ∈ groupRings m.dwords, m.credits.getD r.1 0 = 0) → run fun u => EngOnly { e.ch with st := .waiting } s u e) ∧
  (∀ slots runs s1 s2, (∀ r ∈ groupRings m.dwords, m.credits.getD r.1 0 ≠ 0) →
    (e.advance s).nextSlots e.ch.part (groupRings m.dwords) = .ok slots →
    (e.advance s).engineX e.ch (⟨.reg, (e.x o.a).toInt, (e.x o.b).toNat, .load, 1⟩ ::
      slots.map fun r => ⟨.glob, r.1.slotAddr r.2, (e.x o.b).toNat, .store, 1⟩) = .ok (runs, s1) →
    e.postAll (((runs.drop 1).foldl (fun (s : State) r => s.writeRuns e.ch.writer r (s1.readRuns e.die (runs.headD [])))
      (s1.claimAll e m (groupRings m.dwords))).countBytes e ((e.x o.b).toNat * (groupRings m.dwords).length)) slots = .ok s2 →
    run fun u => (∀ a, sget u.mem a = sget s2.mem a) ∧ (∀ a, sget u.scr a = sget s2.scr a) ∧ u.chan e.c = s2.chan e.c)

/-- MV.MC under a binding that stands: while a receiver has no credit left the channel waits at its word, with nothing
written; otherwise it takes a slot and a credit of every receiver, writes the source's bytes to every slot and posts each,
in ascending order of receivers. -/
def MulticastWritesEverySlot : Prop := ∀ o s e, AtEng s e →
  multicasts o s e fun P => ∃ u, exec (.mvMc o) s = .next u ∧ P u

/-- A.POST, A.EXPECT, A.ARRIVE and A.RESOLVE act on a ring's slot, a counted barrier and a future as the waves' words do;
a release at .dev waits in state 2 while the die's ports hold writes. -/
def EngineObjectWords : Prop :=
  (∀ o s e r s1 x k b, AtEng s e → (e.advance s).ring e.ch.part e.die (BitVec.ofNat 64 e.ch.table)
      (match o.lit with | some l => l.toNat | none => o.b.toNat) false = .ok (r, s1) → s1.ringMem e.ch.part r = .ok x → k < r.slots →
    (e.x o.a).toNat = r.base + 512 + k * 2 ^ r.lsize → b = s1.slotByte x.pa k → b.toNat < 4 →
    s1.poisoned (.glob (x.pa + 64 + k)) 1 = false →
    (b.getLsbD 0 = false → r.dev = true → (∃ p ∈ s.msys.ports, p.die = e.die) → ∃ u, exec (.aPost o) s = .next u ∧
      EngOnly { e.ch with st := .waiting } s u e) ∧
    (b.getLsbD 0 = false → (r.dev = true → ∀ p ∈ s.msys.ports, p.die ≠ e.die) → ∃ u, exec (.aPost o) s = .next u ∧ u.chan e.c = engNext e ∧
      ∀ a, sget u.mem a = sget ((s1.touch e.ch.part x true).setBytes (.glob (x.pa + 64 + k))
        [BitVec.ofNat 8 (1 + if b.getLsbD 1 then 2 else 0)]).mem a) ∧
    (b.getLsbD 0 = true → exec (.aPost o) s = .next (s.chanFault e.c 0x50 e.addr r.ent))) ∧
  (∀ i o rem pend s e x d0 d1 n, (i = .aArrive o ∧ rem + 1 = barRem d0 ∧ pend = barPend d0 ∨
      i = .aExpect o ∧ n = (match o.lit with | some l => l.toNat | none => (e.x o.b).toNat) ∧ n < 2 ^ 35 ∧ rem = barRem d0 ∧
        pend = barPend d0 + n ∧ pend < 2 ^ 35) → AtEng s e →
    (e.advance s).objXlat e.ch.part (e.x o.a) .atomic = .ok x → (e.x o.a).toNat < 2 ^ 52 → (e.x o.a).toNat % 16 = 0 →
    d0 = s.dword x.pa → d1 = s.dword (x.pa + 8) → s.poisoned (.glob x.pa) 16 = false → d0.toNat / 2 ^ 60 % 8 = 0 → d1.toNat / 2 ^ 25 = 0 → barExp d1 ≠ 0 →
    ((∃ o, i = .aArrive o) → d1.getLsbD 24 = true → (∃ p ∈ s.msys.ports, p.die = e.die) → ∃ u, exec i s = .next u ∧
      EngOnly { e.ch with st := .waiting } s u e) ∧
    (((∃ o, i = .aArrive o) → d1.getLsbD 24 = true → ∀ p ∈ s.msys.ports, p.die ≠ e.die) → ∃ u, exec i s = .next u ∧
      (∀ a, sget u.mem a = sget (((e.advance s).touch e.ch.part x true).setDword x.pa (barNext d0 d1 rem pend)).mem a) ∧
      u.chan e.c = match i with
        | .aArrive _ => { engNext e with x := sset e.ch.x o.d.toNat (if barPhase d0 then 1 else 0) }
        | _ => engNext e)) ∧
  ∀ o s e x, AtEng s e → (e.advance s).futXlat e.ch.part (e.x o.a) = .ok x → (e.x o.a).toNat < 2 ^ 52 →
    s.poisoned (.glob x.pa) 8 = false →
    ((futEmpty (s.dword x.pa) ∨ futWaiting (s.dword x.pa)) → (∃ p ∈ s.msys.ports, p.die = e.die) → ∃ u, exec (.aResolve o) s = .next u ∧
      EngOnly { e.ch with st := .waiting } s u e) ∧
    ((futEmpty (s.dword x.pa) ∨ futWaiting (s.dword x.pa)) → (∀ p ∈ s.msys.ports, p.die ≠ e.die) → ∃ u, exec (.aResolve o) s = .next u ∧ u.chan e.c = engNext e ∧
      ∀ a, sget u.mem a = sget (((e.advance s).touch e.ch.part x true).setDword x.pa
        (BitVec.ofNat 64 (2 * 2 ^ 62 + (e.x o.b).toNat % 2 ^ 40))).mem a) ∧
    (futDone (s.dword x.pa) → exec (.aResolve o) s = .next (s.chanFault e.c 0x23 e.addr (e.x o.a)))

/-! ## Events: registers, power, time and accesses from outside -/

/-- The event with the operands `a` answers a next state of which `P` holds. -/
def Leaves (i : Instr) (a : EvArg) (s : State) (P : State → Prop) : Prop := s.cur = .event a → ∃ u, exec i s = .next u ∧ P u

/-- Reason `i` slows a die's clock: a step of 100 MHz down to 1.2 GHz, with the reason held and tripped (R413, R414). -/
def slowed (i : Nat) (m n : Monitor) : Prop := n.fstep = max 12 (m.fstep - 1) ∧
  (∀ j, n.reason.testBit j = (m.reason.testBit j || decide (j = i))) ∧
  (∀ j, n.trip.testBit j = (m.trip.testBit j || decide (j = i))) ∧ n.process = m.process ∧ n.cerr = m.cerr ∧ n.uaddr = m.uaddr

/-- Reason `i` ends; with none left the clock is whole again (the model's reading: log entry 24). -/
def eased (i : Nat) (m n : Monitor) : Prop := n.trip = m.trip ∧
  (∀ j, n.reason.testBit j = (m.reason.testBit j && decide (j ≠ i))) ∧ n.fstep = (if n.reason = 0 then 33 else m.fstep) ∧
  n.process = m.process ∧ n.cerr = m.cerr ∧ n.uaddr = m.uaddr

/-- Die `d`'s monitor is `n` now, and nothing else of the machine has changed. -/
def monNow (d : Nat) (n : Monitor) (s u : State) : Prop := u = { s with hw := { s.hw with mons := aset s.hw.mons d n } }

/-- POWER_CAP_WRITE clamps the cap to 1,200 to 4,800 W; POWER_CAP_STEP, THERMAL_WARNING (at 95 °C or more, and on at 93 °C or
more) and VOLTAGE_DROOP (more than 5 % below nominal) slow the die's clock by a step and hold and trip their reason;
THERMAL_WARNING_END (below 93 °C), DROOP_END (1 µs after the last droop, scaled with the clock) and power within the cap end
their reason. -/
def PowerAndMonitorEvents : Prop :=
  (∀ s x, Leaves .powerCapWrite (.word x) s fun u =>
    u = { s with hw := { s.hw with cap := if s.hw.ready then max 1200 (min 4800 (x.toNat % 2 ^ 16)) else s.hw.cap } }) ∧
  ∀ s d (m : Monitor), aget s.hw.mons d = some m →
    (∀ w, Leaves .powerCapStep (.die d w) s fun u => ∃ n : Monitor, monNow d n s u ∧ (s.hw.cap < w → slowed 1 m n) ∧
      (w ≤ s.hw.cap → eased 1 m n)) ∧
    (∀ t, 760 ≤ t ∨ 744 ≤ t ∧ m.reason.testBit 0 = true → Leaves .thermalWarning (.die d t) s fun u => ∃ n : Monitor, monNow d n s u ∧ slowed 0 m n ∧ n.temp = t) ∧
    (∀ t, t < 744 → Leaves .thermalWarningEnd (.die d t) s fun u => ∃ n : Monitor, monNow d n s u ∧ eased 0 m n ∧ n.temp = t) ∧
    (∀ v, v * 100 < 95 * Config.nominalVcore → Leaves .voltageDroop (.die d v) s fun u => ∃ n : Monitor, monNow d n s u ∧
      slowed 2 m n ∧ n.vcore = v ∧ n.droop = s.time.elapsed) ∧
    ∀ v, Leaves .droopEnd (.die d v) s fun u => ∃ n : Monitor, monNow d n s u ∧
      (33000 ≤ (s.time.elapsed - m.droop).toNat * m.fstep → eased 2 m n ∧ n.vcore = v) ∧
      ((s.time.elapsed - m.droop).toNat * m.fstep < 33000 → n = m)

/-- Soft errors arise at HOME_SLICE_SERVICE: one that is corrected counts in its die's cerr and changes nothing else; one in
memory poisons its sectors and is told in uaddr; one in a register file of a kernel that may not run twice ends its grid with
SCRATCH_ECC and the block's index; one in the image of a saved partition makes its RESUME reset it. -/
def SoftErrorsAreCountedOrKill : Prop :=
  (∀ s d n (m : Monitor), aget s.hw.mons d = some m → Leaves .homeSliceService (.die d n) s fun u =>
    monNow d { m with cerr := min (m.cerr + 1) (2 ^ 32 - 1) } s u) ∧
  (∀ s pa n, localMem pa = true → 0 < n → Leaves .homeSliceService (.read pa n) s fun u =>
    (∀ a, sget u.mem a = sget s.mem a) ∧ (∀ q, pa / 32 ≤ q → q ≤ (pa + n - 1) / 32 → q ∈ u.msys.poison) ∧
    ∀ (m : Monitor), aget s.hw.mons (homeDie pa) = some m → ∃ k : Monitor, aget u.hw.mons (homeDie pa) = some k ∧ k.uaddr = pa) ∧
  (∀ s w x (b : Block) (g : Grid), aget s.waves w = some x → x.id = w → x.twin = none → s.away x.part = false →
    aget s.blocks x.block = some b → b.killed = false → aget s.grids b.grid = some g → g.id = b.grid → g.kern.idem = false →
    g.ended = false → g.fault = none → Leaves .homeSliceService (.wave w) s fun u =>
      (∃ h, aget u.grids b.grid = some h ∧ h.st = .faulted ∧ h.fault = some (0x14, BitVec.ofNat 64 b.idx)) ∧
      ∀ e ∈ u.waves, e.2.block ≠ x.block) ∧
  (∀ s p, (s.part p).stage = .saved → Leaves .homeSliceService (.part p) s fun u =>
    u = s.setPart p { s.part p with imageBad := true }) ∧
  ∀ s p, (s.part p).stage = .saved → s.placesFree p = true → (s.part p).imageBad = true → Leaves .resume (.part p) s fun u =>
    (u.part p).state = 2 ∧ (u.part p).toOff = false ∧ (u.part p).image = [] ∧ ∀ e ∈ u.waves, e.2.part ≠ p

/-- CRITICAL_TRIP at 115 °C or more resets every running partition, which will stay off, holds the dies off and sets bit 3 of
the tripping die. -/
def CriticalTripResetsEverything : Prop := ∀ s d t, 920 ≤ t → Leaves .criticalTrip (.die d t) s fun u => u.hw.off = true ∧
  (∀ (m : Monitor), aget s.hw.mons d = some m → ∃ n : Monitor, aget u.hw.mons d = some n ∧ n.temp = t ∧ n.fstep = m.fstep ∧
    ∀ j, n.trip.testBit j = (m.trip.testBit j || decide (j = 3))) ∧
  (∀ p (q : Part), aget s.parts p = some q → q.state = 1 → (u.part p).state = 2 ∧ (u.part p).toOff = true) ∧
  ∀ k, localMem k = true → sget u.mem k = sget s.mem k

/-- The state of the PTP client (R408). -/
def clientState (s : State) : Nat := s.time.status.toNat % 4

/-- PTP_PORT_WRITE clears stepped where 1 is written, takes the port, and sends a locked client to holdover; PTP_LOCK locks
it, steps device time, but never elapsed time, at the first lock and at a relock more than 1 ms away, and corrects its rate by
at most 500 parts per million (which correction: the model's free value, log entry 4); PTP_HOLDOVER loses the lock. -/
def DeviceTimeEvents : Prop :=
  (∀ s x, Leaves .ptpPortWrite (.word x) s fun u => u = { s with time := { s.time with status := u.time.status } } ∧
    u.time.status.getLsbD 11 = (s.time.status.getLsbD 11 && !x.getLsbD 11) ∧ u.time.status.getLsbD 8 = x.getLsbD 8 ∧
    clientState u = if clientState s = 1 then 2 else clientState s) ∧
  (∀ s x far, far = decide (1000000 < min (x - s.time.dev).toNat (s.time.dev - x).toNat) →
    Leaves .ptpLock (.word x) s fun u => u = { s with time := u.time, fresh := s.fresh + 1 } ∧ u.time.elapsed = s.time.elapsed ∧
      clientState u = 1 ∧ -500000 ≤ u.time.rate ∧ u.time.rate ≤ 500000 ∧
      (u.time.dev, u.time.status.getLsbD 11) = if clientState s = 0 ∨ (clientState s = 2 ∧ far = true) then (x, true)
        else (s.time.dev, s.time.status.getLsbD 11)) ∧
  ∀ s a, Leaves .ptpHoldover a s fun u => u = { s with time := { s.time with status := u.time.status } } ∧
    clientState u = (if clientState s = 1 then 2 else clientState s) ∧ u.time.status.toNat / 4 = s.time.status.toNat / 4

/-- REGISTER_WRITE sets a context dword, of the first three at any time and of the others while no queue is enabled; the
module's configuration takes no write before it is ready, but for a warm reset of a bring-up that has stopped, its number none
while a partition is not off; DEBUG_READ changes nothing but the breakpoint that it sets or deletes (log entry 49). -/
def RegisterWritesSetTheirFields : Prop :=
  (∀ s p off x, p < 32 → off < 0x80 → off % 8 = 0 → (off < 0x18 ∨ ∀ e ∈ (s.part p).queues, e.2.live = false) →
    Leaves .registerWrite (.reg (.page p off) x) s fun u =>
      u = s.setPart p { s.part p with ctx := sset (s.part p).ctx (off / 8) x } ∧ u.readPage p off = x &&& ctxMask (off / 8)) ∧
  (∀ s p off x, p < 32 → 0x18 ≤ off → off < 0x80 → (∃ e ∈ (s.part p).queues, e.2.live = true) →
    Leaves .registerWrite (.reg (.page p off) x) s fun u => u = s) ∧
  (∀ s off x, s.hw.ready = false → (off / 8 ≠ 1 ∨ s.hw.fwerr = false ∧ s.hw.memerr = false) → Leaves .registerWrite (.reg (.module off) x) s fun u => u = s) ∧
  (∀ s x, s.hw.ready = true → Leaves .registerWrite (.reg (.module 0) x) s fun u => u =
    if ∀ e ∈ s.parts, e.2.state = 0 then { s with hw := { s.hw with num := x.toNat % 256 } } else s) ∧
  (∀ s k x, k < 128 → s.hw.ready = true → Leaves .registerWrite (.reg (.module (0x2000 + 8 * k)) x) s fun u =>
    u = { s with hw := { s.hw with imports := sset s.hw.imports k x } }) ∧
  (∀ s a, (∀ p b k, a ≠ .brk p b k) → Leaves .debugRead a s fun u => u = s) ∧
  ∀ s p a k, Leaves .debugRead (.brk p a k) s fun u => u = s.setPart p { s.part p with breaks := (u.part p).breaks } ∧
    ∀ b, b ∈ (u.part p).breaks ↔ if b = a then k = true else b ∈ (s.part p).breaks

/-- VECTOR_MASK_CLEAR clears the mask bit of a vector; when the vector's event is pending and its mask was set, one message is
written, through the port of the die whose event it is: mdata at maddr. -/
def VectorMasksAreCleared : Prop := ∀ s p v, v < 4 → Leaves .vectorMaskClear (.queue p v) s fun u =>
  (sget (u.part p).vecs (2 * v + 1)).toNat = (sget (s.part p).vecs (2 * v + 1)).toNat % 2 ^ 63 ∧
  (u.part p).pend = (s.part p).pend ∧
  (((s.part p).pend.testBit v && (sget (s.part p).vecs (2 * v + 1)).getLsbD 63) = true →
    u.msys.ports = s.msys.ports ++ [⟨(aget (s.part p).vdies v).getD 0,
      0x100000000000 + (sget (s.part p).vecs (2 * v)).toNat / 4 % 2 ^ 50 * 4 % 2 ^ 44,
      bytesOf 4 ((sget (s.part p).vecs (2 * v + 1)).toNat % 2 ^ 32), true, p⟩]) ∧ (∀ a, sget u.mem a = sget s.mem a) ∧
  (((s.part p).pend.testBit v && (sget (s.part p).vecs (2 * v + 1)).getLsbD 63) = false → u.msys = s.msys)

/-- Memory after `n` bytes at `pa` have become `bs`, with every other byte as it was. -/
def wrote (pa : Nat) (bs : List Byte) (s u : State) : Prop := u.bytes (.glob pa) bs.length = bs ∧
  (∀ a, a < pa ∨ pa + bs.length ≤ a → sget u.mem a = sget s.mem a) ∧ ∀ a, sget u.scr a = sget s.scr a

/-- HOST_WRITE writes memory where the host's map shows memory, and an aligned dword where it shows a register; HOST_READ
changes nothing, but that poison raises vector 2 of the owning partition. -/
def HostAccesses : Prop :=
  (∀ s a bs pa, hostAt a = .memory pa → region pa ≠ .hole → Leaves .hostWrite (.write a bs) s (wrote pa bs s)) ∧
  (∀ s a x r, hostAt a = .reg r a → a % 8 = 0 → Leaves .hostWrite (.write a (bytesOf 8 x.toNat)) s fun u =>
    u = s.writeReg r x (BitVec.allOnes 64)) ∧
  ∀ s a n, Leaves .hostRead (.read a n) s fun u => ∀ pa, hostAt a = .memory pa →
    (s.poisoned (.glob pa) n = false → u = s) ∧ (s.poisoned (.glob pa) n = true → ∀ p, s.ownerOf pa = some p → u = s.interrupt p 2 (homeDie pa))

/-- CINCH_ACCESS: a store or an atomic within the import table is performed and one outside it is discarded; a load changes
nothing. CINCH_PORT_FAIL takes a port out of the spread. -/
def CinchAccesses : Prop :=
  (∀ s m pa bs, Leaves .cinchAccess (.cinch m pa (.store bs)) s fun u =>
    (s.imported m pa bs.length = true → wrote pa bs s u) ∧ (s.imported m pa bs.length = false → u = s)) ∧
  (∀ s m pa f n x y, (n = 4 ∨ n = 8) → Leaves .cinchAccess (.cinch m pa (.atom f n x y)) s fun u =>
    (∀ v, s.imported m pa n = true → atomicResult f n (ofBytes (s.bytes (.glob pa) n)) x.toNat y.toNat = some v →
      wrote pa (bytesOf n v) s u) ∧
    (s.imported m pa n = false → u = s)) ∧
  (∀ s m pa n, Leaves .cinchAccess (.cinch m pa (.load n)) s fun u => u = s) ∧
  ∀ s n, n < 36 → Leaves .cinchPortFail (.port n) s fun u =>
    u = { s with hw := { s.hw with failed := u.hw.failed } } ∧ ∀ k, k ∈ u.hw.failed ↔ k ∈ s.hw.failed ∨ k = n

/-! ## Events: stamped ingress -/

/-- FLOW_ENABLE of an entry that is off: refused with err set and en clear, or enabled with its counts zeroed; a write while it
is enabled is ignored. FLOW_DISABLE clears en. -/
def FlowsAreEnabled : Prop := ∀ s n x, 1 ≤ n → n ≤ 255 →
  (Leaves .flowEnable (.flow n x) s fun u =>
    ((s.flowDw n 0).getLsbD 63 = true → u = s) ∧
    ((s.flowDw n 0).getLsbD 63 = false → s.flowBad n (setBit x 63 true) = true →
      u = { s with hw := { s.hw with flows := u.hw.flows } } ∧ (u.flowDw n 0).getLsbD 63 = false ∧ (u.flowDw n 0).getLsbD 52 = true ∧
      (u.flowDw n 0).toNat % 2 ^ 52 = x.toNat % 2 ^ 52) ∧
    ((s.flowDw n 0).getLsbD 63 = false → s.flowBad n (setBit x 63 true) = false →
      (u.flowDw n 0).getLsbD 63 = true ∧ (u.flowDw n 0).getLsbD 52 = false ∧ (u.flowDw n 0).toNat % 2 ^ 52 = x.toNat % 2 ^ 52 ∧
      u.flowDw n 3 = 0 ∧ u.flowDw n 4 = 0 ∧ n ∉ u.hw.muted)) ∧
  Leaves .flowDisable (.flow n x) s fun u => u = { s with hw := { s.hw with flows := u.hw.flows } } ∧
    (u.flowDw n 0).getLsbD 63 = false ∧ (u.flowDw n 0).getLsbD 52 = (s.flowDw n 0).getLsbD 52 ∧
    (u.flowDw n 0).toNat % 2 ^ 52 = x.toNat % 2 ^ 52

/-- FRAME_ARRIVAL: a frame that matches no entry is counted for its port; a frame of a flow takes the ring's next slot,
filled, stamped with device time, and marked full in its phase when it stands empty, and is dropped, counted, with
vector 3, when it does not, or when the reset of its partition has muted the flow (log entry 27). -/
def FramesArrive : Prop := ∀ s port f, f.length ≤ 9216 → Leaves .frameArrival (.frame port f) s fun u =>
  (s.flowFor port f = none → u.hw.flows = sset s.hw.flows (port % 2) (if s.flowDw 0 (port % 2) = BitVec.allOnes 64 then BitVec.allOnes 64
    else s.flowDw 0 (port % 2) + 1) ∧ u = { s with hw := { s.hw with flows := u.hw.flows } }) ∧
  ∀ n s0 p base, s.flowFor port f = some n →
    s0 = { s with hw := { s.hw with flows := sset s.hw.flows (8 * n + 3) (s.flowDw n 3 + 1) } } →
    p = (s.flowDw n 0).toNat / 2 ^ 58 % 32 → base = (s.flowDw n 0).toNat / 512 % 2 ^ 43 * 512 →
    (n ∈ s.hw.muted → u = (s0.setFlow n 4 (s.flowDw n 4 + 1)).interrupt p 3 0) ∧ ∀ x c slots m b, n ∉ s.hw.muted →
    s0.objXlat p (BitVec.ofNat 64 base) .atomic = .ok x → s0.poisoned (.glob x.pa) 8 = false → c = s0.dword x.pa → slots = (s.flowDw n 1).toNat / 2 ^ 56 + 1 →
    m = (s0.touch p x true).setDword x.pa (c + 1) → b = m.slotByte x.pa (c.toNat % slots) → b.toNat < 4 →
    m.poisoned (.glob (x.pa + 64 + c.toNat % slots)) 1 = false →
    (b.getLsbD 0 = true → u = (m.setFlow n 4 (m.flowDw n 4 + 1)).interrupt p 3 0) ∧
    (b.getLsbD 0 = false → b.getLsbD 1 = decide (c.toNat / slots % 2 = 1) → ∀ s2 : State,
      m.writeVia p (BitVec.ofNat 64 (base + 512 + c.toNat % slots * 2 ^ ((s.flowDw n 1).toNat / 2 ^ 51 % 32)))
        (slotBytes port f s.time.dev (s.flowDw n 3 + 1) (s.flowDw n 4) ((s.flowDw n 1).toNat / 2 ^ 51 % 32)) .store 0 = .ok s2 →
      u = s2.setBytes (.glob (x.pa + 64 + c.toNat % slots)) [BitVec.ofNat 8 (1 + if b.getLsbD 1 then 2 else 0)])

/-! ## Events: queues and packets -/

/-- QUEUE_ENABLE reads the descriptor of a disabled queue of a running partition: a well-formed one makes it IDLE with its
counters at 0 and the descriptor's seed; a malformed one, or a partition context without a fault ring, ERROR with
QERR_PACKET; an invalid entry FETCH_PARKED. QUEUE_DISABLE and QUEUE_RESET act in the states R364 names, and in no
other; a packet being decoded is decoded before its queue is DISABLED, and a record's write that waits for its verdict stays. -/
def QueueCommands : Prop :=
  (∀ s p j, (s.part p).hasQueue j = true → (s.part p).state = 1 → (s.queue p j).st = .disabled →
    Leaves .queueEnable (.queue p j) s fun u =>
      ((s.part p).fringOk = false → (u.queue p j).st = .error ∧ (u.queue p j).code = 0x81) ∧
      ((s.part p).fringOk = true → ∀ (d : List Word) (s1 : State), s.hRead p ((s.part p).qdie j) ((s.queue p j).desc.toNat / 64 % 2 ^ 46 * 64) 8 = .ok (d, s1) →
        (qdescBad d = true → (u.queue p j).st = .error ∧ (u.queue p j).code = 0x81) ∧
        (qdescBad d = false → (u.queue p j).st = .idle ∧ (u.queue p j).head = 0 ∧ (u.queue p j).tail = 0 ∧ (u.queue p j).chead = 0 ∧
          (u.queue p j).kept = d ∧ (u.queue p j).seeds = [(dw d 5, dw d 6)] ∧ ∀ a, sget u.mem a = sget s1.mem a)) ∧
      ((s.part p).fringOk = true → ∀ a, s.hRead p ((s.part p).qdie j) ((s.queue p j).desc.toNat / 64 % 2 ^ 46 * 64) 8 = .error (.page a) →
        (u.queue p j).st = .parked ∧ (u.queue p j).left = .enable ∧ (u.queue p j).seq = (s.part p).seq)) ∧
  (∀ s p j, (s.queue p j).st ≠ .disabled → Leaves .queueEnable (.queue p j) s fun u => u = s) ∧
  (∀ s p j, Leaves .queueDisable (.queue p j) s fun u =>
    (((s.queue p j).st = .idle ∨ (s.queue p j).st = .active ∨ (s.queue p j).st = .parked) →
      u.grids = s.grids ∧ (∀ a, sget u.mem a = sget s.mem a) ∧
      ((s.queue p j).gang = [] → ¬ ((s.queue p j).st = .parked ∧ (s.queue p j).left = .decode) → (u.queue p j).st = .disabled ∧
        ((s.queue p j).st = .parked → (s.queue p j).left = .record → (u.queue p j).rseq = (s.queue p j).seq ∧ (u.part p).recs = (s.part p).recs) ∧
        ∀ g, (s.queue p j).st = .parked → (s.queue p j).left = .lrec g →
          (u.queue p j).lseq = (s.queue p j).seq ∧ g ∈ (u.queue p j).lrecs ∧ (u.part p).recs = (s.part p).recs) ∧
      ((s.queue p j).gang ≠ [] ∨ ((s.queue p j).st = .parked ∧ (s.queue p j).left = .decode) →
        u.queue p j = { s.queue p j with off := true })) ∧
    (¬ ((s.queue p j).st = .idle ∨ (s.queue p j).st = .active ∨ (s.queue p j).st = .parked) → u = s)) ∧
  ∀ s p j, Leaves .queueReset (.queue p j) s fun u =>
    (((s.queue p j).st = .error ∨ (s.queue p j).st = .aborted) → (u.queue p j).st = .disabled ∧ (u.queue p j).head = 0 ∧
      (u.queue p j).tail = 0 ∧ (u.queue p j).chead = 0 ∧ (u.queue p j).seeds = [] ∧ ∀ a, sget u.mem a = sget s.mem a) ∧
    (¬ ((s.queue p j).st = .error ∨ (s.queue p j).st = .aborted) → u = s)

/-- DOORBELL_WRITE records the tail in every state; an IDLE or ACTIVE queue is then IDLE (DISABLED if it is
being disabled) where tail meets head, ACTIVE where it
is ahead by at most the ring, and in ERROR with QERR_RING where it is further. -/
def DoorbellsMoveQueues : Prop := ∀ s p j t n, (s.part p).hasQueue j = true → t < 2 ^ 32 →
  n = (t + 2 ^ 32 - (s.queue p j).head) % 2 ^ 32 → (s.queue p j).head < 2 ^ 32 → Leaves .doorbellWrite (.tail p j t) s fun u =>
    (u.queue p j).tail = t ∧ (u.queue p j).head = (s.queue p j).head ∧
    ((s.queue p j).st = .idle ∨ (s.queue p j).st = .active →
      (n = 0 → (u.queue p j).st = if (s.queue p j).off then .disabled else .idle) ∧ (n ≠ 0 → n ≤ (s.queue p j).slots → (u.queue p j).st = .active) ∧
      ((s.queue p j).slots < n → (u.queue p j).st = .error ∧ (u.queue p j).code = 0x87)) ∧
    ((s.queue p j).st ≠ .idle → (s.queue p j).st ≠ .active → u = s.setQueue p j { s.queue p j with tail := t })

/-- The next packet that its firmware core decodes is the well-formed packet `d`, of type `n`, at the head of queue `j`, read
in the state `s1`; the tail stays within the ring. -/
structure Decodes (s : State) (p j : Nat) (d : List Word) (n : Nat) (s1 : State) : Prop where
  turn : s.nextQueue ((s.part p).qnum j % 32) = some (p, j)
  read : s.hRead p ((s.part p).qdie j) (s.queue p j).packetAt 8 = .ok (d, s1)
  form : packetBad d = false ∧ payloadBad (s.queue p j).cls d = false
  type : (dw d 0).toNat / 2 ^ 56 = n
  tail : ((s.queue p j).tail + 2 ^ 32 - ((s.queue p j).head + 1) % 2 ^ 32) % 2 ^ 32 ≤ (s.queue p j).slots

/-- The state in which the packet's payload takes effect: its queue served and its tag and irq kept. -/
def taken (s1 : State) (p j : Nat) (d : List Word) : State :=
  (s1.served p j).modQueue p j fun q => { q with tag := (dw d 0).toNat / 2 ^ 32 % 2 ^ 16, irq := (dw d 0).getLsbD 54 }

/-- The queue has passed the packet: its head is one further, the packet's record is owed, and a queue being disabled is
DISABLED. -/
def passed (s u : State) (p j : Nat) : Prop := (u.queue p j).head = ((s.queue p j).head + 1) % 2 ^ 32 ∧
  (u.queue p j).owed = (s.queue p j).owed ++ [(s.queue p j).head] ∧
  ((s.queue p j).off = true → (u.queue p j).st = .disabled) ∧
  ((s.queue p j).off = false → (u.queue p j).st = .idle ∨ (u.queue p j).st = .active)

/-- The record of a packet that completes at its decode stands last among those to be written. -/
def recorded (s u : State) (p j : Nat) (d : List Word) (after : List Nat) : Prop := (u.queue p j).recs = (s.queue p j).recs ++
  [⟨(s.queue p j).gen, (s.queue p j).head, (dw d 0).toNat / 2 ^ 32 % 2 ^ 16, 0, 0, 0, 0, 0, (dw d 0).getLsbD 54, after⟩]

/-- The queue stopped in ERROR with a code, at its packet, for which one record is to be written, with the packet's tag and
irq. -/
def stoppedWith (s u : State) (p j code off : Nat) (d : List Word) : Prop := (u.queue p j).st = .error ∧ (u.queue p j).code = code ∧
  (u.queue p j).head = (s.queue p j).head ∧ (u.queue p j).offset = off ∧ (u.queue p j).recs = (s.queue p j).recs ++
    [⟨(s.queue p j).gen, (s.queue p j).head, (dw d 0).toNat / 2 ^ 32 % 2 ^ 16, 0, code, 0, 0, off, (dw d 0).getLsbD 54, []⟩]

/-- SEED.PUSH, SEED.POP and SEED.FORK change the seed stack, of 1 to 16 seeds, and QERR_SEED stops the queue beyond; NOP
changes nothing; TLBINV drops the range's translations, its record waiting for the accesses then outstanding. Each passes its
packet and owes its record. -/
def PacketsAtDecode : Prop := ∀ s p j d (s1 : State),
  (Decodes s p j d 3 s1 → Leaves .seedPush (.queue p j) s fun u =>
    ((s.queue p j).seeds.length < 16 → passed s u p j ∧ recorded s u p j d [] ∧
      (u.queue p j).seeds = (dw d 1, dw d 2) :: (s.queue p j).seeds) ∧
    (16 ≤ (s.queue p j).seeds.length → stoppedWith s u p j 0x84 0 d)) ∧
  (Decodes s p j d 4 s1 → Leaves .seedPop (.queue p j) s fun u =>
    (2 ≤ (s.queue p j).seeds.length → passed s u p j ∧ recorded s u p j d [] ∧ (u.queue p j).seeds = (s.queue p j).seeds.tail) ∧
    ((s.queue p j).seeds.length ≤ 1 → stoppedWith s u p j 0x84 0 d)) ∧
  (Decodes s p j d 5 s1 → Leaves .seedFork (.queue p j) s fun u => ∀ t rest, (s.queue p j).seeds = t :: rest →
    ((s.queue p j).seeds.length < 16 → passed s u p j ∧ recorded s u p j d [] ∧
      (u.queue p j).seeds = seedFork t (dw d 1) :: (s.queue p j).seeds) ∧
    (16 ≤ (s.queue p j).seeds.length → stoppedWith s u p j 0x84 0 d)) ∧
  (Decodes s p j d 6 s1 → Leaves .tlbinv (.queue p j) s fun u => passed s u p j ∧ recorded s u p j d (s.unperformed p) ∧
    (u.queue p j).seeds = (s.queue p j).seeds ∧
    ∀ t, t ∈ u.msys.tlb ↔ t ∈ s1.msys.tlb ∧ ¬ (t.part = p ∧ (dw d 2 = 0 ∨
      overlaps t.page t.size ((dw d 1).toNat / 2 ^ 12 % 2 ^ 40 * 2 ^ 12) (dw d 2).toNat = true))) ∧
  (Decodes s p j d 7 s1 → Leaves .nopPacket (.queue p j) s fun u => passed s u p j ∧ recorded s u p j d [] ∧
    (u.queue p j).seeds = (s.queue p j).seeds ∧ ∀ a, sget u.mem a = sget s1.mem a)

/-- LAUNCH, its checks passed, puts a grid of the packet's kernel, shape, arguments and seed at the partition's disposal, queued
under its packet's number and tag, and passes the packet; a refused decode stops the queue with its code. -/
def LaunchPacketsMakeGrids : Prop := ∀ s p j d (s1 s0 : State), Decodes s p j d 1 s1 → s0 = taken s1 p j d →
  (∀ n off, s0.decodeLaunch p j d = .error (.code n off) → Leaves .launch (.queue p j) s fun u => stoppedWith s u p j n off d) ∧
  ∀ (s2 s3 s5 : State) k g, dw d 4 = 0 → dw d 7 = 0 →
    s0.checkCaps p ((s.part p).qdie j) (s.queue p j).wbase (s.queue p j).wlen ((dw d 1).toNat / 64 % 2 ^ 46 * 64) 8 (dw d 3) 24 0 32 = .ok s2 →
    s2.dKernel p ((s.part p).qdie j) ((dw d 1).toNat / 64 % 2 ^ 46 * 64) = .ok (k, s3) → s3.blockFits p k = true →
    g = gridOf { launchOf p k (dw d 2) (dw d 3) 0 (dw d 6) (dw d 5) ((dw d 0).toNat % 8)
      (k.strict || (dw d 0).getLsbD 53 || (s.queue p j).strict) ((dw d 0).getLsbD 52) ((s.queue p j).seeds.headD (0, 0)) with code := s3.mem } s3.nextId
      ((s.part p).qnum j % 32 / 8) p j (s.queue p j).gen (s.queue p j).head ((dw d 0).toNat / 2 ^ 32 % 2 ^ 16) (s.queue p j).cls ((dw d 0).getLsbD 54) none →
    (g.budget = 0 ∨ k.units ≤ g.budget) → (g.coop = true → s3.fitsAtOnce g = true) →
    ({ s3 with nextId := s3.nextId + 1 } : State).putGrid g [] = some s5 → Leaves .launch (.queue p j) s fun u =>
      (u.queue p j).head = ((s.queue p j).head + 1) % 2 ^ 32 ∧ ∃ h, aget u.grids s3.nextId = some h ∧ h.kern = k ∧ h.part = p ∧
        h.gx = (dw d 2).toNat / 2 ^ 32 ∧ h.gy = (dw d 2).toNat / 2 ^ 16 % 2 ^ 16 ∧ h.gz = (dw d 2).toNat % 2 ^ 16 ∧
        h.args = dw d 3 ∧ h.st = .queued ∧ h.packet = (s.queue p j).head ∧ h.queue = some j ∧ h.seed = (s.queue p j).seeds.headD (0, 0) ∧
        h.deadline = dw d 5 ∧ h.prio = (dw d 0).toNat % 8 ∧ h.launcher = none ∧ h.code = some s3.mem

/-- GANG, its table and pipes checked, waits at the head of its queue with its parts; GANG_RESERVE commits it whole, with a grid
for every part, when every reservation succeeds, every launch record can be written and no gang before it could be committed; a
record that cannot be written stops or parks its queue instead, and a reservation that fails changes nothing. -/
def GangsReserveAllOrNothing : Prop :=
  (∀ s p j d (s1 s0 s2 s3 : State) t parts pipes a n m, Decodes s p j d 2 s1 → s0 = taken s1 p j d → a = (dw d 1).toNat / 64 % 2 ^ 46 * 64 →
    n = (dw d 2).toNat / 2 ^ 60 → m = (dw d 2).toNat / 2 ^ 56 % 2 ^ 4 →
    outside (s.queue p j).wbase (s.queue p j).wlen a (64 * n + 32 * m) = false →
    s0.dRead p ((s.part p).qdie j) a (8 * n + 4 * m) = .ok (t, s2) →
    s2.gangParts p (s0.queue p j) (dw d 5) ((s.part p).qnum j % 32 / 8) 0 (slices t 8 n) = .ok (parts, s3) →
    s3.gangPipes parts 0 [] (slices (t.drop (8 * n)) 4 m) = .ok pipes →
    Leaves .gang (.queue p j) s fun u => (u.queue p j).gang = parts ∧ (u.queue p j).pipes = pipes ∧
      (u.queue p j).head = (s.queue p j).head ∧ u.grids = s.grids) ∧
  (∀ s p j (s1 : State) key, (p, j, key) ∈ s.waitingGangs → (s.waitingGangs.find? fun e => e.1 = p && e.2.1 = j) = some (p, j, key) →
    (∀ e ∈ s.waitingGangs, e.2.2 < key → s.tryGang e.1 e.2.1 = none) →
    s.tryGang p j = some s1 → Leaves .gangReserve (.queue p j) s fun u => u = s1 ∧
      (s.gangRecords p j ((dw (s.peek p j) 0).toNat / 2 ^ 32 % 2 ^ 16) (s.queue p j).gang = none →
        (u.queue p j).gang = [] ∧ (u.queue p j).head = ((s.queue p j).head + 1) % 2 ^ 32 ∧
        ∀ l ∈ (s.queue p j).gang, ∃ k h, aget u.grids k = some h ∧ h.gang = some s.nextId ∧ h.part = l.part ∧ h.kern = l.kern ∧ h.args = l.args) ∧
      (∀ s2, s.gangRecords p j ((dw (s.peek p j) 0).toNat / 2 ^ 32 % 2 ^ 16) (s.queue p j).gang = some s2 → u = s2 ∧ u.grids = s.grids ∧
        (u.queue p j).head = (s.queue p j).head ∧
        ((u.queue p j).st = .error ∧ (u.queue p j).code = 0x86 ∨ (u.queue p j).st = .parked ∧ (u.queue p j).left = .decode))) ∧
  ∀ s p j, s.tryGang p j = none → Leaves .gangReserve (.queue p j) s fun u => u = s

/-- The 32 bytes of a completion record (R372). -/
def recordBytes (q : Queue) (r : CRec) (qn : Nat) (now : Word) : List Byte :=
  bytesOfDwords [BitVec.ofNat 64 (r.packet % 2 ^ 32 * 2 ^ 32 + r.tag * 2 ^ 16 + r.kind * 2 ^ 8 + r.status % 256), r.block,
    if r.kind = 1 then r.aux else now,
    BitVec.ofNat 64 ((if q.index / q.cslots % 2 = 0 then 2 ^ 63 else 0) + r.offset % 2 ^ 10 * 2 ^ 32 + qn % 2 ^ 10)]

/-- A record's write met an invalid entry at `a`: a queue at work is parked, and one that is not has a fault record for the write
alone (R373). -/
def recordParks (s u : State) (p j : Nat) (q : Queue) (a : Word) : Prop :=
  (u.queue p j).recs = q.recs ∧ (u.queue p j).index = q.index ∧
  ((q.st = .idle ∨ q.st = .active) → (u.queue p j).st = .parked ∧ (u.queue p j).left = .record ∧ (u.queue p j).seq = (s.part p).seq) ∧
  (¬ (q.st = .idle ∨ q.st = .active) → (u.queue p j).st = q.st ∧ (u.queue p j).rseq = (s.part p).seq) ∧
  ∃ f, (u.part p).recs = (s.part p).recs ++ [f] ∧ f.seq = (s.part p).seq ∧ f.code = 0x10 ∧ f.engine = 3 ∧ f.addr = a

/-- COMPLETION_RECORD_WRITE writes the first record whose accesses are performed, of 32 bytes at its slot, if the slot has been
consumed; the index rises, its packet is owed no record any more, and a record with irq raises vector 0. A slot whose page has
an invalid entry parks a queue at work, and leaves a fault record for the write alone in one that is not. -/
def CompletionRecordsAreWritten : Prop := ∀ s p j r rest q qn, q = s.queue p j → q.recs = r :: rest → r.after = [] → q.mute = false →
  q.st ≠ .parked → q.rseq = 0 → qn = (s.part p).qnum j →
  (q.cslots ≤ (q.index + 2 ^ 32 - q.chead) % 2 ^ 32 → Leaves .completionRecordWrite (.queue p j) s fun u => u = s) ∧
  ((q.index + 2 ^ 32 - q.chead) % 2 ^ 32 < q.cslots → ∀ r0 : Except HErr State, r0 = s.hWrite p ((s.part p).qdie j)
      ((dw q.kept 2).toNat / 2 ^ 12 % 2 ^ 40 * 2 ^ 12 + 32 * (q.index % q.cslots))
      (recordBytes q r qn s.time.dev) →
    Leaves .completionRecordWrite (.queue p j) s fun u =>
      (∀ a, r0 = .error (.page a) → recordParks s u p j q a) ∧
      ∀ s1 : State, r0 = .ok s1 → (u.queue p j).recs = rest ∧
        (u.queue p j).owed = (if r.kind = 0 ∧ r.gen = q.gen then q.owed.erase r.packet else q.owed) ∧ (u.queue p j).index = (q.index + 1) % 2 ^ 32 ∧
      (r.irq = false → u.mem = s1.mem ∧ u.msys = s1.msys) ∧ (r.irq = true → (u.part p).pend.testBit 0 = true))

/-! ## Events: blocks and grids -/

/-- Block `idx` of the grid `g` stands, as number `id`, on `cores`: its waves are the kernel's, each with one path at
the entry. -/
structure Stands (u : State) (g : Grid) (id idx : Nat) (cores : List Nat) : Prop where
  blk   : ∃ b, aget u.blocks id = some b ∧ b.grid = g.id ∧ b.idx = idx ∧ b.cores = cores ∧ b.killed = false ∧
    b.size = g.kern.partBytes cores.length ∧ ∀ c ∈ cores, ∀ a, b.sbase ≤ a → a < b.sbase + b.size → sget u.scr (scrKey c a) = 0
  waves : ∀ e ∈ u.waves, e.2.block = id → ∃ q, e.2.paths = [q] ∧ q.hdr = g.kern.entry ∧ q.idx = 0 ∧ q.st = .run ∧ e.2.v = [] ∧
    e.2.s = [] ∧ e.2.ops = [] ∧ e.2.trap = none
  count : ((List.range g.kern.waves).all fun k => u.waves.any fun e => e.2.block = id && e.2.lreg 138 = BitVec.ofNat 64 k) = true

/-- No wave belongs to a block of this number, and every wave's and twin's number has been given out before. -/
def newIds (s : State) (b : Nat) : Prop := ∀ e ∈ s.waves, e.2.block ≠ b ∧ e.2.id = e.1 ∧ e.1 < s.nextId ∧
  ∀ f ∈ e.2.forks, ∀ t, f.twin = some t → t < s.nextId

/-- BLOCK_DISPATCH of a grid that is first in order starts its share's next block on the cores chosen, and changes
nothing while the grid may not dispatch; STEAL_REQUEST does so for a die that has none of its own and whose turn it is
at the victim, and moves on to the next victim where that has none; BLOCK_RELAUNCH starts a killed block again, a resumption's
with its one wave as that started. -/
def BlocksAreDispatched : Prop :=
  (∀ s gid idx core (g : Grid) l (s1 : State), aget s.grids gid = some g → g.id = gid → s.mayDispatch g = true → g.coop = false →
    g.nextOf (s.ncl g.part) (g.shareOf (s.ncl g.part) idx) = some idx → s.firstInOrder g (g.shareOf (s.ncl g.part) idx) = true →
    s.chooseCores g idx core = some l → l.Nodup → s.putBlock g idx l = .ok s1 → newIds s s.nextId →
    Leaves .blockDispatch (.place gid idx core) s fun u => u = s1 ∧ Stands u g s.nextId idx l) ∧
  (∀ s gid idx core (g : Grid), aget s.grids gid = some g → s.mayDispatch g = false →
    Leaves .blockDispatch (.place gid idx core) s fun u => u = s) ∧
  (∀ s gid thief victim (g : Grid), aget s.grids gid = some g → g.id = gid → thief ≠ victim →
    (s.wants g thief = false ∨ s.asksNow thief ≠ victim ∨ s.ownBlock g.part victim = true →
      Leaves .stealRequest (.steal gid thief victim) s fun u => u = s) ∧
    (s.wants g thief = true → s.asksNow thief = victim → s.ownBlock g.part victim = false →
      (∀ e ∈ s.grids, s.together g.part e.2.part = true → s.gridBefore e.2 g = true → s.wants e.2 thief = false) →
      (∀ d, d < thief → s.asksNow d = victim → s.wants g d = false) → (aget s.hw.stole victim).getD 0 ≠ s.clock + 1 →
      (g.nextOf (s.ncl g.part) victim = none → Leaves .stealRequest (.steal gid thief victim) s fun u =>
        u = { s with hw := { s.hw with asks := aset s.hw.asks thief (askAfter thief victim) } }) ∧
      ∀ idx l (s1 : State), g.nextOf (s.ncl g.part) victim = some idx →
        s.coresAmong g.part g.kern (s.clustersOn g.part thief) = some l → l.Nodup → s.putBlock g idx l = .ok s1 → newIds s s.nextId →
        Leaves .stealRequest (.steal gid thief victim) s fun u => Stands u g s.nextId idx l ∧
          u = { s1 with hw := { s1.hw with asks := aset s1.hw.asks thief (askAfter thief 3), stole := aset s1.hw.stole victim (s.clock + 1) } })) ∧
  ∀ s gid idx core (g : Grid) (b : Block), aget s.grids gid = some g → g.id = gid → b.grid = gid → b.idx = idx → b.killed = true →
    (s.blocks.find? fun e => e.2.grid = gid && e.2.idx = idx && e.2.killed) = some (b.id, b) → (s.part g.part).stage = .run →
    (∀ e ∈ s.chans, e.2.block = b.id → e.2.busy = false) → core / 144 = b.cluster / 36 →
    (s.part g.part).clusters.contains (core / 4) = true → s.othersOn g.part = false →
    (∀ l, b.cont = false → g.strict = false → s.coresFrom g core = some l → l.Nodup → newIds s b.id →
      Leaves .blockRelaunch (.place gid idx core) s fun u => Stands u g b.id idx l) ∧
    ∀ (w : Wave) sub, b.cont = true → b.first = some w → (g.strict = true → core / 4 = b.cluster) →
      s.subFor core g.kern.vregs w.width = some sub → Leaves .blockRelaunch (.place gid idx core) s fun u =>
        (∃ c, aget u.blocks b.id = some c ∧ c.killed = false ∧ c.cores = [core]) ∧ ∃ x, aget u.waves s.nextId = some x ∧ x.core = core ∧
          x.sub = sub ∧ x.paths = w.paths ∧ x.v = w.v ∧ x.redGen = w.redGen ∧ x.redCnt = w.redCnt

/-- GRID_COMPLETION: a top-level grid whose blocks, engines, nested grids, continuations and reductions are all done is over,
and one record with its status is owed; a grid with any of them left, and no fault, stays as it is, as does one whose writes the
dies' ports have not all delivered; a faulted grid's record
carries the fault's code and block. -/
def GridsComplete : Prop := ∀ s gid (g : Grid) j, aget s.grids gid = some g → g.id = gid → g.ended = false → g.lrec = 0 → g.cfut = 0 →
  g.launcher = none → g.parent = none → g.queue = some j → g.gang = none → Leaves .gridCompletion (.grid gid) s fun u =>
    (s.portsClearOf g.part = false → u = s) ∧
    (g.fault = none → s.mayComplete g = true → s.portsClearOf g.part = true →
      (u.queue g.qpart j).recs = (s.queue g.qpart j).recs ++ [⟨g.qgen, g.packet, g.tag, 0, 0, 0, 0, 0, g.irq, []⟩] ∧
      ∀ h, aget u.grids gid = some h → h.ended = true ∧ h.st = .complete) ∧
    (g.fault = none → s.mayComplete g = false → u = s) ∧
    ∀ code blk, g.fault = some (code, blk) →
      (s.mayEnd g = true → s.portsClearOf g.part = true → (u.queue g.qpart j).recs = (s.queue g.qpart j).recs ++ [⟨g.qgen, g.packet, g.tag, 0, code, blk, 0, 0, g.irq, []⟩] ∧
        ∀ h, aget u.grids gid = some h → h.ended = true ∧ h.st = .faulted) ∧
      (s.mayEnd g = false → u = s)

/-- The grid has ended with a fault that no block of it took: no wave, block or pending reduction of it is left. -/
def endedBy (code gid : Nat) (u : State) : Prop := (∃ h, aget u.grids gid = some h ∧ h.st = .faulted ∧ h.fault = some (code, BitVec.allOnes 64)) ∧
  (∀ e ∈ u.waves, e.2.grid ≠ gid) ∧ ∀ c ∈ u.msys.contribs, c.grid ≠ gid

/-- A die's arithmetic clock, in units of 100 MHz (R414). -/
def dieClock (s : State) (d : Nat) : Nat := ((aget s.hw.mons d).getD Monitor.reset).fstep

/-- WATCHDOG ends a top-level grid that has run longer than its queue's limit in microseconds of elapsed time, and
DRAIN_WATCHDOG one whose drain has not left handler mode within 16 µs at 3.3 GHz, longer at a lowered clock, with WATCHDOG;
each does nothing before its time. -/
def WatchdogsEndGrids : Prop :=
  (∀ s gid (g : Grid) t j limit, aget s.grids gid = some g → g.start = some t → g.queue = some j → g.launcher = none → g.ended = false →
    g.fault = none → limit = (dw (s.queue g.qpart j).kept 1).toNat % 2 ^ 32 → limit ≠ 0 → (s.part g.part).stage ≠ .saved →
    Leaves .watchdog (.grid gid) s fun u => (limit * 1000 < (s.time.elapsed - t).toNat → endedBy 0x7F gid u) ∧
      ((s.time.elapsed - t).toNat ≤ limit * 1000 → u = s)) ∧
  ∀ s gid (g : Grid), aget s.grids gid = some g → g.ended = false → g.fault = none → Leaves .drainWatchdog (.grid gid) s fun u =>
    ((s.part g.part).stage = .freeze → (∃ e ∈ s.waves, e.2.grid = gid ∧ (∃ t, e.2.trap = some t ∧ t.first = 0 ∧ t.addr = 0) ∧
      16000 * 33 < (s.time.elapsed - (s.part g.part).since).toNat * dieClock s e.2.die) → endedBy 0x7F gid u) ∧
    ((∀ e ∈ s.waves, (s.time.elapsed - (s.part g.part).since).toNat * dieClock s e.2.die ≤ 16000 * 33) → u = s)

/-- The contribution's size, and what it adds to a location that holds `x`. -/
def contribBytes (c : Contrib) : Nat := if c.f32 then 4 else 8
def contribTo (x : Word) (c : Contrib) : Word := atomApply (if c.f32 then .addF32 else .add) (contribBytes c) x c.x 0

/-- WINDOW_APPLY adds the contributions of the lowest window, once it is closed, to each location in the order of their source
identifiers, changes no other byte, and they are gone; until then it changes nothing. -/
def WindowsApplyInOrder : Prop := ∀ s gid w (g : Grid), aget s.grids gid = some g → g.strict = true →
  Leaves .windowApply (.window gid w) s fun u =>
    (s.windowClosed g w = false → u = s) ∧
    (s.windowClosed g w = true → g.applied = w → (∃ c ∈ s.msys.contribs, c.grid = gid) →
      (∀ c ∈ s.msys.contribs, c.grid = gid → c.win = w → s.poisoned (.glob c.pa) (contribBytes c) = false) →
      (∃ h, aget u.grids gid = some h ∧ h.applied = w + 1) ∧
      (∀ c, c ∈ u.msys.contribs ↔ c ∈ s.msys.contribs ∧ ¬ (c.grid = gid ∧ c.win = w)) ∧
      ∀ l : List Contrib, l.Perm (s.msys.contribs.filter fun c => c.grid = gid && c.win = w) →
        l.Pairwise (fun a b => a.before b = true) →
        (∀ c ∈ l, (∀ d ∈ l, (d.pa = c.pa ∧ d.f32 = c.f32) ∨ d.pa + contribBytes d ≤ c.pa ∨ c.pa + contribBytes c ≤ d.pa) →
          u.bytes (.glob c.pa) (contribBytes c) = bytesOf (contribBytes c) ((l.filter fun d => d.pa = c.pa).foldl contribTo
            (BitVec.ofNat 64 (ofBytes (s.bytes (.glob c.pa) (contribBytes c))))).toNat) ∧
        ∀ a, (∀ c ∈ l, a < c.pa ∨ c.pa + contribBytes c ≤ a) → sget u.mem a = sget s.mem a)

/-- LIST_WALK takes one entry of the first list to be walked and lowers its record's pending count; at the last one the
record is ready and queued for resumption. It waits while the partition freezes or is saved. -/
def ListWalksLowerPending : Prop := (∀ s p, (s.part p).stage = .freeze ∨ (s.part p).stage = .saved → Leaves .listWalk (.part p) s fun u => u = s) ∧
  ∀ s p h rest (x y : Xlat) next n, (s.part p).walks = h :: rest → (s.part p).stage ≠ .freeze → (s.part p).stage ≠ .saved →
  s.objXlat p (BitVec.ofNat 64 (h / 4 * 256 + 48 + 8 * (h % 4))) .atomic = .ok x → next = (s.dword x.pa).toNat % 2 ^ 40 →
  s.objXlat p (BitVec.ofNat 64 (h / 4 * 256)) .atomic = .ok y → n = (s.dword y.pa).toNat / 2 ^ 59 % 8 → 1 ≤ n →
  s.poisoned (.glob y.pa) 8 = false →
  Leaves .listWalk (.part p) s fun u => (u.part p).walks = (if next = 0 then rest else next :: rest) ∧
    (∀ a, sget u.mem a = sget ((s.touch p y true).setDword y.pa (BitVec.ofNat 64 ((if n = 1 then 2 else (s.dword y.pa).toNat / 2 ^ 62) * 2 ^ 62 +
      (if n = 1 then 0 else n - 1) * 2 ^ 59 + (s.dword y.pa).toNat % 2 ^ 52))).mem a) ∧
    (n = 1 → ∀ v, aget (s.part p).saves (h / 4 * 256) = some v → (u.part p).ready = (s.part p).ready ++ [(h / 4 * 256, v.grid)]) ∧
    (n ≠ 1 → (u.part p).ready = (s.part p).ready)

/-- RESUMPTION starts a queued record's wave, no other grid's record coming before it, on a core of its partition with a free
slot and a spill area of its own: one path of the record's lanes at its
resume address, with the registers the record holds, and the record is queued no more. Without room
for the spill area it waits. -/
def ResumptionsStartWaves : Prop := ∀ s p i core rec gid (g : Grid) (v : Saved) sub d (s1 s2 : State) vals r,
  (s.part p).ready[i]? = some (rec, gid) → aget s.grids gid = some g → aget (s.part p).saves rec = some v → g.part = p →
  s.mayDispatch g = true → (s.part p).clusters.contains (core / 4) = true → s.othersOn p = false →
  s.resumesBefore (s.readyWith p) g core = false →
  s.subFor core g.kern.vregs v.width = some sub → s.readDwords p (core / 144) (BitVec.ofNat 64 rec) 32 .atomic = .ok (d, s1) →
  s1.readDwords p (core / 144) (BitVec.ofNat 64 (rec + 256)) (recCount d * v.width) .atomic = .ok (vals, s2) →
  v.width ≤ 64 → recFirst d + recCount d ≤ 128 → r = s2.alloc p (core / 144) (g.kern.rets * 8 * v.width) 256 (.spill s2.nextId) →
  Leaves .resumption (.resume p i core) s fun u => (r.1 = .full → u = s) ∧ ∀ spill, r.1 = .at spill → (∃ b, aget u.blocks s.nextId = some b ∧
    b.spill = spill ∧ b.cores = [core]) ∧ ∃ w q, aget u.waves (s.nextId + 1) = some w ∧ w.paths = [q] ∧
    q.hdr = (dw d 0).toNat % 2 ^ 52 ∧ q.lanes = dw d 10 &&& widthMask v.width ∧ q.idx = 0 ∧ w.grid = g.id ∧ w.core = core ∧
    (∀ l r, inLanes q.lanes l = true → r < recCount d → w.reg (.v (recFirst d + r)) l = dw vals (r * v.width + l)) ∧
    ∀ e ∈ (u.part p).ready, e.1 ≠ rec

/-! ## Events: fault records, pre-emption, partitions and resets -/

/-- FAULT_RECORD writes a record of 32 bytes into its slot of the fault ring, unless an outstanding record holds the slot, and
raises vector 1 through the port of the die where the fault was met. -/
def FaultRecordsAreWritten : Prop := ∀ s p n r q slot, q = s.part p → (q.recs.find? fun r => r.seq = n && !r.written) = some r →
  slot = (n + 2 ^ 32 - 1) % 2 ^ 32 % 2 ^ ((sget q.ctx 4).toNat % 32) →
  ((∀ x ∈ q.recs, x.written = true → (x.seq + 2 ^ 32 - 1) % 2 ^ 32 % 2 ^ ((sget q.ctx 4).toNat % 32) ≠ slot) →
    (∀ x ∈ q.recs, x.verdict = none) → Leaves .faultRecord (.seq p n) s fun u =>
      u = ((s.setBytes (.glob ((sget q.ctx 3).toNat / 64 % 2 ^ 46 * 64 + 32 * slot)) (bytesOfDwords
        [BitVec.ofNat 64 (r.seq % 2 ^ 32 * 2 ^ 32 + r.code % 2 ^ 8 * 2 ^ 24 + r.engine % 4 * 2 ^ 19 + r.access % 8 * 2 ^ 16 + r.core % 2 ^ 10),
          r.addr, r.lanes, BitVec.ofNat 64 (r.pc % 2 ^ 52)])).setPart p { q with
            recs := q.recs.map fun x => if x.seq = n then { x with written := true } else x }).interrupt p 1
              (match r.who with
                | .queue j => q.qdie j
                | _ => dieOfCore r.core)) ∧
  ((∃ x ∈ q.recs, x.written = true ∧ (x.seq + 2 ^ 32 - 1) % 2 ^ 32 % 2 ^ ((sget q.ctx 4).toNat % 32) = slot) →
    (∀ x ∈ q.recs, x.verdict = none) → Leaves .faultRecord (.seq p n) s fun u => u = s)

/-- The verdict's record is gone and the replay register holds what was written. -/
def answered (s u : State) (p n : Nat) (x : Word) : Prop := (u.part p).replay = x ∧ ∀ r ∈ (u.part p).recs, r ∈ (s.part p).recs ∧ r.seq ≠ n

/-- VERDICT_REPLAY lets a parked path or channel run its access again, also the path that a drain or restore entry took
out of its park, and a parked queue go on; VERDICT_REFUSE makes it take its page fault, and stops a queue with QERR_PAGE; either
takes the record out. While the partition is frozen or saved the verdict waits in the record, whatever was parked, and
a refusal waits while a path's wave is in handler mode, but for one of the handler's own path. -/
def VerdictsAnswerRecords : Prop := ∀ s p n r, n < 2 ^ 32 → ((s.part p).recs.find? fun r => r.seq = n && r.written) = some r →
  (∀ w id x q, r.who = .path w id → aget s.waves w = some x → x.id = w → (x.paths.find? fun q => q.st = .parked n) = some q →
    x.path q.id = some q →
    ((s.part p).stage = .run → (Leaves .verdictReplay (.seq p n) s fun u => answered s u p n (BitVec.ofNat 64 n) ∧ ∃ y, aget u.waves w = some y ∧
        y.path q.id = some { q with st := .run } ∧ ∀ r l, y.reg r l = x.reg r l) ∧
      (x.trap = none ∨ q.handler = true → Leaves .verdictRefuse (.seq p n) s fun u => ∃ s1 : State,
        s1 = s.modPart p (fun q => { q with replay := BitVec.ofNat 64 (2 ^ 62 + n), recs := q.recs.filter fun x => decide (x.seq ≠ n) }) ∧
        u = takeFault s1 w q.id ⟨0x10, r.lanes, r.addr, r.pc, (r.pc - q.hdr) / 4,
          if q.idx = 0 then 0 else (q.clause.map fun c => hdrClass c.hdr).getD 0, false⟩) ∧
      (x.trap ≠ none → q.handler = false → Leaves .verdictRefuse (.seq p n) s fun u => u.waves = s.waves ∧
        ∀ y, y ∈ (u.part p).recs → y.seq = n → y.verdict = some true)) ∧
    ((s.part p).stage = .freeze ∨ (s.part p).stage = .saved → Leaves .verdictReplay (.seq p n) s fun u => u.waves = s.waves ∧
      ∀ y, y ∈ (u.part p).recs → y.seq = n → y.verdict = some false)) ∧
  (∀ w id x t, r.who = .path w id → aget s.waves w = some x → x.id = w → (∀ q ∈ x.paths, q.st ≠ .parked n) → x.trap = some t →
    t.held = .parked n → (s.part p).stage = .run → Leaves .verdictReplay (.seq p n) s fun u => answered s u p n (BitVec.ofNat 64 n) ∧
      ∃ y, aget u.waves w = some y ∧ y.trap = some { t with held := .run }) ∧
  ((s.part p).stage = .freeze ∨ (s.part p).stage = .saved → Leaves .verdictRefuse (.seq p n) s fun u => u.waves = s.waves ∧
    u.chans = s.chans ∧ (∀ j, u.queue p j = s.queue p j) ∧ ∀ y, y ∈ (u.part p).recs → y.seq = n → y.verdict = some true) ∧
  (∀ j q, r.who = .queue j → q = s.queue p j → (s.part p).stage = .run → q.st = .parked → q.seq = n → q.rseq ≠ n → q.lseq ≠ n →
    q.left = .decode → q.lrecs = [] → q.tail ≠ q.head → dist32 q.tail q.head ≤ q.slots →
    (Leaves .verdictReplay (.seq p n) s fun u => answered s u p n (BitVec.ofNat 64 n) ∧ u.queue p j = { q with st := .active }) ∧
    Leaves .verdictRefuse (.seq p n) s fun u => (u.queue p j).st = .error ∧ (u.queue p j).code = 0x86 ∧ (u.queue p j).head = q.head ∧
      (u.queue p j).recs = q.recs ++ [⟨q.gen, q.head, q.tag, 0, 0x86, 0, 0, 0, q.irq, []⟩]) ∧
  ∀ c, r.who = .chan c → (s.part p).stage = .run → (s.chan c).st = .parked → (s.chan c).seq = n → (∀ code, (s.chan c).halt ≠ .fault code) →
    (Leaves .verdictReplay (.seq p n) s fun u => answered s u p n (BitVec.ofNat 64 n) ∧
      u.chan c = { s.chan c with st := .running, code := 0 }) ∧
    Leaves .verdictRefuse (.seq p n) s fun u => ∃ s1 : State,
      s1 = s.modPart p (fun q => { q with replay := BitVec.ofNat 64 (2 ^ 62 + n), recs := q.recs.filter fun x => decide (x.seq ≠ n) }) ∧
      u = s1.chanFault c 0x43 (s.chan c).fpc (s.chan c).faddr

/-- SOFT_PREEMPTION stops dispatch; SOFT_STOP_COMPLETE, once no block of the partition is resident and no cooperative
grid of it runs, stops its top-level grids that
have undispatched blocks; RESUME lets them go on. QUANTUM_EXPIRY asks for a soft stop of a resident partition when its quantum is
over and its clusters are shared. A request made while another is under way waits. -/
def SoftPreemption : Prop :=
  (∀ s p, (s.part p).stage = .run → Leaves .softPreemption (.part p) s fun u => u = s.setPart p { s.part p with stage := .soft }) ∧
  (∀ s p, (s.part p).stage = .soft ∨ (s.part p).stage = .freeze → Leaves .softPreemption (.part p) s fun u =>
    u = s.setPart p { s.part p with nextReq := 1 }) ∧
  (∀ s p, (s.part p).stage = .soft → (s.part p).nextReq = 0 → (∀ e ∈ s.grids, e.2.lrec = 0) → (s.grids.map Prod.fst).Nodup →
    ((∀ e ∈ s.blocks, s.partOf e.2 ≠ p) → s.coopRuns p = false → Leaves .softStopComplete (.part p) s fun u => (u.part p).stage = .stopped ∧
      ∀ k g, aget s.grids k = some g → g.part = p → ∃ h, aget u.grids k = some h ∧
        h.st = (if g.launcher = none ∧ g.fault = none ∧ g.ended = false ∧ g.lowest (s.ncl p) < g.total then .stopped else g.st)) ∧
    ((∃ e ∈ s.blocks, s.partOf e.2 = p) ∨ s.coopRuns p = true → Leaves .softStopComplete (.part p) s fun u => u = s)) ∧
  (∀ s p, (s.part p).stage = .stopped → (∀ e ∈ s.grids, e.2.lrec = 0) → Leaves .resume (.part p) s fun u =>
    (u.part p).stage = .run ∧ (u.part p).since = s.time.elapsed ∧ ∀ k g, aget s.grids k = some g → g.part = p → g.st = .stopped →
      ∃ h, aget u.grids k = some h ∧ h.st = if g.start.isSome then .running else .queued) ∧
  ∀ s p quantum, quantum = (sget (s.part p).entry 11).toNat / 2 ^ 32 → (s.part p).state = 1 → (s.part p).stage = .run →
    Leaves .quantumExpiry (.part p) s fun u =>
      (quantum ≠ 0 → quantum * 1000 ≤ (s.time.elapsed - (s.part p).since).toNat →
        (∃ b ∈ s.resident, s.partOf b = p) → (∃ e ∈ s.parts, e.1 ≠ p ∧ e.2.state = 1 ∧ e.2.group = (s.part p).group ∧ ∃ c ∈ e.2.clusters, c ∈ (s.part p).clusters) →
        u = s.setPart p { s.part p with stage := .soft }) ∧
      (quantum = 0 ∨ (s.time.elapsed - (s.part p).since).toNat < quantum * 1000 ∨ (∀ b ∈ s.resident, s.partOf b ≠ p) → u = s)

/-- HARD_PREEMPTION freezes a partition whose handler and Saddlebag allow it, discarding its waves' twins, and is made
soft for another; MATRIX_FREEZE freezes an engine of a freezing partition once, frozen before or not, and its waves
enter their handler, or owe it from inside one, and make an owed entry once they have left it; SADDLEBAG_SAVE, once everything is at rest, spills the waves' return
stacks and takes windows, engines and channels off the cores; RESUME gives the windows back once their places are free, and until then waits, as a request made meanwhile does. -/
def HardPreemption : Prop :=
  (∀ s p, (s.part p).stage = .run ∨ (s.part p).stage = .stopped → Leaves .hardPreemption (.part p) s fun u =>
    (s.hardAllowed p = false → u = s.setPart p { s.part p with stage := .soft }) ∧
    (s.hardAllowed p = true → (u.part p).stage = .freeze ∧ (u.part p).since = s.time.elapsed ∧
      (∀ c ch, aget s.chans c = some ch → ch.part = p → ch.busy = true → ch.halt = .none → (u.chan c).halt = .freeze) ∧
      ∀ a, sget u.mem a = sget s.mem a)) ∧
  (∀ s k p b (bl : Block), (s.core k).mx.owner = some b → aget s.blocks b = some bl → s.partOf bl = p → (s.part p).stage = .freeze →
    Leaves .matrixFreeze (.core k) s fun u => ((s.part p).drained.contains k = true → u = s) ∧
      ((s.part p).drained.contains k = false → (u.core k).mx = { (s.core k).mx with frozen := true } ∧ (u.part p).drained = k :: (s.part p).drained ∧
        (∀ a, sget u.mem a = sget s.mem a) ∧ ∀ w x, aget s.waves w = some x → x.part = p → x.core = k → x.role = 2 → x.twin = none →
          (x.trap = none → x.paths ≠ [] → ∃ y t, aget u.waves w = some y ∧ y.trap = some t ∧ t.first = 0 ∧ t.addr = 0) ∧
          (x.trap ≠ none → (w, 0) ∈ (u.part p).drains))) ∧
  (∀ s k p b (bl : Block) w x a, (s.core k).mx.owner = some b → aget s.blocks b = some bl → s.partOf bl = p → (s.part p).stage = .run →
    (s.part p).drains = [(w, a)] → aget s.waves w = some x → x.core = k → x.trap = none → x.paths ≠ [] →
    Leaves .matrixFreeze (.core k) s fun u => (u.part p).drains = [] ∧
      ∃ y t, aget u.waves w = some y ∧ y.trap = some t ∧ t.first = 0 ∧ t.addr = BitVec.ofNat 64 a) ∧
  (∀ s p, (s.part p).stage = .freeze → s.atRest p = false → Leaves .saddlebagSave (.part p) s fun u => u = s) ∧
  (∀ (s t : State) p, (s.part p).stage = .freeze → s.atRest p = true → (s.part p).nextReq = 0 →
    t = ((s.waves.filter fun e => e.2.part = p).map Prod.fst).foldl State.spillAll s → Leaves .saddlebagSave (.part p) s fun u =>
    (u.part p).stage = .saved ∧ (u.part p).image = t.windowBytes p ∧ (∀ e ∈ u.chans, e.2.part ≠ p) ∧
    (∀ e ∈ t.enginesOf p, (u.core e.1).mx = Matrix.reset) ∧ (u.part p).engines = t.enginesOf p ∧ u.waves = t.waves ∧
    (∀ x ∈ u.msys.tlb, x.part ≠ p) ∧ (∀ a, sget u.mem a = sget t.mem a) ∧
    ((∀ e ∈ s.waves, e.2.stack = []) → u.waves = s.waves ∧ (u.part p).image = s.windowBytes p ∧ ∀ a, sget u.mem a = sget s.mem a)) ∧
  (∀ s p, (s.part p).stage = .saved → s.placesFree p = false → Leaves .resume (.part p) s fun u =>
    ((s.part p).resuming = false → u = s.setPart p { s.part p with resuming := true }) ∧
    ((s.part p).resuming = true → u = s.setPart p { s.part p with nextReq := 3 })) ∧
  (∀ s p, (s.part p).stage = .saved → (s.part p).resuming = true → Leaves .softPreemption (.part p) s fun u =>
    u = s.setPart p { s.part p with nextReq := 1 }) ∧
  ∀ s p, (s.part p).stage = .saved → s.placesFree p = true → (s.part p).nextReq = 0 → (s.part p).recs = [] → (s.part p).engines = [] →
    (s.part p).imageBad = false → keysFrom 0 (s.part p).image = true → Leaves .resume (.part p) s fun u => (u.part p).stage = .run ∧ (u.part p).resuming = false ∧
      (u.part p).image = [] ∧ u.waves = s.waves ∧ ∀ e ∈ (s.part p).image, sget u.scr e.1 = e.2

/-- PARTITION_ENABLE of a partition that is off puts it in state 1, or refuses it with err set where R401 names a reason;
PARTITION_RESET and PARTITION_DISABLE end everything it runs and abort its queues, in state 2; PARTITION_RESET_COMPLETE, once
its channels have halted, leaves it running or off. -/
def PartitionsComeAndGo : Prop :=
  (∀ s p, s.hw.ready = true → s.hw.off = false → Leaves .partitionEnable (.part p) s fun u =>
    ((s.part p).state = 0 → s.enableBad p = true → sget (u.part p).entry 0 = 0x10000 ∧ ∀ j, j ≠ p → u.part j = s.part j) ∧
    ((s.part p).state = 0 → s.enableBad p = false → sget (u.part p).entry 0 = 0x100 ∧ (u.part p).ctx = (s.part p).ctx ∧
      (u.part p).queues = (s.part p).queues ∧ (∀ a, sget u.mem a = sget s.mem a) ∧ ∀ j, j ≠ p → u.part j = s.part j) ∧
    ((s.part p).state ≠ 0 → u = s)) ∧
  (∀ s p i off, (i = .partitionReset ∧ off = false ∨ i = .partitionDisable ∧ off = true) → Leaves i (.part p) s fun u =>
    ((s.part p).state = 1 → (u.part p).state = 2 ∧ (u.part p).toOff = off ∧ (∀ e ∈ u.grids, e.2.part ≠ p) ∧ (∀ e ∈ u.waves, e.2.part ≠ p) ∧
      (u.part p).allocs = [] ∧ (∀ j q, aget (s.part p).queues j = some q → ∃ r, aget (u.part p).queues j = some r ∧
        (q.st = .disabled → r = { q with recs := [], owed := [], lrecs := [], lseq := 0, rseq := 0 }) ∧ (q.st ≠ .disabled → r.st = .aborted ∧ r.code = 0x85 ∧ r.recs = [] ∧ r.lrecs = [])) ∧
      ∀ k, localMem k = true → sget u.mem k = sget s.mem k) ∧
    ((s.part p).state ≠ 1 → u = s)) ∧
  ∀ s p, (s.part p).state = 2 → Leaves .partitionResetComplete (.part p) s fun u =>
    ((∀ e ∈ s.chans, e.2.part = p → e.2.busy = false) → (u.part p).state = (if (s.part p).toOff then 0 else 1) ∧ (u.part p).toOff = false ∧
      ((s.part p).toOff = true → (u.part p).ctx = [] ∧ (u.part p).breaks = [])) ∧
    ((∃ e ∈ s.chans, e.2.part = p ∧ e.2.busy = true) → u = s)

/-- COLD_RESET leaves every register of the module at its reset value and ready as bring-up ends; WARM_RESET turns every
partition off, gives the power cap and the monitors their reset values, zeroes the Saddlebag regions, keeps device
memory and the time, and is ignored during bring-up and, after a critical trip, until the dies are cool. -/
def ModuleResets : Prop :=
  (∀ s f m, Leaves .coldReset (.boot f m) s fun u => u.hw = { Module.reset with
      ready := f && m, fwerr := !f, memerr := f && !m } ∧ u.parts = [] ∧ u.waves = [] ∧ u.blocks = [] ∧ u.grids = [] ∧
    u.cores = [] ∧ u.chans = [] ∧ u.time = ⟨0, 0, 0, 0, 0, 0⟩ ∧ u.scr = [] ∧ u.msys = MemSys.reset ∧
    ∀ a, region a = .host → sget u.mem a = sget s.mem a) ∧
  (∀ s f m, s.hw.ready = false → s.hw.fwerr = false → s.hw.memerr = false → Leaves .warmReset (.boot f m) s fun u => u = s) ∧
  ∀ s f m, s.hw.ready = true ∨ s.hw.fwerr = true ∨ s.hw.memerr = true → Leaves .warmReset (.boot f m) s fun u =>
    (s.hw.off = true → (∃ e ∈ s.hw.mons, 680 ≤ e.2.temp) → u = s) ∧
    (s.hw.off = false ∨ (∀ e ∈ s.hw.mons, e.2.temp < 680) → u.hw.off = false ∧ u.hw.ready = (f && m) ∧ u.hw.fwerr = !f ∧
      u.hw.memerr = (f && !m) ∧ u.time = s.time ∧
      u.hw.cap = 4800 ∧ (∀ d m, aget s.hw.mons d = some m → ∃ n, aget u.hw.mons d = some n ∧ n.temp = m.temp ∧ n.fstep = 33 ∧
        n.reason = 0 ∧ n.trip = 0 ∧ n.cerr = 0 ∧ n.uaddr = 0) ∧ (∀ e ∈ u.parts, e.2.state = 0 ∧ e.2.ctx = []) ∧ u.cores = [] ∧ u.chans = [] ∧ u.scr = [] ∧
      (∀ k, localMem k = true → sget u.mem k = sget s.mem k) ∧ ∀ k d, region k = .saddlebag d → sget u.mem k = 0)

/-! ## Events: channels, fetches and matrix engines -/

/-- The channel takes steps of its own. -/
def chanRuns (k : Chan) (ph : ChanPh) : Prop := (k.st = .running ∨ k.st = .waiting) ∧ k.halt = .none ∧ k.ph = ph

/-- RECORD_START ends a chain that AWL.STOP stopped, and else reads a channel's next record: without its own bit the
chain ends in state 0; a malformed one faults the channel with AWL_RECORD; a well-formed one without ranges clears the
registers and starts its program at once, and one with ranges enters them, at LOCK_ENTRY too, or waits in state 2. -/
def RecordsStart : Prop :=
  (∀ s c, chanRuns (s.chan c) .start → (s.chan c).stop = true → Leaves .recordStart (.chan c) s fun u =>
    (u.chan c).st = .stopped ∧ ∀ a, sget u.mem a = sget s.mem a) ∧
  (∀ s c (runs : List (List (Loc × Nat))) (s1 : State) d, chanRuns (s.chan c) .start → (s.chan c).stop = false →
    s.engineX (s.chan c) [⟨.glob, (s.chan c).nextRec, 64, .load, 1⟩] = .ok (runs, s1) →
    d = dwordsOf (s1.readRuns (dieOfCore (s.chan c).core) runs.flatten) → Leaves .recordStart (.chan c) s fun u =>
      ((dw d 0).getLsbD 63 = false → (u.chan c).st = .idle ∧ ∀ a, sget u.mem a = sget s1.mem a) ∧
      ((dw d 0).getLsbD 63 = true → (s.chan c).recordBad d = true →
        u = (s1.setChan c { s.chan c with dwords := d, recd := (s.chan c).nextRec, ph := .lock }).chanFault c 0x41 (s.chan c).nextRec 0) ∧
      ((dw d 0).getLsbD 63 = true → (s.chan c).recordBad d = false → (dw d 1).toNat / 2 ^ 62 = 0 →
        u.chan c = { s.chan c with st := .running, ph := .run, dwords := d, recd := (s.chan c).nextRec, x := [], td := [], bytes := 0
                                   hdr := (dw d 1).toNat % 2 ^ 52, idx := 0, clause := none } ∧
        ∀ a, sget u.mem a = sget s1.mem a)) ∧
  ∀ s c, chanRuns (s.chan c) .lock → (s.chan c).ranges c (s.chan c).dwords ≠ [] → (∀ l ∈ s.msys.locks, l.owner ≠ c) →
    Leaves .lockEntry (.chan c) s fun u => (∀ a, sget u.mem a = sget s.mem a) ∧
      (((s.chan c).ranges c (s.chan c).dwords).length ≤ s.lockRoom (s.chan c).core →
        u.msys.locks = s.msys.locks ++ (s.chan c).ranges c (s.chan c).dwords ∧
        ((∀ l ∈ (s.chan c).ranges c (s.chan c).dwords, s.admitted (s.chan c).part l = false) → (u.chan c).st = .running ∧
          (u.chan c).ph = .run ∧ (u.chan c).hdr = (dw (s.chan c).dwords 1).toNat % 2 ^ 52) ∧
        ((∃ l ∈ (s.chan c).ranges c (s.chan c).dwords, s.admitted (s.chan c).part l = true) → (u.chan c).st = .waiting ∧
          (u.chan c).ph = .lock)) ∧
      (s.lockRoom (s.chan c).core < ((s.chan c).ranges c (s.chan c).dwords).length → u.msys.locks = s.msys.locks ∧
        (u.chan c).st = .waiting ∧ (u.chan c).ph = .lock)

/-- RECORD_COMPLETE releases the record's ranges, clears its own bit with a 4-byte write, which it also makes after a park,
counts it and goes on: to the next record, or to state 0 at the last, or to state 5 when the chain is to stop; a future's
resolution waits in state 2 while the die's ports hold writes. CHANNEL_HALT ends a chain whose block or grid has ended, after the
own write of a record whose action has been performed, parked again while that meets an invalid entry; it resets the channel with
its partition, or freezes it. -/
def RecordsCompleteAndChannelsHalt : Prop :=
  (∀ s c (k : Chan) (runs : List (List (Loc × Nat))) (s1 s2 : State), k = s.chan c →
    (chanRuns k .finish ∧ recAction k.dwords = 0 ∧ s2 = (s.dropLocks c).modChan c (fun k => { k with ph := .own, st := .running }) ∨
      chanRuns k .own ∧ s2 = s) →
    s2.engineX (s2.chan c) [⟨.glob, (k.recd + 4 : Nat), 4, .store, 1⟩] = .ok (runs, s1) →
    Leaves .recordComplete (.chan c) s fun u => (u.chan c).done = k.done + 1 ∧ (k.ph = .finish → ∀ l ∈ u.msys.locks, l.owner ≠ c) ∧
      (∀ a, sget u.mem a = sget (s1.writeRuns (s2.chan c).writer runs.flatten (bytesOf 4 ((dw k.dwords 0).toNat / 2 ^ 32 % 2 ^ 31))).mem a) ∧
      (k.stop = true → (u.chan c).st = .stopped) ∧
      (k.stop = false → recNext k.dwords = 0 → (u.chan c).st = .idle) ∧
      (k.stop = false → recNext k.dwords ≠ 0 → (u.chan c).st = .running ∧ (u.chan c).ph = .start ∧ (u.chan c).nextRec = recNext k.dwords)) ∧
  (∀ s c (k : Chan), k = s.chan c → chanRuns k .finish → recAction k.dwords = 3 → (∃ p ∈ s.msys.ports, p.die = dieOfCore k.core) →
    Leaves .recordComplete (.chan c) s fun u => u.chan c = { k with st := .waiting } ∧ ∀ a, sget u.mem a = sget s.mem a) ∧
  ∀ s c (k : Chan), k = s.chan c → (k.st = .running ∨ k.st = .waiting ∨ k.st = .parked ∨ k.st = .frozen) →
    Leaves .channelHalt (.chan c) s fun u => (∀ j, j ≠ c → u.chan j = s.chan j) ∧
      (¬ (k.ph = .own ∧ ∃ code, k.halt = .fault code) → ∀ a, sget u.mem a = sget s.mem a) ∧
      (∀ code (runs : List (List (Loc × Nat))) (s1 : State), k.ph = .own → k.halt = .fault code →
        s.engineX k [⟨.glob, (k.recd + 4 : Nat), 4, .store, 1⟩] = .ok (runs, s1) → (u.chan c).done = k.done + 1 ∧
        ∀ a, sget u.mem a = sget (s1.writeRuns k.writer runs.flatten (bytesOf 4 ((dw k.dwords 0).toNat / 2 ^ 32 % 2 ^ 31))).mem a) ∧
      (k.halt = .none → u = s) ∧
      (∀ code access a, k.ph = .own → k.halt = .fault code →
        s.engineX k [⟨.glob, (k.recd + 4 : Nat), 4, .store, 1⟩] = .error (.page access a) →
        (k.st ≠ .parked → u = s.chanPark c access k.recd a) ∧
        (k.st = .parked → (∃ r ∈ (s.part k.part).recs, r.seq = k.seq ∧ r.who = .chan c) → u = s)) ∧
      (∀ code, k.halt = .fault code →
        (k.ph = .own → ∀ access a, s.engineX k [⟨.glob, (k.recd + 4 : Nat), 4, .store, 1⟩] ≠ .error (.page access a)) →
        (u.chan c).st = .faulted ∧ (u.chan c).code = code ∧ ∀ l ∈ u.msys.locks, l.owner ≠ c) ∧
      (k.halt = .reset → u.chan c = Chan.reset ∧ ∀ l ∈ u.msys.locks, l.owner ≠ c) ∧
      (k.halt = .freeze → k.st = .running ∨ k.st = .waiting → u.chan c = { k with st := .frozen, stash := k.st, halt := .none })

/-- CLAUSE_FETCH and PROGRAM_FETCH take the clause that stands where a path or channel is: one that fits its block, is
well formed and of a class its agent may run is there whole afterwards; a zero word is passed as a pad; one that does not fit
faults at its header with FETCH_ALIGN, a malformed one with CLAUSE_FORMAT, one of a class that the wave's role may not run with
ROLE_VIOLATION, and any such header, another class or a wait bit on a channel with AWL_ILLEGAL; lanes whose meeting point a header
is wait there. The words are those that memory held at the
grid's launch, or where the grid itself has written bytes of one since, those or the ones it holds now. -/
def ClausesAreFetched : Prop :=
  (∀ s w p (x : Wave) (q : Path) (y : Xlat) h, aget s.waves w = some x → x.id = w → x.path p = some q → q.id = p → q.clause = none → q.idx = 0 →
    x.mayRun q = true → x.twin = none → x.forks = [] → x.strict = false → s.frozenPart x = false → s.scheduled x = true →
    q.hdr % 4 = 0 →
    s.translate x.part (BitVec.ofNat 64 q.hdr) .fetch = .ok y → s.msys.poison = [] →
    h = ({ s.touch x.part y false with fresh := s.fresh + 1 } : State).codeWord x.grid y.pa → Leaves .clauseFetch (.path w p) s fun u =>
      (h = 0 → ∃ z, aget u.waves w = some z ∧ z.path p = some { q with hdr := q.hdr + 4 }) ∧
      (h ≠ 0 → ((∀ l, inLanes q.lanes l = true → q.hdr = 0 ∨ sget x.mtg l ≠ BitVec.ofNat 64 q.hdr)) → hdrFits q.hdr h = true → hdrOk h = true → roleOk x.role (hdrClass h) = true →
        ∃ z k, aget u.waves w = some z ∧ z.path p = some { q with clause := some k, idx := 1, head := true } ∧ k.hdr = h ∧
          k.words.length = (h.extractLsb 31 28).toNat ∧ ∀ i, i < (h.extractLsb 31 28).toNat →
            k.words.getD i 0 = ({ s.touch x.part y false with fresh := s.fresh + 1 } : State).codeWord x.grid (y.pa + 4 * (i + 1))) ∧
      (h ≠ 0 → (∃ l, inLanes q.lanes l = true ∧ l < 64 ∧ q.hdr ≠ 0 ∧ sget x.mtg l = BitVec.ofNat 64 q.hdr) →
        u.waves = (({ s.touch x.part y false with fresh := s.fresh + 1 } : State).setWave (x.reachHeader q)).waves) ∧
      (h ≠ 0 → (∀ l, inLanes q.lanes l = true → q.hdr = 0 ∨ sget x.mtg l ≠ BitVec.ofNat 64 q.hdr) → hdrFits q.hdr h = false → u = takeFault { s.touch x.part y false with fresh := s.fresh + 1 } w p
        ⟨0x04, q.lanes, 0, q.hdr, 0, hdrClass h, false⟩) ∧
      (h ≠ 0 → (∀ l, inLanes q.lanes l = true → q.hdr = 0 ∨ sget x.mtg l ≠ BitVec.ofNat 64 q.hdr) → hdrFits q.hdr h = true →
        (hdrOk h = false ∨ roleOk x.role (hdrClass h) = false) →
        u = takeFault { s.touch x.part y false with fresh := s.fresh + 1 } w p
          ⟨if hdrOk h then 0x05 else 0x03, q.lanes, 0, q.hdr, 0, hdrClass h, false⟩)) ∧
  (∀ (s : State) g pa, (∀ gr m, aget s.grids g = some gr → gr.code = some m → ∀ k, k < 4 → sget m (pa + k) = sget s.mem (pa + k)) →
    s.codeWord g pa = BitVec.ofNat 32 (ofBytes (s.bytes (.glob pa) 4))) ∧
  (∀ (s : State) g pa gr m, aget s.grids g = some gr → gr.code = some m → (∀ w ∈ gr.own, overlaps w.1 w.2 pa 4 = false) →
    s.codeWord g pa = BitVec.ofNat 32 (ofBytes ((List.range 4).map fun k => sget m (pa + k)))) ∧
  (∀ (s : State) g pa gr m, aget s.grids g = some gr → gr.code = some m → s.codeWord g pa = BitVec.ofNat 32 (ofBytes (s.bytes (.glob pa) 4)) ∨
    s.codeWord g pa = BitVec.ofNat 32 (ofBytes ((List.range 4).map fun k => sget m (pa + k)))) ∧
  ∀ s c (y : Xlat) h, chanRuns (s.chan c) .run → (s.chan c).clause = none → (s.chan c).hdr % 4 = 0 →
    s.translate (s.chan c).part (BitVec.ofNat 64 (s.chan c).hdr) .fetch = .ok y → s.msys.poison = [] →
    h = ({ s.touch (s.chan c).part y false with fresh := s.fresh + 1 } : State).codeWord (s.chan c).grid y.pa → Leaves .programFetch (.chan c) s fun u =>
      (h = 0 → u.chan c = { s.chan c with hdr := (s.chan c).hdr + 4, idx := 0 }) ∧
      (h ≠ 0 → hdrFits (s.chan c).hdr h = true → hdrOk h = true → hdrClass h = 4 → (h.extractLsb 24 19).toNat = 0 →
        ∃ k, u.chan c = { s.chan c with clause := some k, idx := 1 } ∧ k.hdr = h ∧ k.words.length = (h.extractLsb 31 28).toNat) ∧
      (h ≠ 0 → (hdrFits (s.chan c).hdr h = false ∨ hdrOk h = false ∨ hdrClass h ≠ 4 ∨ (h.extractLsb 24 19).toNat ≠ 0) →
        u = ({ s.touch (s.chan c).part y false with fresh := s.fresh + 1 } : State).chanFault c 0x42 (s.chan c).hdr 0)

/-- MC_RESERVE completes: a channel that waits at an MV.MC, on an engine that issues nothing else at this clock, tries its
word again, with what the word does: it waits on while a receiver has no credit left, and else writes every slot. -/
def WaitingMulticastsTryAgain : Prop := ∀ (s s0 : State) c (cl : Clause) words next o e,
  (s.chan c).st = .waiting → (s.chan c).ph = .run → (s.chan c).halt = .none → (s.chan c).clause = some cl →
  cl.next (s.chan c).idx = .words words next → words.pfx = none → decode (.engine (cl.restLit next)) words = .ok (.mvMc o) →
  (∀ e ∈ s.chans, e.1 / 4 = c / 4 → e.2.issued ≠ s.clock + 1) →
  s0 = { s.modChan c fun k => { k with issued := s.clock + 1 } with cur := .chan c (s.chan c).hdr cl.hdr (s.chan c).idx next } →
  e = ⟨c, s0.chan c, (s.chan c).hdr, cl.hdr, (s.chan c).idx, next⟩ →
  multicasts o s0 e fun P => Leaves .mcReserve (.chan c) s P

/-- The operation at the head of a core's engine, which runs. -/
def mxAt (s : State) (k : Nat) (o : MxOp) (rest : List MxOp) (step : Nat) : Prop :=
  (s.core k).mx.ops = o :: rest ∧ o.step = step ∧ (s.core k).mx.frozen = false ∧ (s.core k).mx.parked = none

/-- The element (i, j) of tile `t`. -/
def accAt (m : Matrix) (t i j : Nat) : BitVec 32 := sget m.acc (t * 4096 + i * 64 + j)

/-- MATRIX_OPERATION_START: an operation whose tile has a row in the pop queue waits; a multiplication goes on to its
gate, locks or first chunk with its tile as it was; MX.ZERO, MX.LOADACC and MX.STACC do their whole work on one tile. -/
def MatrixOperationsStart : Prop := ∀ s k o rest, mxAt s k o rest 1 →
  (∀ d seq, o.kind = .mul d seq → Leaves .matrixOperationStart (.core k) s fun u =>
    ((∃ e ∈ (s.core k).mx.pops, e.1 = mxAcc d) → u = s) ∧
    ((∀ e ∈ (s.core k).mx.pops, e.1 ≠ mxAcc d) →
      (u.core k).mx.ops = { o with step := if mxGate d then 2 else if (dw d 0).getLsbD 44 then 3 else 4 } :: rest ∧
      (u.core k).mx.acc = (s.core k).mx.acc)) ∧
  (∀ t, (∀ e ∈ (s.core k).mx.pops, e.1 ≠ t) → Leaves .matrixOperationStart (.core k) s fun u =>
    (o.kind = .zero t → (u.core k).mx.ops = { o with step := 7 } :: rest ∧ ∀ i j, i < 64 → j < 64 → accAt (u.core k).mx t i j = 0) ∧
    ∀ a, o.kind = .loadacc t a → s.msys.eccBad = [] → (u.core k).mx.ops = { o with step := 7 } :: rest ∧
      ∀ i j, i < 64 → j < 64 → accAt (u.core k).mx t i j = BitVec.ofNat 32 (ofBytes (s.bytes (.scr k (a + 256 * i + 4 * j)) 4))) ∧
  ∀ t a, o.kind = .stacc t a → Leaves .matrixOperationStart (.core k) s fun u => (u.core k).mx.ops = { o with step := 7 } :: rest ∧
    (∀ i j, i < 64 → j < 64 → u.bytes (.scr k (a + 256 * i + 4 * j)) 4 = bytesOf 4 (accAt (s.core k).mx t i j).toNat) ∧
    ∀ b, (b < scrKey k a ∨ scrKey k a + 16384 ≤ b) → sget u.scr b = sget s.scr b

/-- GATE_OBSERVE lets an operation pass once its gate's slot is full in its phase; MATRIX_LOCK_ENTRY once its ranges
stand and the accesses admitted before have been performed; neither moves it otherwise. -/
def MatrixGatesAndLocks : Prop :=
  (∀ s k o rest d seq r i ph (s1 : State) (x : Xlat), mxAt s k o rest 2 → o.kind = .mul d seq →
    s.mxGateSlot k o d seq = .ok (r, i, ph, s1) → s1.ringMem o.part r = .ok x → s1.poisoned (.glob (x.pa + 64 + i)) 1 = false →
    (s1.slotByte x.pa i).toNat < 4 →
    Leaves .gateObserve (.core k) s fun u =>
      (s1.slotByte x.pa i = BitVec.ofNat 8 (1 + if ph then 2 else 0) →
        (u.core k).mx.ops = { o with step := if (dw d 0).getLsbD 44 then 3 else 4 } :: rest) ∧
      (s1.slotByte x.pa i ≠ BitVec.ofNat 8 (1 + if ph then 2 else 0) → u = s)) ∧
  ∀ s k o rest d seq (t : State) ok, mxAt s k o rest 3 → o.kind = .mul d seq →
    s.lockStep (1152 + k) o.part [o.lockOf k (mxA d) (mxK d), o.lockOf k (mxB d) (mxK d)] = (t, ok) →
    Leaves .matrixLockEntry (.core k) s fun u => u.msys.locks = t.msys.locks ∧
      (u.core k).mx.ops = (if ok then { o with step := 4 } else o) :: rest ∧ ∀ a, sget u.mem a = sget s.mem a

/-- K_CHUNK adds one chunk of up to 32 products to every element of the tile, each element the one rounding of its exact
sum, the first starting from zeros where the block says so, and goes on to the next chunk; MATRIX_COMPLETION, where no
release and no action is left, hands the tile's rows to the pop queue and raises the completed ticket. -/
def MatrixChunksAndCompletion : Prop :=
  (∀ s k o rest d seq, mxAt s k o rest 4 → o.kind = .mul d seq → s.msys.eccBad = [] → o.chunk + 1 < mxChunks d →
    mxM d ≤ 64 → mxN d ≤ 64 → Leaves .kChunk (.core k) s fun u => (u.core k).mx.ops = { o with chunk := o.chunk + 1 } :: rest ∧
      (∀ a, sget u.mem a = sget s.mem a) ∧ ∀ i j, i < 64 → j < 64 → accAt (u.core k).mx (mxAcc d) i j =
        if i < mxM d ∧ j < mxN d then BitVec.ofNat 32 (fpSumWrite fmtF32 ⟨0, (dw d 0).getLsbD 46, false, false⟩
          (fpDecode fmtF32 (if o.chunk = 0 ∧ (dw d 0).getLsbD 47 = true then 0 else accAt (s.core k).mx (mxAcc d) i j).toNat :: List.zipWith (mxProduct (mxInt (mxA d).fmt))
            (s.mxRow o (mxA d) (mxK d) i o.chunk) (s.mxRow o (mxB d) (mxK d) j o.chunk)))
        else accAt (s.core k).mx (mxAcc d) i j) ∧
  ∀ s k o rest n, mxAt s k o rest n → 5 ≤ n → ((∃ d seq, o.kind = .mul d seq ∧ mxGrel d = false ∧ mxAction d = 0) ∨
      ∀ d seq, o.kind ≠ .mul d seq) → n ≠ 6 →
    Leaves .matrixCompletion (.core k) s fun u => (u.core k).mx.ops = rest ∧ (u.core k).mx.completed = o.ticket ∧
      (u.core k).mx.pops = (s.core k).mx.pops ++ (match o.kind with
        | .mul d _ => if (dw d 0).getLsbD 45 then (List.range (mxM d)).map fun i => (mxAcc d, i) else []
        | _ => []) ∧ ∀ a, sget u.mem a = sget s.mem a

/-! ## What every word shares -/

/-- The checks before a word come in their order, and the first that fails is raised at the word, before any of its
effect: a word at which a twin stalls waits, and one whose counter is full; a register beyond those declared raises REG_RANGE, a
role that may not run it ROLE_VIOLATION, a register still owed under stallcheck STALL_SHORT; a cross-lane word waits while a
lane of its mask is parked. An engine word in a wave's clause raises ILLEGAL_OP. -/
def ChecksComeBeforeTheWord : Prop := ∀ i g s c, AtWord i g s c →
  (g.cls ≠ .eng → c.w.twin.isSome = true → stallsTwin i g = true → exec i s = .next s) ∧
  (g.cls ≠ .eng → c.w.twin.isSome = false ∨ stallsTwin i g = false →
    ((∃ k, g.ctr = some k ∧ 63 ≤ c.w.ctr.getD k 0) → exec i s = .next s) ∧
    ((∀ k, g.ctr = some k → c.w.ctr.getD k 0 < 63) →
      ((∃ f ∈ sigFields g, fldTooHigh f c.w.vregs c.w.sregs = true) → Raises i g s c 0x07 c.act 0) ∧
      ((∀ f ∈ sigFields g, fldTooHigh f c.w.vregs c.w.sregs = false) →
        (roleRuns i g c.w.role = false → Raises i g s c 0x05 c.act 0) ∧
        (roleRuns i g c.w.role = true →
          (c.w.stallcheck = true → ((∃ r ∈ sigReads g, c.w.owed c.t r = true) ∨
              ∃ r ∈ sigWrites g, ∃ o ∈ c.w.ops, o.owes.contains r = true) →
            Raises i g s c 0x06 c.act 0) ∧
          ((c.w.stallcheck = true → (∀ r ∈ sigReads g, c.w.owed c.t r = false) ∧
              ∀ r ∈ sigWrites g, ∀ o ∈ c.w.ops, o.owes.contains r = false) →
            crossLane i = true → maskLanes c.w c.t c.fresh c.w.parked c.pfx ≠ 0 → exec i s = .next s))))) ∧
  (g.cls = .eng → exec i s = .next (takeFault s c.w.id c.p.id ⟨0x01, c.p.lanes, 0, c.addr, c.idx, (c.hword.extractLsb 27 25).toNat, false⟩))

/-- An unassigned entry decodes to itself in any clause, with any prefix and literal, and raises ILLEGAL_OP where it stands in a
wave's clause; there the entries 0x1B0 to 0x1DF are refused too. On an engine it raises AWL_ILLEGAL, as a wave's word does. -/
def UnassignedWordsAreIllegal : Prop :=
  (∀ pl x, assignedOpc (opcodeOf x.word) = false → decode pl x = .ok (.unassignedEntry x.word)) ∧
  (∀ k last x, 0x1B0 ≤ opcodeOf x.word → opcodeOf x.word ≤ 0x1DD → assignedOpc (opcodeOf x.word) = true →
    decode (.wave k last) x = .error .illegalOp) ∧
  (∀ w (s : State) wid pid hdr hword idx next (x : Wave) (p : Path), s.cur = .wave wid pid hdr hword idx next → aget s.waves wid = some x →
    x.path pid = some p → exec (.unassignedEntry w) s =
      .next (takeFault s wid pid ⟨0x01, p.lanes, 0, hdr + 4 * idx, idx, (hword.extractLsb 27 25).toNat, false⟩)) ∧
  ∀ i (s : State) c hdr hword idx next, s.cur = .chan c hdr hword idx next → ((∃ w, i = .unassignedEntry w) ∨ ∃ g, i.sig = some g ∧ g.cls ≠ .eng) →
    exec i s = .next (s.chanFault c 0x42 (hdr + 4 * idx) 0)

/-! ## Encoding and the step -/

/-- Words that the spec writes out, decoded: one or more of each family. -/
def SpecWordsDecode : Prop :=
  decode .bare ⟨none, 0x00414286, none⟩ = .ok (.add .i32 ⟨0, 5, 5, 6, none, none⟩) ∧
  decode .bare ⟨none, 0x0AC04103, none⟩ = .ok (.cmpLt .i32 ⟨0, 1, 2, 3, none, none⟩) ∧
  decode .bare ⟨none, 0x22A0C082, none⟩ = .ok (.ucmpLt .n ⟨0, 3, 1, 2, none⟩) ∧
  decode .bare ⟨none, 0x91A20103, none⟩ = .ok (.fma .f32 ⟨2, 8, 2, 3, none, none⟩) ∧
  decode .bare ⟨none, 0x9C428103, some 0x00005414⟩ = .ok (.dot .e4m3 ⟨2, 10, 2, 3, some 0x00005414, none⟩) ∧
  decode .bare ⟨none, 0xDF218200, none⟩ = .ok (.redux .maxixF32 ⟨3, 6, 4, 0, none, none⟩) ∧
  decode .bare ⟨none, 0x30600500, some 0x00001000⟩ = .ok (.barExpect ⟨0, 0, 10, 0, some 0x00001000⟩) ∧
  decode .bare ⟨none, 0x2BA10358, none⟩ = .ok (.cas .n64 ⟨0, 4, 6, .dev, .acqrel, 0⟩) ∧
  decode .bare ⟨none, 0x2CC14003, none⟩ = .ok (.recv ⟨0, 5, 0, 3, none⟩) ∧
  decode .bare ⟨none, 0x38A117FD, none⟩ = .ok (.aLoop ⟨0, 1, 2, 0x7FD⟩) ∧
  decode .bare ⟨none, 0x3C00C301, none⟩ = .ok (.awlGo ⟨0, 3, 6, 1, none⟩) ∧
  decode .bare ⟨none, 0x3400C307, none⟩ = .ok (.mxIssue ⟨0, 3, 6, 7, none⟩) ∧
  decode .bare ⟨none, 0xB2C14001, none⟩ = .ok (.movd ⟨2, 5, 0, 1, none⟩)

/-- Decoding undoes encoding: every well-formed word instruction of every family, with every operand, prefix and literal its
encoding admits, comes back from its own words. -/
def DecodingUndoesEncoding : Prop := ∀ i g, i.sig = some g → i.wf = true → ∃ x, encode i = some x ∧ decode .bare x = .ok i

/-- The port that issues a word (R75). -/
def wordPort (w : BitVec 32) : Nat := ((Decode.build w none none).sig.map sigPort).getD 2

/-- A step runs the decoded word: where the first turn listed is a path's that is ready, its clause holds a word that
decodes and the port of the word takes it, the step is `exec` of that instruction once the wave's stall is over, with
the cursor at the word; a port that is taken lets a clock pass, and a word that its counter's ceiling holds, or whose port
chooses another wave, stays where it is; at a header where a breakpoint stands the path stops before the word; a
channel's turn likewise; an event's turn is `exec` of the event with its operands; with no turn listed, a clock passes and
the usual agent takes its turn. -/
def StepRunsTheDecodedWord : Prop :=
  (∀ (s s0 : State) rest w pid (x : Wave) (p : Path) (cl : Clause) words next i t, s.turns = .issue w pid :: rest →
    s0 = { s with turns := rest } → aget s.waves w = some x → x.path pid = some p →
    p.clause = some cl → x.mayRun p = true → (∀ t, x.twin = some t → t.held = none) →
    s0.frozenPart x = false → s0.scheduled x = true →
    (p.idx = 1 → ∀ k, k < 6 → hdrWaits cl.hdr k = true → x.ctr.getD k 0 = 0) → cl.next p.idx = .words words next →
    decode (.wave (hdrClass cl.hdr) (cl.restLit next)) words = .ok i → t = max s.clock x.ready →
    (p.idx = 1 → p.head = true → (s.part x.part).breaks.contains p.hdr = true →
      step s = .next ((((s0.pass (t - s.clock)).nowRuns x).turns_ x p).breakAt x p)) ∧
    ((p.idx = 1 → p.head = true → (s.part x.part).breaks.contains p.hdr = false) →
      ((∃ g, (Decode.build words.word none none).sig = some g ∧ x.atCeiling g = true) → step s = .next s0) ∧
      ((∀ g, (Decode.build words.word none none).sig = some g → x.atCeiling g = false) →
        (s0.portFree x (wordPort words.word) t = false → step s = .next (s0.pass 1)) ∧
        (s0.portFree x (wordPort words.word) t = true → s0.portPicks x (wordPort words.word) t = false → step s = .next s0) ∧
        (s0.portFree x (wordPort words.word) t = true → s0.portPicks x (wordPort words.word) t = true → step s = exec i
          { ((s0.pass (t - s.clock)).nowRuns x).turns_ x p with cur := .wave w pid p.hdr cl.hdr p.idx next })))) ∧
  (∀ (s s0 : State) rest c (cl : Clause) words next i, s.turns = .chan c :: rest → s0 = { s with turns := rest } →
    ((s.chan c).st = .running ∨ (s.chan c).st = .waiting) →
    (s.chan c).ph = .run → (s.chan c).halt = .none → (s.chan c).clause = some cl → cl.next (s.chan c).idx = .words words next → words.pfx = none →
    decode (.engine (cl.restLit next)) words = .ok i →
    ((∃ e ∈ s.chans, e.1 / 4 = c / 4 ∧ e.2.issued = s.clock + 1) → step s = .next (s0.pass 1)) ∧
    ((∀ e ∈ s.chans, e.1 / 4 = c / 4 → e.2.issued ≠ s.clock + 1) → ((s.chan c).st = .running → s0.enginePicks c = true) →
      step s = exec i { s0.modChan c fun k => { k with issued := s.clock + 1 } with
        cur := .chan c (s.chan c).hdr cl.hdr (s.chan c).idx next })) ∧
  (∀ (s : State) rest i a, s.turns = .event i a :: rest → i.sig = none → (∀ w, i ≠ .unassignedEntry w) →
    step s = exec i { s with turns := rest, cur := .event a }) ∧
  ∀ (s : State), s.turns = [] → (∀ t, (s.pass 1).usual = some t → step s = step { s.pass 1 with turns := [t] }) ∧
    ((s.pass 1).usual = none → step s = .next (s.pass 1))

/-- Every step goes on: no state stops the machine. -/
def EveryStepGoesOn : Prop := ∀ s : State, ∃ t, step s = .next t

/-- The words whose whole effect is on registers of their wave: the integer, predicate, floating-point, conversion,
cross-lane and control-field vector words, and the uniform words (R127 to R168). -/
def registerWord : Instr → Bool
  | .add .. | .sub .. | .mul .. | .mulhi .. | .min .. | .max .. | .mad .. | .and .. | .or .. | .xor .. | .andn ..
    | .not .. | .popc .. | .clz .. | .brev .. | .sel .. | .shl .. | .shr .. | .bfe .. | .bfi .. | .cmpEq ..
    | .cmpNe .. | .cmpLt .. | .cmpLe .. | .pand .. | .por .. | .pxor .. | .pnot .. | .mov .. | .movImm .. | .movs ..
    | .lid .. | .movp .. | .ptst .. | .addc .. | .subb .. | .abs .. | .neg .. | .wid .. | .nar .. | .lea ..
    | .fadd .. | .fsub .. | .fmul .. | .fma .. | .fmin .. | .fmax .. | .fmaxix .. | .frnd .. | .fcmpEq ..
    | .fcmpNe .. | .fcmpLt .. | .fcmpLe .. | .fcmpUn .. | .fclass .. | .frcp .. | .frsq .. | .fsqrt .. | .fdiv ..
    | .fexp2 .. | .flog2 .. | .fsin .. | .fcos .. | .ftanh .. | .cvt .. | .cvts .. | .sclSc8F32 .. | .kqdec ..
    | .dot .. | .dot8 .. | .dot4 .. | .shfl .. | .shflX .. | .shflUp .. | .shflDn .. | .bcast .. | .redux ..
    | .vote .. | .perm .. | .fctlRd .. | .fctlWr .. | .uadd .. | .usub .. | .umul .. | .umulhi .. | .umin ..
    | .umax .. | .uand .. | .uor .. | .uxor .. | .ushl .. | .ushr .. | .umov .. | .umovImm .. | .movl .. | .ulane ..
    | .ucmpEq .. | .ucmpNe .. | .ucmpLt .. | .ucmpLe .. | .upopc .. | .uclz .. => true
  | _ => false

/-- A word that writes registers completes for every operand, whatever the registers hold: past the checks before it, it
answers a next state in which its path has moved past it and nothing has changed but the registers it writes. -/
def RegisterWordsComplete : Prop := ∀ i g s c, registerWord i = true → i.wf = true → AtWord i g s c → Clear i g c →
  ∃ u, exec i s = .next u ∧ OnlyRegs (fun r _ => r ∈ writesOf i g) s u c

/-- Right after reset: the module is not ready, its registers have the values the spec gives, every partition is off with its
vectors masked and its queues disabled, time is 0, nothing runs, and memory is in canonical form. A byte of memory that nothing
has written reads 0 by the model's choice (log entry 1), and so is the module's number 0 (log entry 5). -/
def ResetIsAsTheSpecSays : Prop :=
  State.reset.hw.num = 0 ∧ State.reset.hw.ready = false ∧ State.reset.hw.cap = 4800 ∧ State.reset.hw.off = false ∧
  (∀ d, d < 4 → ∃ m, aget State.reset.hw.mons d = some m ∧ m.fstep = 33 ∧ m.reason = 0 ∧ m.trip = 0 ∧ m.cerr = 0 ∧ m.uaddr = 0) ∧
  State.reset.time.dev = 0 ∧ State.reset.time.elapsed = 0 ∧ State.reset.time.status = 0 ∧
  (∀ p, (State.reset.part p).state = 0 ∧ (State.reset.part p).pend = 0 ∧ (State.reset.part p).seq = 1 ∧
    (∀ v, v < 4 → (sget (State.reset.part p).vecs (2 * v + 1)).getLsbD 63 = true) ∧
    ∀ j, (State.reset.queue p j).st = .disabled ∧ (State.reset.queue p j).head = 0 ∧ (State.reset.queue p j).tail = 0) ∧
  (∀ c, (State.reset.chan c).st = .idle) ∧ (∀ k, (State.reset.core k).committed = 0 ∧ (State.reset.core k).mx = Matrix.reset) ∧
  State.reset.waves = [] ∧ State.reset.blocks = [] ∧ State.reset.grids = [] ∧ State.reset.memWf = true ∧
  ∀ a, sget State.reset.mem a = 0

/-- Every step keeps memory and the scratchpads in canonical form: addresses strictly rising, and no entry equal to what an
unlisted address reads as. -/
def MemoryStaysCanonical : Prop := ∀ s t : State, s.memWf = true → step s = .next t → t.memWf = true

/-! ## Rules stated whole -/

/-- LEA: vd is va plus vb, or the literal sign-extended, times 1, 2, 4 or 8, modulo 2⁶⁴, for every value of the
operands; its four opcodes, and the word the rule writes out. -/
def LeaAddsAScaledIndex : Prop :=
  (∀ k o g s c, AtWord (.lea k o) g s c → Clear (.lea k o) g c → ∃ u, exec (.lea k o) s = .next u ∧
    VecDone o.d.toNat (fun l y => y.toNat = ((c.v l o.a).toNat + (match o.lit with
      | some x => x.signExtend 64
      | none => c.v l o.b).toNat * 2 ^ k.toNat) % 2 ^ 64) s u c) ∧
  (∀ (st : BitVec 2) (d a b : BitVec 7) (x : BitVec 32),
    (decode .bare ⟨none, st ++ 0x07C#9 ++ d ++ a ++ b, none⟩ = .ok (.lea 0 ⟨st, d, a, b, none, none⟩) ∧
      decode .bare ⟨none, st ++ 0x07C#9 ++ d ++ a ++ 0#7, some x⟩ = .ok (.lea 0 ⟨st, d, a, 0, some x, none⟩)) ∧
    (decode .bare ⟨none, st ++ 0x07D#9 ++ d ++ a ++ b, none⟩ = .ok (.lea 1 ⟨st, d, a, b, none, none⟩) ∧
      decode .bare ⟨none, st ++ 0x07D#9 ++ d ++ a ++ 0#7, some x⟩ = .ok (.lea 1 ⟨st, d, a, 0, some x, none⟩)) ∧
    (decode .bare ⟨none, st ++ 0x07E#9 ++ d ++ a ++ b, none⟩ = .ok (.lea 2 ⟨st, d, a, b, none, none⟩) ∧
      decode .bare ⟨none, st ++ 0x07E#9 ++ d ++ a ++ 0#7, some x⟩ = .ok (.lea 2 ⟨st, d, a, 0, some x, none⟩)) ∧
    (decode .bare ⟨none, st ++ 0x07F#9 ++ d ++ a ++ b, none⟩ = .ok (.lea 3 ⟨st, d, a, b, none, none⟩) ∧
      decode .bare ⟨none, st ++ 0x07F#9 ++ d ++ a ++ 0#7, some x⟩ = .ok (.lea 3 ⟨st, d, a, 0, some x, none⟩))) ∧
  decode .bare ⟨none, 0x0FE28103, none⟩ = .ok (.lea 3 ⟨0, 10, 2, 3, none, none⟩)

/-- VOTE tests va as a whole register in each active lane and writes one value to vd of every active lane; bits of a
ballot at or above the width are 0; its three opcodes, with vb field 0, and no other value there. -/
def VotesAnswerEveryLane : Prop :=
  (∀ o g s c, AtWord (.vote .any o) g s c → Clear (.vote .any o) g c → ∃ u, exec (.vote .any o) s = .next u ∧
    VecDone o.d.toNat (fun _ y => ((∃ l, inLanes c.act l = true ∧ c.v l o.a ≠ 0) → y = 1) ∧
      ((∀ l, inLanes c.act l = true → c.v l o.a = 0) → y = 0)) s u c) ∧
  (∀ o g s c, AtWord (.vote .all o) g s c → Clear (.vote .all o) g c → ∃ u, exec (.vote .all o) s = .next u ∧
    VecDone o.d.toNat (fun _ y => ((∀ l, inLanes c.act l = true → c.v l o.a ≠ 0) → y = 1) ∧
      ((∃ l, inLanes c.act l = true ∧ c.v l o.a = 0) → y = 0)) s u c) ∧
  (∀ o g s c, AtWord (.vote .bal o) g s c → Clear (.vote .bal o) g c → ∃ u, exec (.vote .bal o) s = .next u ∧
    VecDone o.d.toNat (fun _ y => (∀ l, inLanes c.act l = true → (y.getLsbD l = true ↔ c.v l o.a ≠ 0)) ∧
      (∀ l, inLanes c.act l = false → y.getLsbD l = false) ∧
      ((∀ l, c.w.width ≤ l → inLanes c.p.lanes l = false) → ∀ l, c.w.width ≤ l → y.getLsbD l = false)) s u c) ∧
  ∀ (st : BitVec 2) (d a b : BitVec 7),
    decode .bare ⟨none, st ++ 0x0FA#9 ++ d ++ a ++ 0#7, none⟩ = .ok (.vote .any ⟨st, d, a, 0, none, none⟩) ∧
    decode .bare ⟨none, st ++ 0x0FB#9 ++ d ++ a ++ 0#7, none⟩ = .ok (.vote .all ⟨st, d, a, 0, none, none⟩) ∧
    decode .bare ⟨none, st ++ 0x0FC#9 ++ d ++ a ++ 0#7, none⟩ = .ok (.vote .bal ⟨st, d, a, 0, none, none⟩) ∧
    (b ≠ 0 → decode .bare ⟨none, st ++ 0x0FA#9 ++ d ++ a ++ b, none⟩ = .error .illegalOp ∧
      decode .bare ⟨none, st ++ 0x0FB#9 ++ d ++ a ++ b, none⟩ = .error .illegalOp ∧
      decode .bare ⟨none, st ++ 0x0FC#9 ++ d ++ a ++ b, none⟩ = .error .illegalOp)

end Sys2Proof.Claims

open Sys2Proof
open Sys2Proof.Claims

/-- Integer arithmetic, counts, shifts, fields, moves, carries and widenings write what their entries compute, and
nothing else. What it takes from the model's own choices and readings, not from the spec: that a zero prefix leaves the
lanes of the wave's other paths alone (log entry 35, DEDUCED). It rests on spec/08_ref_integer.md, Rules shared by the
vector entries; spec/08_ref_integer.md, ADD, SUB; spec/08_ref_integer.md, MUL, MULHI, MAD; spec/08_ref_integer.md, MIN,
MAX; spec/08_ref_integer.md, POPC, CLZ, BREV; spec/08_ref_integer.md, Shifts; spec/08_ref_integer.md, BFE, BFI;
spec/08_ref_integer.md, MOV, MOVS, LID; spec/08_ref_integer.md, Predicate operations, MOVP, PTST;
spec/08_ref_integer.md, ADDC, SUBB; spec/08_ref_integer.md, ABS, NEG; spec/08_ref_integer.md, WID, NAR. -/
def Obligations.IntegerResults : Prop := IntegerWordsCompute ∧ BitCountShiftAndFieldWords ∧ MoveAndCarryWords

/-- AND, OR, XOR, ANDN, NOT and SEL act on all 64 bits, with their encodings. What it takes from the model's own choices
and readings, not from the spec: that a zero prefix leaves the lanes of the wave's other paths alone (log entry 35,
DEDUCED). It rests on spec/08_ref_integer.md, Rules shared by the vector entries; spec/08_ref_integer.md, Logical
operations and SEL. -/
def Obligations.LogicOnEveryBit : Prop := LogicWordsActOnEveryBit

/-- LEA adds an index scaled by 1, 2, 4 or 8, modulo 2^64, and checks nothing. What it takes from the model's own
choices and readings, not from the spec: that a zero prefix leaves the lanes of the wave's other paths alone (log entry
35, DEDUCED). It rests on spec/08_ref_integer.md, Rules shared by the vector entries; spec/08_ref_integer.md, LEA. -/
def Obligations.LeaAddsScaledIndex : Prop := LeaAddsAScaledIndex

/-- VOTE tests va in the active lanes and answers every active lane. What it takes from the model's own choices and
readings, not from the spec: that a zero prefix leaves the lanes of the wave's other paths alone (log entry 35,
DEDUCED). It rests on spec/09_ref_float_lanes.md, Rules shared by every entry; spec/09_ref_float_lanes.md, Cross-lane
operations. -/
def Obligations.VoteAnswersEveryLane : Prop := VotesAnswerEveryLane

/-- Comparisons and predicate words write the truth value of their relation to one predicate, and nothing else. What it
takes from the model's own choices and readings, not from the spec: that a zero prefix leaves the lanes of the wave's
other paths alone (log entry 35, DEDUCED). It rests on spec/08_ref_integer.md, Rules shared by the vector entries;
spec/08_ref_integer.md, CMP; spec/08_ref_integer.md, Predicate operations, MOVP, PTST; spec/09_ref_float_lanes.md, FRND,
FCMP, FCLASS. -/
def Obligations.PredicateResults : Prop := IntegerPredicateWords ∧ FloatPredicateWords

/-- Floating-point, conversion, dot-product and index words write the element each entry computes, rounded once, and
nothing else. What it takes from the model's own choices and readings, not from the spec: the value of a bounded
function within its bound, which is free (log entry 6, DESIGN CHOICE); that a zero prefix leaves the lanes of the wave's
other paths alone (log entry 35, DEDUCED); that bits of a literal above its element are ignored (log entry 36, DEDUCED);
FLOG2's absolute bound (log entry 39, DEDUCED); SCL's scale of one NaN (log entry 40, DEDUCED). It rests on
spec/09_ref_float_lanes.md, Rules shared by every entry; spec/09_ref_float_lanes.md, Arithmetic;
spec/09_ref_float_lanes.md, FADD, FSUB, FMUL, FMA; spec/09_ref_float_lanes.md, FMIN, FMAX, FMAXIX;
spec/09_ref_float_lanes.md, FRND, FCMP, FCLASS; spec/09_ref_float_lanes.md, Special functions;
spec/09_ref_float_lanes.md, Conversions; spec/09_ref_float_lanes.md, CVTS and SCL.SC8.F32; spec/09_ref_float_lanes.md,
KQDEC; spec/09_ref_float_lanes.md, Dot products; spec/04_number_formats.md, The order of sums. -/
def Obligations.FloatResults : Prop := FloatWordsByElement ∧ BoundedFunctionWords ∧ ConvertDotAndIndexWords ∧ MaxIndexF64WritesAPair

/-- A finite result is the format's finite value that the rounding mode names. It rests on spec/04_number_formats.md,
Floating-point layouts; spec/04_number_formats.md, Rounding, overflow and subnormals. -/
def Obligations.RoundingIsCorrect : Prop := RoundingFollowsTheMode

/-- Shuffles read active lanes, REDUX gives every active lane the root of the fixed tree, PERM moves bytes and FCTL.RD
reads fctl. What it takes from the model's own choices and readings, not from the spec: that a zero prefix leaves the
lanes of the wave's other paths alone (log entry 35, DEDUCED); SHFL's literal form (log entry 38, DEDUCED). It rests on
spec/09_ref_float_lanes.md, Cross-lane operations; spec/04_number_formats.md, The order of sums. -/
def Obligations.CrossLaneResults : Prop := ShufflesReadActiveLanes ∧ ReduxWords ∧ PermAndControlReads

/-- Uniform words write one uniform register with the value their entry gives; FCTL.WR takes five bits. It rests on
spec/08_ref_integer.md, Rules shared by the uniform entries; spec/08_ref_integer.md, MOVL; spec/08_ref_integer.md,
ULANE; spec/09_ref_float_lanes.md, Rules shared by every entry; spec/09_ref_float_lanes.md, Cross-lane operations. -/
def Obligations.UniformResults : Prop := UniformWordsCompute ∧ FctlWriteTakesFiveBits

/-- A load whose lanes pass their checks is left pending with its counter raised and its destinations owed. What it
takes from the model's own choices and readings, not from the spec: what a twin holds and what its fork state shows (log
entry 19, DEDUCED). It rests on spec/12_ref_memory.md, Rules shared by every entry; spec/12_ref_memory.md, Loads and
stores; spec/12_ref_memory.md, Ordered accesses and fences; spec/06_wave_memory.md, Global addresses and translation;
spec/06_wave_memory.md, The scratchpad; spec/11_split_rein_calls.md, What the twin does. -/
def Obligations.LoadsIssue : Prop := GlobalLoadsIssue ∧ ScratchLoadsIssue ∧ TwinsLoadIntoTheirSet

/-- A store whose lanes pass their checks enters its wave's queue, behind what stands there. What it takes from the
model's own choices and readings, not from the spec: where return-stack entries are spilled, and when spills and refills
are made and seen (log entry 11, DESIGN CHOICE); what a twin holds and what its fork state shows (log entry 19,
DEDUCED). It rests on spec/12_ref_memory.md, Rules shared by every entry; spec/12_ref_memory.md, Loads and stores;
spec/12_ref_memory.md, Ordered accesses and fences; spec/06_wave_memory.md, The scratchpad; spec/11_split_rein_calls.md,
What the twin does. -/
def Obligations.StoresEnterTheQueue : Prop := GlobalStoresEnterTheQueue ∧ ScratchStoresEnterTheQueue ∧ TwinsBufferTheirStoresAndHoldFaults

/-- Atomics, reductions and release stores issue one step for each active lane. It rests on spec/12_ref_memory.md, Rules
shared by every entry; spec/12_ref_memory.md, Atomics; spec/12_ref_memory.md, Slice reductions; spec/12_ref_memory.md,
Ordered accesses and fences. -/
def Obligations.AtomicsIssue : Prop := AtomicsIssueOneStepPerLane ∧ ReductionsAndReleaseStoresIssue

/-- A fence waits until its wave has drained and then changes nothing but its path and the L1. What it takes from the
model's own choices and readings, not from the spec: that what is read and released waits for a die's ports or sees what
they hold (log entry 9, DESIGN CHOICE); where return-stack entries are spilled, and when spills and refills are made and
seen (log entry 11, DESIGN CHOICE). It rests on spec/12_ref_memory.md, Ordered accesses and fences;
spec/07_ordering_layers.md, Layer 2: within a core; spec/07_ordering_layers.md, Layer 4: across dies and devices. -/
def Obligations.FencesWait : Prop := FencesWaitForTheWave

/-- A load, store or atomic whose lanes' rights or alignment are refused faults for exactly those lanes before any of
its effect. What it takes from the model's own choices and readings, not from the spec: the address and lanes that a
fault reports where R237 does not name them (log entry 17, DEDUCED). It rests on spec/06_wave_memory.md, Faults on part
of a wave; spec/12_ref_memory.md, Rules shared by every entry; spec/13_wave_faults.md, Precise faults and the handler.
-/
def Obligations.RefusedAccessesFault : Prop := RefusedAccessesFaultPrecisely

/-- A served piece of a load takes the bytes memory holds; a served atomic replaces its location and nothing else; soft
errors count or kill. What it takes from the model's own choices and readings, not from the spec: that what is read and
released waits for a die's ports or sees what they hold (log entry 9, DESIGN CHOICE); what an uncorrectable error marks
and kills (log entry 33, DEDUCED). It rests on spec/06_wave_memory.md, Caches and home slices; spec/27_package_power.md,
Soft-error protection; spec/07_ordering_layers.md, Layer 1: one thread; spec/12_ref_memory.md, Atomics. -/
def Obligations.HomeSlicesServe : Prop := ServedPiecesReadMemory ∧ ServedAtomicsReplaceTheirLocation ∧ SoftErrorsAreCountedOrKill

/-- The oldest queued store is written, and no other byte; younger ones wait; ports and L1 lines keep their rules. What
it takes from the model's own choices and readings, not from the spec: that events which change timing only have no
effect (log entry 7, DESIGN CHOICE); that what is read and released waits for a die's ports or sees what they hold (log
entry 9, DESIGN CHOICE); where return-stack entries are spilled, and when spills and refills are made and seen (log
entry 11, DESIGN CHOICE); whether another module refuses an access, which is free (log entry 44, DESIGN CHOICE). It
rests on spec/07_ordering_layers.md, Layer 1: one thread; spec/07_ordering_layers.md, Layer 2: within a core;
spec/07_ordering_layers.md, Layer 4: across dies and devices; spec/06_wave_memory.md, Caches and home slices;
spec/25_fabric_slices.md, Routing. -/
def Obligations.StoresLeaveInOrder : Prop := Claims.StoresLeaveInOrder ∧ StoresWaitForOlderWords ∧ PortsAndLinesKeepTheirRules

/-- A load or atomic whose steps are all done writes its destinations, lowers its counter and is gone. It rests on
spec/12_ref_memory.md, Rules shared by every entry; spec/12_ref_memory.md, Loads and stores; spec/12_ref_memory.md,
Atomics; spec/03_formats_opcodes.md, Stall codes and latency. -/
def Obligations.OperationsComplete : Prop := LoadsCompleteWithTheirBytes ∧ CompletedWordsDeliverTheirResults

/-- A direct branch goes to H + 4 × offset when taken and past its clause when not. R170: "The direct branches move the
whole issuing path, or none of it. None of them divides a path." -/
def Obligations.BranchesGoTheirWay : Prop := DirectBranchesGoTheirWay

/-- Calls push the return point in every active lane; a full stack faults for its lanes. What it takes from the model's
own choices and readings, not from the spec: where return-stack entries are spilled, and when spills and refills are
made and seen (log entry 11, DESIGN CHOICE); the order of two checks that the spec leaves open (log entry 16, DEDUCED).
It rests on spec/10_ref_control.md, Register targets, calls and returns; spec/11_split_rein_calls.md, Instruction
entries. -/
def Obligations.CallsPushReturnPoints : Prop := CallsPushTheReturnPoint

/-- BRX and RET divide their path by target; BRX out of the handler window leaves handler mode. What it takes from the
model's own choices and readings, not from the spec: where return-stack entries are spilled, and when spills and refills
are made and seen (log entry 11, DESIGN CHOICE). It rests on spec/10_ref_control.md, Register targets, calls and
returns; spec/13_wave_faults.md, Precise faults and the handler. -/
def Obligations.RegisterTargets : Prop := RegisterTargetsDivideThePath ∧ BrxLeavesHandlerMode

/-- Forked calls start a twin, fork words act on forks, and a resolved fork commits or is squashed. It rests on
spec/11_split_rein_calls.md, Fork records and the decision to fork; spec/11_split_rein_calls.md, The return-value
predictor; spec/11_split_rein_calls.md, What the twin does; spec/11_split_rein_calls.md, Resolution;
spec/11_split_rein_calls.md, Instruction entries. -/
def Obligations.ForksActAsTheSpecSays : Prop := ForksStartATwinAtTheReturnPoint ∧ ForkWordsActOnForks ∧ ForksCommitOrAreSquashed

/-- SPLIT divides a path by predicate, JOIN puts its lanes together again, and MEET sets the meeting address. What it
takes from the model's own choices and readings, not from the spec: which waits of a strict block switch (log entry 20,
DEDUCED). It rests on spec/10_ref_control.md, Divergence and meeting; spec/05_wave_execution.md, Threads, paths and
divergence. -/
def Obligations.DivergenceAndMeeting : Prop := SplitDividesByPredicate ∧ JoinWaitsAndMeetIsSet

/-- BAR.SYNC waits for every wave of the block; NOP, YIELD, RNG and the instruction-cache hints do what their entries
say. What it takes from the model's own choices and readings, not from the spec: which words of code are fetched, and
what the IC hints touch and pin (log entry 10, DESIGN CHOICE); which waits of a strict block switch (log entry 20,
DEDUCED); that BAR.SYNC waits for the old values of atomics (log entry 43, DEDUCED). It rests on spec/10_ref_control.md,
Block barriers; spec/10_ref_control.md, Ending, yielding and trapping; spec/10_ref_control.md, Random numbers;
spec/10_ref_control.md, Instruction-cache hints; spec/05_wave_execution.md, Block barriers; spec/05_wave_execution.md,
Strict mode; spec/03_formats_opcodes.md, Fetch, code writes and pinning. -/
def Obligations.BarriersYieldsAndHints : Prop := BarSyncWaitsForEveryWave ∧ NopYieldAndRng ∧ HintsOnlyPin

/-- EXIT ends its lanes for good; TRAP and BRK enter the handler, or end the grid where there is none. It rests on
spec/10_ref_control.md, Ending, yielding and trapping; spec/13_wave_faults.md, Precise faults and the handler. -/
def Obligations.ExitsAndTraps : Prop := ExitEndsLanesForGood ∧ TrapsEnterTheHandler

/-- D-ring words give slots in turn and pass them between producers and consumers. What it takes from the model's own
choices and readings, not from the spec: that what is read and released waits for a die's ports or sees what they hold
(log entry 9, DESIGN CHOICE). It rests on spec/12_ref_memory.md, D-rings. -/
def Obligations.RingsGiveSlots : Prop := RingsGiveSlotsInTurn ∧ RingSlotsChangeHands

/-- SEND and RECV take a channel's slots in turn and carry one dword for each lane. What it takes from the model's own
choices and readings, not from the spec: that what is read and released waits for a die's ports or sees what they hold
(log entry 9, DESIGN CHOICE). It rests on spec/12_ref_memory.md, Dataflow channels. -/
def Obligations.ChannelsCarry : Prop := ChannelsCarryMessages

/-- BAR.ARRIVE, BAR.EXPECT and BAR.WAIT count a barrier's phases. What it takes from the model's own choices and
readings, not from the spec: that what is read and released waits for a die's ports or sees what they hold (log entry 9,
DESIGN CHOICE). It rests on spec/10_ref_control.md, Counted barriers. -/
def Obligations.BarriersCount : Prop := CountedBarriersCount

/-- A future settles once; FUT.POLL and FUT.AWAIT read it. What it takes from the model's own choices and readings, not
from the spec: that what is read and released waits for a die's ports or sees what they hold (log entry 9, DESIGN
CHOICE). It rests on spec/21_tree_unit.md, Futures; spec/21_tree_unit.md, Instruction entries. -/
def Obligations.FuturesSettle : Prop := FuturesSettleOnce ∧ FuturesAreRead

/-- Frame words reach the displayed frame; NLAUNCH starts the grid its descriptor asks for. What it takes from the
model's own choices and readings, not from the spec: that what is read and released waits for a die's ports or sees what
they hold (log entry 9, DESIGN CHOICE). It rests on spec/21_tree_unit.md, Cactus regions and frames;
spec/21_tree_unit.md, Levels and the display; spec/21_tree_unit.md, Launch descriptors and regions;
spec/21_tree_unit.md, Lifetime; spec/21_tree_unit.md, Instruction entries. -/
def Obligations.FramesAndNestedLaunches : Prop := FrameWordsReachTheDisplayedFrame ∧ NestedLaunchesStartAGrid

/-- CONT.SAVE saves a wave's lanes in a record linked to its futures; CONT.WAKE queues a ready record once. What it
takes from the model's own choices and readings, not from the spec: that what is read and released waits for a die's
ports or sees what they hold (log entry 9, DESIGN CHOICE); what a continuation record keeps in a form of the model's own
(log entry 13, DESIGN CHOICE); what the Tree unit checks, and when it counts (log entry 21, DEDUCED). It rests on
spec/21_tree_unit.md, Continuations; spec/21_tree_unit.md, Instruction entries. -/
def Obligations.Continuations : Prop := ContinuationsAreSavedAndWoken

/-- Matrix words enter the engine's queue, take its results, and wait for its tickets. What it takes from the model's
own choices and readings, not from the spec: the order of two checks that the spec leaves open (log entry 16, DEDUCED);
the address and lanes that a fault reports where R237 does not name them (log entry 17, DEDUCED). It rests on
spec/19_matrix_engine.md, Ownership and state; spec/19_matrix_engine.md, The parameter block; spec/19_matrix_engine.md,
Ordering; spec/19_matrix_engine.md, Instruction entries. -/
def Obligations.MatrixWordsOfWaves : Prop := MatrixWordsEnterTheQueue ∧ MatrixResultsAreTaken

/-- MX.FREEZE, MX.THAW, MX.DRAIN and MX.RESTORE work in handler mode and raise MX_PARAM outside it. What it takes from
the model's own choices and readings, not from the spec: that what is read and released waits for a die's ports or sees
what they hold (log entry 9, DESIGN CHOICE); the copy of a matrix image's tail that its partition keeps (log entry 12,
DESIGN CHOICE); that an engine's accesses are performed at once, at the word or step (log entry 15, DESIGN CHOICE). It
rests on spec/19_matrix_engine.md, Freezing, draining and strict mode; spec/19_matrix_engine.md, Instruction entries. -/
def Obligations.MatrixDrains : Prop := MatrixEnginesAreDrainedInHandlers

/-- AWL.GO, AWL.STAT and AWL.STOP start, watch and stop the channels of the wave's cluster. It rests on
spec/17_awl_engines.md, Starting, watching and stopping a channel. -/
def Obligations.AwlWordsOfWaves : Prop := AwlWordsStartAndWatchChannels

/-- Engine integer words write one x register; descriptor words write one descriptor or fault. What it takes from the
model's own choices and readings, not from the spec: that what is read and released waits for a die's ports or sees what
they hold (log entry 9, DESIGN CHOICE); that an engine's accesses are performed at once, at the word or step (log entry
15, DESIGN CHOICE). It rests on spec/18_awl_reference.md, Rules shared by every entry; spec/18_awl_reference.md, Integer
instructions; spec/18_awl_reference.md, Tensor descriptors. -/
def Obligations.EngineIntegersAndDescriptors : Prop := EngineIntegerWordsCompute ∧ TensorDescriptorWords

/-- Engine branches and A.LOOP send their channel to H + 4 × offset or to the next header. R284: "The branches compare
whole 64-bit registers. Each target is H + 4 × offset, where H is the address of the branch's own clause header (R33)."
-/
def Obligations.EngineControl : Prop := EngineBranches

/-- Engine loads and moves read all they read before they write; MV.MC writes every receiver's slot. What it takes from
the model's own choices and readings, not from the spec: that an engine's accesses are performed at once, at the word or
step (log entry 15, DESIGN CHOICE); how a chain that is stopped or halted ends (log entry 32, DEDUCED). It rests on
spec/18_awl_reference.md, Rules shared by every entry; spec/18_awl_reference.md, Moves; spec/17_awl_engines.md,
Multicast. -/
def Obligations.EngineMoves : Prop := EngineMovesReadThenWrite ∧ MulticastWritesEverySlot

/-- A.POST, A.EXPECT, A.ARRIVE and A.RESOLVE act on objects as the waves' words do. What it takes from the model's own
choices and readings, not from the spec: that what is read and released waits for a die's ports or sees what they hold
(log entry 9, DESIGN CHOICE); that an engine's accesses are performed at once, at the word or step (log entry 15, DESIGN
CHOICE). It rests on spec/18_awl_reference.md, Objects. -/
def Obligations.EngineObjects : Prop := EngineObjectWords

/-- The checks before a word come in their order, and the first that fails is raised with no effect of the word. What it
takes from the model's own choices and readings, not from the spec: the address and lanes that a fault reports where
R237 does not name them (log entry 17, DEDUCED); which parked lanes a cross-lane word waits for (log entry 37, DEDUCED).
It rests on spec/03_formats_opcodes.md, Placement, classes and roles; spec/03_formats_opcodes.md, Stall codes and
latency; spec/02_conventions.md, The register set; spec/13_wave_faults.md, The fault codes; spec/13_wave_faults.md,
Precise faults and the handler; spec/11_split_rein_calls.md, What the twin does. -/
def Obligations.ChecksComeFirst : Prop := ChecksComeBeforeTheWord

/-- Unassigned entries and words out of place are illegal instructions. What it takes from the model's own choices and
readings, not from the spec: the address and lanes that a fault reports where R237 does not name them (log entry 17,
DEDUCED). It rests on spec/03_formats_opcodes.md, The opcode map; spec/03_formats_opcodes.md, Placement, classes and
roles; spec/17_awl_engines.md, Faults. -/
def Obligations.UnassignedAreIllegal : Prop := UnassignedWordsAreIllegal

/-- Words the spec writes out decode to the instructions they stand for. It rests on spec/08_ref_integer.md, ADD, SUB;
spec/08_ref_integer.md, CMP; spec/08_ref_integer.md, Rules shared by the uniform entries; spec/09_ref_float_lanes.md,
FADD, FSUB, FMUL, FMA; spec/09_ref_float_lanes.md, Dot products; spec/09_ref_float_lanes.md, Cross-lane operations;
spec/10_ref_control.md, Counted barriers; spec/12_ref_memory.md, Atomics; spec/12_ref_memory.md, Dataflow channels;
spec/18_awl_reference.md, Control; spec/19_matrix_engine.md, Instruction entries; spec/21_tree_unit.md, Instruction
entries. -/
def Obligations.SpecWordsDecode : Prop := Claims.SpecWordsDecode

/-- Decoding undoes encoding, for every well-formed word instruction with every operand. It rests on
spec/03_formats_opcodes.md, Instruction words and formats; spec/03_formats_opcodes.md, The prefix word;
spec/03_formats_opcodes.md, The opcode map. -/
def Obligations.DecodeUndoesEncode : Prop := DecodingUndoesEncoding

/-- A step runs the word that stands decoded at its agent's place. What it takes from the model's own choices and
readings, not from the spec: which agent takes the next turn (log entry 3, DESIGN CHOICE); how breakpoints are set, and
where they act (log entry 49, DEDUCED). It rests on spec/05_wave_execution.md, What a sub-core issues;
spec/05_wave_execution.md, Threads, paths and divergence; spec/03_formats_opcodes.md, The clause header;
spec/17_awl_engines.md, Channels and their programs. -/
def Obligations.StepRunsDecodedWord : Prop := StepRunsTheDecodedWord

/-- No state stops the machine: every step answers a next state; a register word past its checks completes, for every
operand. It rests on spec/13_wave_faults.md, The fault codes; spec/13_wave_faults.md, Precise faults and the handler;
spec/03_formats_opcodes.md, Stall codes and latency; spec/08_ref_integer.md, Rules shared by the vector entries;
spec/08_ref_integer.md, Rules shared by the uniform entries; spec/09_ref_float_lanes.md, Rules shared by every entry;
spec/09_ref_float_lanes.md, Cross-lane operations. -/
def Obligations.EveryStepGoesOn : Prop := Claims.EveryStepGoesOn ∧ RegisterWordsComplete

/-- Right after reset the module's registers hold what the spec says and nothing runs. What it takes from the model's
own choices and readings, not from the spec: that a byte which nothing has written reads 0 (log entry 1, DESIGN CHOICE);
zeros where the spec gives no reset value, the module number among them (log entry 5, DESIGN CHOICE). It rests on
spec/27_package_power.md, Reset and bring-up; spec/27_package_power.md, Monitors; spec/27_package_power.md, Power;
spec/24_harness.md, The register page and partition context; spec/24_harness.md, Queues; spec/26_host_links.md,
Partitions; spec/26_host_links.md, Interrupts; spec/26_host_links.md, Stamped ingress. -/
def Obligations.ResetValues : Prop := ResetIsAsTheSpecSays

/-- Every step keeps memory and the scratchpads in canonical form. The canonical form is the model's own (log entry 1).
It rests on spec/06_wave_memory.md, Global addresses and translation; spec/06_wave_memory.md, The scratchpad. -/
def Obligations.MemoryStaysCanonical : Prop := Claims.MemoryStaysCanonical

/-- Power, monitor, device-time, register and vector events set the fields their rules name. What it takes from the
model's own choices and readings, not from the spec: how a clock that was slowed is whole again, and where the counts of
clocks and device time start (log entry 4, DESIGN CHOICE); how a monitor's clock and reasons recover (log entry 24,
DESIGN CHOICE); muted flows, and where a message or a masked vector goes (log entry 27, DEDUCED); the kept bits of an
It rests on spec/27_package_power.md, Power; spec/27_package_power.md, Monitors; spec/26_host_links.md, Stamped ingress;
spec/26_host_links.md, Interrupts; spec/24_harness.md, The register page and partition context. -/
def Obligations.ModuleRegisters : Prop := PowerAndMonitorEvents ∧ DeviceTimeEvents ∧ RegisterWritesSetTheirFields ∧ VectorMasksAreCleared

/-- Host and Cinch accesses reach memory within their bounds and nothing outside them. What it takes from the model's
own choices and readings, not from the spec: what an access from outside reaches (log entry 28, DEDUCED); whether
another module refuses an access, which is free (log entry 44, DESIGN CHOICE). It rests on spec/26_host_links.md,
Latigo; spec/26_host_links.md, Cinch; spec/27_package_power.md, Soft-error protection. -/
def Obligations.OutsideAccesses : Prop := HostAccesses ∧ CinchAccesses

/-- Flows are enabled and disabled, and a frame fills its flow's next slot or is counted as dropped. What it takes from
the model's own choices and readings, not from the spec: muted flows, and where a message or a masked vector goes (log
entry 27, DEDUCED); the layout of frame headers (log entry 45, PRESUMED). It rests on spec/26_host_links.md, Stamped
ingress. -/
def Obligations.IngressFlows : Prop := FlowsAreEnabled ∧ FramesArrive

/-- Queue commands and doorbells move a queue between its states. What it takes from the model's own choices and
readings, not from the spec: what a queue keeps when it stops, and records that meet it then (log entry 22, DEDUCED). It
rests on spec/24_harness.md, Queues; spec/24_harness.md, Ordering at the doorbell. -/
def Obligations.QueuesMove : Prop := QueueCommands ∧ DoorbellsMoveQueues

/-- Seed, invalidation, NOP and LAUNCH packets act at their decode. What it takes from the model's own choices and
readings, not from the spec: which words of code are fetched, and what the IC hints touch and pin (log entry 10, DESIGN
CHOICE); what a queue keeps when it stops, and records that meet it then (log entry 22, DEDUCED). It rests on
spec/24_harness.md, Packets; spec/24_harness.md, The seed stack; spec/24_harness.md, Firmware cores and capabilities;
spec/06_wave_memory.md, Global addresses and translation. -/
def Obligations.PacketsDecode : Prop := PacketsAtDecode ∧ LaunchPacketsMakeGrids

/-- A gang waits at the head of its queue and is committed whole or not at all. What it takes from the model's own
choices and readings, not from the spec: what a queue keeps when it stops, and records that meet it then (log entry 22,
DEDUCED). It rests on spec/24_harness.md, Gang launches; spec/24_harness.md, Packets. -/
def Obligations.GangsAreWhole : Prop := GangsReserveAllOrNothing

/-- Completion records and fault records are written to their slots when the slots are free. What it takes from the
model's own choices and readings, not from the spec: what a queue keeps when it stops, and records that meet it then
(log entry 22, DEDUCED). It rests on spec/24_harness.md, Completion records; spec/13_wave_faults.md, Page faults, fault
records and replay; spec/26_host_links.md, Interrupts. -/
def Obligations.RecordsAreWritten : Prop := CompletionRecordsAreWritten ∧ FaultRecordsAreWritten

/-- A verdict lets a parked access run again or makes it take its page fault. What it takes from the model's own choices
and readings, not from the spec: what handler mode holds, and the entries that it owes (log entry 18, DEDUCED); what a
freeze, a save and a resume keep and hold (log entry 26, DEDUCED). It rests on spec/13_wave_faults.md, Page faults,
fault records and replay; spec/17_awl_engines.md, Faults. -/
def Obligations.VerdictsAnswer : Prop := VerdictsAnswerRecords

/-- Blocks start on the cores chosen for them, and resumptions start a saved wave. What it takes from the model's own
choices and readings, not from the spec: which cores are asked and taken (log entry 23, DEDUCED). It rests on
spec/05_wave_execution.md, Grids, blocks and waves; spec/05_wave_execution.md, Dispatch order and progress;
spec/24_harness.md, Classes and dispatch; spec/24_harness.md, Distribution and stealing; spec/21_tree_unit.md,
Continuations. -/
def Obligations.BlocksAndResumptionsStart : Prop := BlocksAreDispatched ∧ ResumptionsStartWaves

/-- Grids complete when all that is theirs is done; watchdogs, windows and list walks act at their time and in their
order. What it takes from the model's own choices and readings, not from the spec: that what is read and released waits
for a die's ports or sees what they hold (log entry 9, DESIGN CHOICE); what the Tree unit checks, and when it counts
(log entry 21, DEDUCED); what a freeze, a save and a resume keep and hold (log entry 26, DEDUCED); what an uncorrectable
error marks and kills (log entry 33, DEDUCED). It rests on spec/24_harness.md, Completion records; spec/24_harness.md,
Classes and dispatch; spec/24_harness.md, Pre-emption; spec/25_fabric_slices.md, Slice accumulators;
spec/21_tree_unit.md, Lifetime; spec/21_tree_unit.md, Futures; spec/21_tree_unit.md, Continuations;
spec/05_wave_execution.md, Strict mode. -/
def Obligations.GridsEnd : Prop := GridsComplete ∧ WatchdogsEndGrids ∧ WindowsApplyInOrder ∧ ListWalksLowerPending

/-- Soft and hard pre-emption stop a partition as their rules say, and RESUME lets it go on. What it takes from the
model's own choices and readings, not from the spec: where return-stack entries are spilled, and when spills and refills
are made and seen (log entry 11, DESIGN CHOICE); the address and lanes that a fault reports where R237 does not name
them (log entry 17, DEDUCED); what handler mode holds, and the entries that it owes (log entry 18, DEDUCED); what a
freeze, a save and a resume keep and hold (log entry 26, DEDUCED). It rests on spec/24_harness.md, Pre-emption;
spec/13_wave_faults.md, Pre-emption; spec/26_host_links.md, Quality of service; spec/17_awl_engines.md, Halting and pre-
emption; spec/19_matrix_engine.md, Freezing, draining and strict mode. -/
def Obligations.PreemptionHoldsAndGoesOn : Prop := SoftPreemption ∧ HardPreemption

/-- Partitions come, reset and go; module resets and critical trips leave what their rules say. What it takes from the
model's own choices and readings, not from the spec: zeros where the spec gives no reset value, the module number among
them (log entry 5, DESIGN CHOICE); what a queue keeps when it stops, and records that meet it then (log entry 22,
DEDUCED); what an enable, a reset and a trip keep (log entry 25, DEDUCED). It rests on spec/26_host_links.md,
Partitions; spec/27_package_power.md, Reset and bring-up; spec/27_package_power.md, Monitors. -/
def Obligations.PartitionsAndResets : Prop := PartitionsComeAndGo ∧ ModuleResets ∧ CriticalTripResetsEverything

/-- A channel starts its record, enters its ranges, completes the record and halts as the rules say; A.HALT and A.TRAP
end its program. What it takes from the model's own choices and readings, not from the spec: that what is read and
released waits for a die's ports or sees what they hold (log entry 9, DESIGN CHOICE); that a lock's first access waits
for all accesses admitted before (log entry 30, DEDUCED); how a chain that is stopped or halted ends (log entry 32,
DEDUCED). It rests on spec/17_awl_engines.md, The transfer record; spec/17_awl_engines.md, Range locks;
spec/17_awl_engines.md, Completion actions; spec/17_awl_engines.md, Halting and pre-emption; spec/17_awl_engines.md,
Faults; spec/18_awl_reference.md, Control. -/
def Obligations.ChannelRecords : Prop := RecordsStart ∧ RecordsCompleteAndChannelsHalt ∧ EngineHaltAndTrap ∧ ChannelFaultsEndTheChain

/-- A fetched clause is there whole, one that breaks its header's rules faults there; a waiting multicast tries again.
What it takes from the model's own choices and readings, not from the spec: which words of code are fetched, and what
the IC hints touch and pin (log entry 10, DESIGN CHOICE); that an engine's accesses are performed at once, at the word
or step (log entry 15, DESIGN CHOICE); how a chain that is stopped or halted ends (log entry 32, DEDUCED). It rests on
spec/03_formats_opcodes.md, The clause header; spec/03_formats_opcodes.md, Fetch, code writes and pinning;
spec/03_formats_opcodes.md, Placement, classes and roles; spec/17_awl_engines.md, Channels and their programs;
spec/18_awl_reference.md, Moves. -/
def Obligations.ClausesArriveWhole : Prop := ClausesAreFetched ∧ WaitingMulticastsTryAgain

/-- Matrix operations start, pass their gates and locks, add their chunks and complete. What it takes from the model's
own choices and readings, not from the spec: that an engine's accesses are performed at once, at the word or step (log
entry 15, DESIGN CHOICE); that a lock's first access waits for all accesses admitted before (log entry 30, DEDUCED);
what an uncorrectable error marks and kills (log entry 33, DEDUCED). It rests on spec/19_matrix_engine.md, Running an
operation; spec/19_matrix_engine.md, The parameter block; spec/19_matrix_engine.md, Ordering; spec/04_number_formats.md,
The order of sums. -/
def Obligations.MatrixOperationsRun : Prop := MatrixOperationsStart ∧ MatrixGatesAndLocks ∧ MatrixChunksAndCompletion
end

