-- ==== Sys2Proof/Laws/Assoc.lean ====
section
/-!
SUPPORT. Laws of data by key: read after write, and that writes keep keys strictly rising and the canonical form.
-/
namespace Sys2Proof.Machine

variable {α : Type} {w : Nat}

@[simp] theorem aget_nil (k : Nat) : aget ([] : Assoc α) k = none := rfl
@[simp] theorem sget_nil (k : Nat) : sget ([] : Sparse w) k = 0 := rfl

/-- Read after write, at any key. -/
theorem aget_aset (l : Assoc α) (k k' : Nat) (a : α) : aget (aset l k a) k' = if k' = k then some a else aget l k' := by
  induction l with
  | nil => simp [aset, aget]
  | cons e l ih =>
    obtain ⟨j, b⟩ := e
    simp only [aset]
    split_ifs with h1 h2 h3 h4 h5 <;> simp_all [aget]

@[simp] theorem aget_aset_self (l : Assoc α) (k : Nat) (a : α) : aget (aset l k a) k = some a := by simp [aget_aset]

theorem aget_aerase (l : Assoc α) (k k' : Nat) : aget (aerase l k) k' = if k' = k then none else aget l k' := by
  unfold aerase
  induction l with
  | nil => simp
  | cons e l ih =>
    obtain ⟨j, b⟩ := e
    by_cases h : j = k
    · simp only [h, ne_eq, not_true_eq_false, decide_false, Bool.false_eq_true, not_false_eq_true, List.filter_cons_of_neg, aget]
      rw [ih]; split_ifs <;> rfl
    · simp only [h, ne_eq, not_false_eq_true, decide_true, List.filter_cons_of_pos, aget]
      split_ifs with h1 h2 h3 <;> simp_all

theorem aget_amod (l : Assoc α) (k k' : Nat) (f : α → α) :
    aget (amod l k f) k' = if k' = k then (aget l k).map f else aget l k' := by
  unfold amod
  cases h : aget l k with
  | none => split_ifs with h1 <;> simp_all
  | some a => simp [aget_aset]

@[simp] theorem aget_amod_self (l : Assoc α) (k : Nat) (f : α → α) : aget (amod l k f) k = (aget l k).map f := by
  simp [aget_amod]

theorem sget_eq_aget (l : Sparse w) (k : Nat) : sget l k = (aget l k).getD 0 := by
  induction l with
  | nil => rfl
  | cons e l ih => obtain ⟨j, b⟩ := e; simp only [sget, aget]; split_ifs <;> simp_all

/-- Read after write of a register file or of memory, at any key. -/
theorem sget_sset (l : Sparse w) (k k' : Nat) (a : BitVec w) : sget (sset l k a) k' = if k' = k then a else sget l k' := by
  unfold sset
  by_cases h : a = 0
  · rw [if_pos h, sget_eq_aget, aget_aerase]
    split_ifs <;> simp_all [sget_eq_aget]
  · rw [if_neg h, sget_eq_aget, aget_aset]
    split_ifs <;> simp_all [sget_eq_aget]

@[simp] theorem sget_sset_self (l : Sparse w) (k : Nat) (a : BitVec w) : sget (sset l k a) k = a := by simp [sget_sset]

/-- Read after a write of consecutive keys. -/
theorem sget_ssets (l : Sparse w) (k k' : Nat) (as : List (BitVec w)) :
    sget (ssets l k as) k' = if k ≤ k' ∧ k' < k + as.length then as.getD (k' - k) 0 else sget l k' := by
  induction as generalizing l k with
  | nil => simp [ssets]
  | cons a as ih =>
    rw [ssets, ih, sget_sset]
    by_cases h0 : k' = k
    · subst h0; simp
    · by_cases h1 : k + 1 ≤ k' ∧ k' < k + 1 + as.length
      · have h2 : k ≤ k' ∧ k' < k + (a :: as).length := by simp only [List.length_cons]; omega
        rw [if_pos h1, if_pos h2, show k' - k = (k' - (k + 1)) + 1 by omega]; simp
      · have h2 : ¬ (k ≤ k' ∧ k' < k + (a :: as).length) := by simp only [List.length_cons]; omega
        rw [if_neg h1, if_neg h2, if_neg h0]

/-- Bytes outside a write read as before. -/
theorem sget_ssets_other (l : Sparse w) (k k' : Nat) (as : List (BitVec w)) (h : k' < k ∨ k + as.length ≤ k') :
    sget (ssets l k as) k' = sget l k' := by
  rw [sget_ssets, if_neg (by omega)]

/-! ### Canonical form -/

theorem keysFrom_mono {lo hi : Nat} (h : lo ≤ hi) : ∀ l : Assoc α, keysFrom hi l = true → keysFrom lo l = true
  | [], _ => rfl
  | (k, _) :: l, hk => by simp only [keysFrom, Bool.and_eq_true, decide_eq_true_eq] at hk ⊢; exact ⟨by omega, hk.2⟩

theorem keysFrom_aset (l : Assoc α) (lo k : Nat) (a : α) (hlo : lo ≤ k) (h : keysFrom lo l = true) :
    keysFrom lo (aset l k a) = true := by
  induction l generalizing lo with
  | nil => simp [aset, keysFrom, hlo]
  | cons e l ih =>
    obtain ⟨j, b⟩ := e
    simp only [keysFrom, Bool.and_eq_true, decide_eq_true_eq] at h
    simp only [aset]
    split_ifs with h1 h2
    · simp only [keysFrom, Bool.and_eq_true, decide_eq_true_eq]; exact ⟨hlo, by omega, h.2⟩
    · subst h2; simp only [keysFrom, Bool.and_eq_true, decide_eq_true_eq]; exact ⟨hlo, h.2⟩
    · simp only [keysFrom, Bool.and_eq_true, decide_eq_true_eq]; exact ⟨h.1, ih _ (by omega) h.2⟩

theorem keysFrom_filter (l : Assoc α) (p : Nat × α → Bool) (lo : Nat) (h : keysFrom lo l = true) :
    keysFrom lo (l.filter p) = true := by
  induction l generalizing lo with
  | nil => rfl
  | cons e l ih =>
    obtain ⟨j, b⟩ := e
    simp only [keysFrom, Bool.and_eq_true, decide_eq_true_eq] at h
    by_cases hp : p (j, b)
    · simp only [List.filter_cons_of_pos hp, keysFrom, Bool.and_eq_true, decide_eq_true_eq]; exact ⟨h.1, ih _ h.2⟩
    · rw [List.filter_cons_of_neg hp]; exact keysFrom_mono (by omega) _ (ih _ h.2)

theorem all_aset (l : Assoc α) (k : Nat) (a : α) (p : Nat × α → Bool) (h : l.all p = true) (ha : p (k, a) = true) :
    (aset l k a).all p = true := by
  induction l with
  | nil => simp [aset, ha]
  | cons e l ih =>
    obtain ⟨j, b⟩ := e
    simp only [List.all_cons, Bool.and_eq_true] at h
    simp only [aset]
    split_ifs <;> simp [ha, h.1, h.2, ih h.2]

/-- A write keeps the canonical form. -/
theorem sparseWf_sset (l : Sparse w) (k : Nat) (a : BitVec w) (h : sparseWf l = true) : sparseWf (sset l k a) = true := by
  simp only [sparseWf, Bool.and_eq_true] at h ⊢
  unfold sset
  split_ifs with h0
  · exact ⟨keysFrom_filter _ _ _ h.1, by
      simp only [aerase, List.all_eq_true, List.mem_filter] at h ⊢
      exact fun x hx => h.2 x hx.1⟩
  · exact ⟨keysFrom_aset _ _ _ _ (Nat.zero_le _) h.1, all_aset _ _ _ _ h.2 (decide_eq_true h0)⟩

/-- So does a write of consecutive keys. -/
theorem sparseWf_ssets (l : Sparse w) (k : Nat) (as : List (BitVec w)) (h : sparseWf l = true) :
    sparseWf (ssets l k as) = true := by
  induction as generalizing l k with
  | nil => exact h
  | cons a as ih => exact ih _ _ (sparseWf_sset l k a h)

end Sys2Proof.Machine
end

