-- ==== Sys2Proof/Laws/Exec.lean ====
section
/-!
SUPPORT. What `exec` can be: the wrapper of wave words, of engine words or of events around a body.
-/
namespace Sys2Proof.Machine

/-- A word that is not an engine's runs under the checks of a wave's word. -/
theorem exec_wave (i : Instr) (g : Sig) (hg : i.sig = some g) (he : g.cls ≠ .eng) :
    ∃ body, ∀ s, exec i s = guarded i body s := by
  cases i <;> first
    | exact ⟨_, fun _ => rfl⟩
    | (exfalso; cases hg; done)
    | (exfalso; apply he; cases hg; rfl)
    | (rename_i t o; cases t <;> exact ⟨_, fun _ => rfl⟩)

/-- A third register changes no class. -/
theorem third_cls (o : OpsV) (g : Sig) : (Table.third o g).cls = g.cls := by
  unfold Table.third
  split <;> rfl

/-- An engine's word runs on its channel. -/
theorem exec_engine (i : Instr) (g : Sig) (hg : i.sig = some g) (he : g.cls = .eng) :
    ∃ body, ∀ s, exec i s = engine body s := by
  cases i <;> first
    | exact ⟨_, fun _ => rfl⟩
    | (exfalso; cases hg; done)
    | (exfalso; cases hg; cases he; done)
    | (exfalso; cases hg; exact absurd ((third_cls _ _).symm.trans he) nofun)
    | (exfalso; rename_i t o; cases t <;> first
        | (cases hg; cases he; done)
        | (cases hg; exact absurd ((third_cls _ _).symm.trans he) nofun))

/-- An event runs with its operands. -/
theorem exec_event (i : Instr) (hg : i.sig = none) (hu : ∀ w, i ≠ .unassignedEntry w) :
    ∃ body, ∀ s, exec i s = event body s := by
  cases i <;> first
    | exact ⟨_, fun _ => rfl⟩
    | (exfalso; cases hg; done)
    | (exfalso; exact hu _ rfl)
    | (exfalso; rename_i t o; cases t <;> (cases hg; done))

end Sys2Proof.Machine
end

