-- ==== Sys2Proof/Laws/Flags.lean ====
section
/-!
SUPPORT. Elements of packed registers (R17): reading an element of a register built from elements.
-/
namespace Sys2Proof.Machine

/-- Folded elements below `2^(w·n)`. -/
theorem foldElems_lt (w : Nat) (l : List Nat) :
    l.foldr (fun e acc => e % 2 ^ w + 2 ^ w * acc) 0 < 2 ^ (w * l.length) := by
  induction l with
  | nil => simp
  | cons a l ih =>
    simp only [List.foldr_cons, List.length_cons, Nat.mul_add, Nat.mul_one, Nat.pow_add]
    have h1 : a % 2 ^ w < 2 ^ w := Nat.mod_lt _ (by positivity)
    generalize l.foldr (fun e acc => e % 2 ^ w + 2 ^ w * acc) 0 = r at ih ⊢
    calc a % 2 ^ w + 2 ^ w * r < 2 ^ w * (r + 1) := by rw [Nat.mul_add]; omega
      _ ≤ 2 ^ w * 2 ^ (w * l.length) := Nat.mul_le_mul_left _ ih
      _ = _ := Nat.mul_comm _ _

/-- An element of the folded number is the listed element modulo `2^w`. -/
theorem foldElems_div (w : Nat) (l : List Nat) (i : Nat) :
    l.foldr (fun e acc => e % 2 ^ w + 2 ^ w * acc) 0 / 2 ^ (i * w) % 2 ^ w = l.getD i 0 % 2 ^ w := by
  induction l generalizing i with
  | nil => simp
  | cons a l ih =>
    simp only [List.foldr_cons]
    have h1 : a % 2 ^ w < 2 ^ w := Nat.mod_lt _ (by positivity)
    cases i with
    | zero => simp
    | succ i =>
      have e1 : (2 : Nat) ^ ((i + 1) * w) = 2 ^ w * 2 ^ (i * w) := by ring
      rw [e1, ← Nat.div_div_eq_div_mul, Nat.add_mul_div_left _ _ (by positivity), Nat.div_eq_of_lt h1, Nat.zero_add, ih]
      simp

/-- Reading an element of a packed register. -/
theorem elem_packElems (w : Nat) (l : List Nat) (i : Nat) (hl : w * l.length ≤ 64) :
    elem w (packElems w l) i = l.getD i 0 % 2 ^ w := by
  unfold elem packElems
  have h := foldElems_lt w l
  have h2 : (2 : Nat) ^ (w * l.length) ≤ 2 ^ 64 := Nat.pow_le_pow_right (by norm_num) hl
  rw [BitVec.toNat_ofNat, Nat.mod_eq_of_lt (a := List.foldr ..) (lt_of_lt_of_le h h2), foldElems_div]

theorem elem_lt (w : Nat) (x : Word) (i : Nat) : elem w x i < 2 ^ w := Nat.mod_lt _ (by positivity)

/-- Reading an element of a register whose elements are given by a function. -/
theorem elem_packRange (w : Nat) (f : Nat → Nat) (i : Nat) (hi : i < 64 / w) :
    elem w (packElems w ((List.range (64 / w)).map f)) i = f i % 2 ^ w := by
  rw [elem_packElems _ _ _ (by simpa using Nat.mul_div_le 64 w)]
  simp [List.getD_eq_getElem?_getD, hi]

@[simp] theorem elems_length (w : Nat) (x : Word) : (elems w x).length = 64 / w := by simp [elems]

theorem elems_getD (w : Nat) (x : Word) (i : Nat) (hi : i < 64 / w) : (elems w x).getD i 0 = elem w x i := by
  simp [elems, List.getD_eq_getElem?_getD, hi]

/-- Reading an element of an elementwise function of one register. -/
theorem elem_map1 (w : Nat) (f : Nat → Nat) (a : Word) (i : Nat) (hi : i < 64 / w) :
    elem w (packElems w ((elems w a).map f)) i = f (elem w a i) % 2 ^ w := by
  rw [elem_packElems _ _ _ (by simpa using Nat.mul_div_le 64 w)]
  simp [List.getD_eq_getElem?_getD, hi, elems]

/-- Reading an element of an elementwise function of two registers. -/
theorem elem_zip (w : Nat) (f : Nat → Nat → Nat) (a b : Word) (i : Nat) (hi : i < 64 / w) :
    elem w (packElems w (List.zipWith f (elems w a) (elems w b))) i = f (elem w a i) (elem w b i) % 2 ^ w := by
  rw [elem_packElems _ _ _ (by simpa using Nat.mul_div_le 64 w)]
  simp [List.getD_eq_getElem?_getD, hi, elems]

end Sys2Proof.Machine
end

