-- ==== Sys2Proof/Laws/Mem.lean ====
section
/-!
SUPPORT. Laws of memory: what a write of bytes leaves at each address, what it reads back as, and that every operation
that writes memory or a scratchpad keeps their canonical form (log entry 1).
-/
namespace Sys2Proof.Machine

/-! ### Bytes -/

/-- Memory after a write of bytes: the bytes where they were written, and every other byte as it was. -/
theorem setBytes_mem (s : State) (pa a : Nat) (bs : List Byte) : sget (s.setBytes (.glob pa) bs).mem a =
    if pa ≤ a ∧ a < pa + bs.length then bs.getD (a - pa) 0 else sget s.mem a := by
  unfold State.setBytes
  dsimp only
  split <;> exact sget_ssets _ _ _ _

/-- A write to memory leaves the scratchpads. -/
@[simp] theorem setBytes_glob_scr (s : State) (pa : Nat) (bs : List Byte) : (s.setBytes (.glob pa) bs).scr = s.scr := by
  unfold State.setBytes
  dsimp only
  split <;> rfl

/-- A scratchpad after a write of bytes. -/
theorem setBytes_scr (s : State) (c o a : Nat) (bs : List Byte) : sget (s.setBytes (.scr c o) bs).scr a =
    if scrKey c o ≤ a ∧ a < scrKey c o + bs.length then bs.getD (a - scrKey c o) 0 else sget s.scr a := by
  unfold State.setBytes
  dsimp only
  split <;> exact sget_ssets _ _ _ _

/-- A write to a scratchpad leaves memory. -/
@[simp] theorem setBytes_scr_mem (s : State) (c o : Nat) (bs : List Byte) : (s.setBytes (.scr c o) bs).mem = s.mem := by
  unfold State.setBytes
  dsimp only
  split <;> rfl

/-- What a grid has written is noted with the grid: memory and the scratchpads stand. -/
@[simp] theorem wrote_mem (s : State) (gid n : Nat) (loc : Loc) : (s.wrote gid loc n).mem = s.mem := by cases loc <;> rfl
@[simp] theorem wrote_scr (s : State) (gid n : Nat) (loc : Loc) : (s.wrote gid loc n).scr = s.scr := by cases loc <;> rfl

theorem sgets_ssets (l : Sparse 8) (k : Nat) (as : List Byte) : sgets (ssets l k as) k as.length = as := by
  apply List.ext_getElem
  · simp [sgets]
  · intro i h1 h2
    simp only [sgets, List.getElem_map, List.getElem_range, sget_ssets]
    rw [if_pos ⟨by omega, by omega⟩]
    simp [List.getElem?_eq_getElem h2]

/-- Bytes just written read back. -/
theorem bytes_setBytes (s : State) (loc : Loc) (bs : List Byte) : (s.setBytes loc bs).bytes loc bs.length = bs := by
  cases loc with
  | glob pa =>
    unfold State.setBytes
    dsimp only
    split <;> exact sgets_ssets _ _ _
  | scr c a =>
    unfold State.setBytes
    dsimp only
    split <;> exact sgets_ssets _ _ _

/-! ### Canonical form -/

/-- The form depends on memory and the scratchpads alone. -/
theorem memWf_congr {s t : State} (hm : t.mem = s.mem) (hs : t.scr = s.scr) (h : s.memWf = true) : t.memWf = true := by
  unfold State.memWf at h ⊢
  rw [hm, hs]; exact h

theorem memWf_mk (s : State) (hm : sparseWf s.mem = true) (hs : sparseWf s.scr = true) : s.memWf = true := by
  unfold State.memWf
  rw [hm, hs]; rfl

theorem memWf_mem {s : State} (h : s.memWf = true) : sparseWf s.mem = true := by
  unfold State.memWf at h
  simp only [Bool.and_eq_true] at h
  exact h.1

theorem memWf_scr {s : State} (h : s.memWf = true) : sparseWf s.scr = true := by
  unfold State.memWf at h
  simp only [Bool.and_eq_true] at h
  exact h.2

/-- Reset memory has the form. -/
theorem memWf_reset : State.reset.memWf = true := by decide

/-- A write of bytes keeps it. -/
theorem memWf_setBytes (s : State) (loc : Loc) (bs : List Byte) (h : s.memWf = true) : (s.setBytes loc bs).memWf = true := by
  cases loc with
  | glob pa =>
    have h1 : ({ s with mem := ssets s.mem pa bs } : State).memWf = true :=
      memWf_mk _ (sparseWf_ssets s.mem _ _ (memWf_mem h)) (memWf_scr (s := s) h)
    unfold State.setBytes
    dsimp only
    split
    · exact h1
    · exact memWf_congr rfl rfl h1
  | scr c a =>
    have h1 : ({ s with scr := ssets s.scr (scrKey c a) bs } : State).memWf = true :=
      memWf_mk _ (memWf_mem (s := s) h) (sparseWf_ssets s.scr _ _ (memWf_scr h))
    unfold State.setBytes
    dsimp only
    split
    · exact h1
    · exact memWf_congr rfl rfl h1

theorem memWf_setDword (s : State) (pa : Nat) (x : Word) (h : s.memWf = true) : (s.setDword pa x).memWf = true :=
  memWf_setBytes _ _ _ h

/-- So does caching a leaf. -/
theorem memWf_cacheLeaf (s : State) (p : Nat) (x : Xlat) (h : s.memWf = true) : (s.cacheLeaf p x).memWf = true := by
  unfold State.cacheLeaf
  split
  · exact h
  · exact memWf_congr rfl rfl h

/-- So does the use of a translation. -/
theorem memWf_touch (s : State) (p : Nat) (x : Xlat) (write : Bool) (h : s.memWf = true) : (s.touch p x write).memWf = true := by
  unfold State.touch
  split
  · exact h
  · rename_i a _
    dsimp only
    generalize (s.dword a ||| 0x20#64 ||| if write then 0x40#64 else 0) = e
    have h1 : (if e = s.dword a then s else s.setDword a e).memWf = true := by
      split
      · exact h
      · exact memWf_setDword _ _ _ h
    exact memWf_cacheLeaf _ _ _ h1

/-- A fold of steps that keep the form keeps it. -/
theorem memWf_foldl {α : Type} (f : State → α → State) (hf : ∀ s a, s.memWf = true → (f s a).memWf = true) (l : List α)
    (s : State) (h : s.memWf = true) : (l.foldl f s).memWf = true := by
  induction l generalizing s with
  | nil => exact h
  | cons a l ih => exact ih _ (hf _ _ h)

/-- So does a write of a die, to memory or to its ports. -/
theorem memWf_diePut (s : State) (die : Nat) (loc : Loc) (bs : List Byte) (part : Nat) (rel : Bool) (h : s.memWf = true) :
    (s.diePut die loc bs part rel).memWf = true := by
  unfold State.diePut
  split
  · split
    · exact memWf_congr rfl rfl h
    · exact memWf_setBytes _ _ _ h
  · exact memWf_setBytes _ _ _ h

/-- So does a write through translations. -/
theorem memWf_writeVia {s t : State} (p : Nat) (va : Word) (bs : List Byte) (acc : Acc) (die : Nat) (rel : Bool)
    (h : s.memWf = true) (hw : s.writeVia p va bs acc die rel = .ok t) : t.memWf = true := by
  unfold State.writeVia at hw
  split at hw
  · cases hw
  · cases hw
    rename_i l _
    clear * - h
    induction l generalizing s bs with
    | nil => exact h
    | cons e l ih => exact ih _ (memWf_diePut _ _ _ _ _ _ (memWf_touch _ _ _ _ h))

/-- So does an engine's write. -/
theorem memWf_writeRuns (by_ : Writer) (l : List (Loc × Nat)) (s : State) (bs : List Byte) (h : s.memWf = true) :
    (s.writeRuns by_ l bs).memWf = true := by
  induction l generalizing s bs with
  | nil => exact h
  | cons e l ih => exact ih _ _ (memWf_congr (wrote_mem _ _ _ _) (wrote_scr _ _ _ _) (memWf_diePut _ _ _ _ _ _ h))

/-- Memory that a filter leaves keeps the form: a cold reset keeps the memory of the host and of other modules. -/
theorem sparseWf_filter {w : Nat} (l : Sparse w) (p : Nat × BitVec w → Bool) (h : sparseWf l = true) :
    sparseWf (l.filter p : Sparse w) = true := by
  simp only [sparseWf, Bool.and_eq_true] at h ⊢
  exact ⟨keysFrom_filter _ _ _ h.1, by
    simp only [List.all_eq_true, List.mem_filter] at h ⊢
    exact fun x hx => h.2 x hx.1⟩

/-- Scratchpads that an image is laid over keep the form: a restore. -/
theorem sparseWf_image {w : Nat} (image : List (Nat × BitVec w)) (l : Sparse w) (h : sparseWf l = true) :
    sparseWf (image.foldl (fun m e => sset m e.1 e.2) l) = true := by
  induction image generalizing l with
  | nil => exact h
  | cons e image ih => exact ih _ (sparseWf_sset _ _ _ h)

end Sys2Proof.Machine
end

