-- ==== Sys2Proof/Laws/State.lean ====
section
/-!
SUPPORT. What each update of the state leaves in each field, and of a wave's paths.
-/
namespace Sys2Proof.Machine

/-! ### `State.setMsys` -/

@[simp] theorem State.setMsys_turns (s : State) (m : MemSys) : (s.setMsys m).turns = s.turns := rfl
@[simp] theorem State.setMsys_cur (s : State) (m : MemSys) : (s.setMsys m).cur = s.cur := rfl
@[simp] theorem State.setMsys_fresh (s : State) (m : MemSys) : (s.setMsys m).fresh = s.fresh := rfl
@[simp] theorem State.setMsys_nextId (s : State) (m : MemSys) : (s.setMsys m).nextId = s.nextId := rfl
@[simp] theorem State.setMsys_clock (s : State) (m : MemSys) : (s.setMsys m).clock = s.clock := rfl
@[simp] theorem State.setMsys_time (s : State) (m : MemSys) : (s.setMsys m).time = s.time := rfl
@[simp] theorem State.setMsys_mem (s : State) (m : MemSys) : (s.setMsys m).mem = s.mem := rfl
@[simp] theorem State.setMsys_scr (s : State) (m : MemSys) : (s.setMsys m).scr = s.scr := rfl
@[simp] theorem State.setMsys_msys (s : State) (m : MemSys) : (s.setMsys m).msys = m := rfl
@[simp] theorem State.setMsys_hw (s : State) (m : MemSys) : (s.setMsys m).hw = s.hw := rfl
@[simp] theorem State.setMsys_parts (s : State) (m : MemSys) : (s.setMsys m).parts = s.parts := rfl
@[simp] theorem State.setMsys_grids (s : State) (m : MemSys) : (s.setMsys m).grids = s.grids := rfl
@[simp] theorem State.setMsys_blocks (s : State) (m : MemSys) : (s.setMsys m).blocks = s.blocks := rfl
@[simp] theorem State.setMsys_waves (s : State) (m : MemSys) : (s.setMsys m).waves = s.waves := rfl
@[simp] theorem State.setMsys_cores (s : State) (m : MemSys) : (s.setMsys m).cores = s.cores := rfl
@[simp] theorem State.setMsys_chans (s : State) (m : MemSys) : (s.setMsys m).chans = s.chans := rfl

/-! ### `State.setPart` -/

@[simp] theorem State.setPart_turns (s : State) (p : Nat) (x : Part) : (s.setPart p x).turns = s.turns := rfl
@[simp] theorem State.setPart_cur (s : State) (p : Nat) (x : Part) : (s.setPart p x).cur = s.cur := rfl
@[simp] theorem State.setPart_fresh (s : State) (p : Nat) (x : Part) : (s.setPart p x).fresh = s.fresh := rfl
@[simp] theorem State.setPart_nextId (s : State) (p : Nat) (x : Part) : (s.setPart p x).nextId = s.nextId := rfl
@[simp] theorem State.setPart_clock (s : State) (p : Nat) (x : Part) : (s.setPart p x).clock = s.clock := rfl
@[simp] theorem State.setPart_time (s : State) (p : Nat) (x : Part) : (s.setPart p x).time = s.time := rfl
@[simp] theorem State.setPart_mem (s : State) (p : Nat) (x : Part) : (s.setPart p x).mem = s.mem := rfl
@[simp] theorem State.setPart_scr (s : State) (p : Nat) (x : Part) : (s.setPart p x).scr = s.scr := rfl
@[simp] theorem State.setPart_msys (s : State) (p : Nat) (x : Part) : (s.setPart p x).msys = s.msys := rfl
@[simp] theorem State.setPart_hw (s : State) (p : Nat) (x : Part) : (s.setPart p x).hw = s.hw := rfl
@[simp] theorem State.setPart_parts (s : State) (p : Nat) (x : Part) : (s.setPart p x).parts = aset s.parts p x := rfl
@[simp] theorem State.setPart_grids (s : State) (p : Nat) (x : Part) : (s.setPart p x).grids = s.grids := rfl
@[simp] theorem State.setPart_blocks (s : State) (p : Nat) (x : Part) : (s.setPart p x).blocks = s.blocks := rfl
@[simp] theorem State.setPart_waves (s : State) (p : Nat) (x : Part) : (s.setPart p x).waves = s.waves := rfl
@[simp] theorem State.setPart_cores (s : State) (p : Nat) (x : Part) : (s.setPart p x).cores = s.cores := rfl
@[simp] theorem State.setPart_chans (s : State) (p : Nat) (x : Part) : (s.setPart p x).chans = s.chans := rfl

/-! ### `State.modPart` -/

@[simp] theorem State.modPart_turns (s : State) (p : Nat) (f : Part → Part) : (s.modPart p f).turns = s.turns := rfl
@[simp] theorem State.modPart_cur (s : State) (p : Nat) (f : Part → Part) : (s.modPart p f).cur = s.cur := rfl
@[simp] theorem State.modPart_fresh (s : State) (p : Nat) (f : Part → Part) : (s.modPart p f).fresh = s.fresh := rfl
@[simp] theorem State.modPart_nextId (s : State) (p : Nat) (f : Part → Part) : (s.modPart p f).nextId = s.nextId := rfl
@[simp] theorem State.modPart_clock (s : State) (p : Nat) (f : Part → Part) : (s.modPart p f).clock = s.clock := rfl
@[simp] theorem State.modPart_time (s : State) (p : Nat) (f : Part → Part) : (s.modPart p f).time = s.time := rfl
@[simp] theorem State.modPart_mem (s : State) (p : Nat) (f : Part → Part) : (s.modPart p f).mem = s.mem := rfl
@[simp] theorem State.modPart_scr (s : State) (p : Nat) (f : Part → Part) : (s.modPart p f).scr = s.scr := rfl
@[simp] theorem State.modPart_msys (s : State) (p : Nat) (f : Part → Part) : (s.modPart p f).msys = s.msys := rfl
@[simp] theorem State.modPart_hw (s : State) (p : Nat) (f : Part → Part) : (s.modPart p f).hw = s.hw := rfl
@[simp] theorem State.modPart_parts (s : State) (p : Nat) (f : Part → Part) : (s.modPart p f).parts = aset s.parts p (f (s.part p)) := rfl
@[simp] theorem State.modPart_grids (s : State) (p : Nat) (f : Part → Part) : (s.modPart p f).grids = s.grids := rfl
@[simp] theorem State.modPart_blocks (s : State) (p : Nat) (f : Part → Part) : (s.modPart p f).blocks = s.blocks := rfl
@[simp] theorem State.modPart_waves (s : State) (p : Nat) (f : Part → Part) : (s.modPart p f).waves = s.waves := rfl
@[simp] theorem State.modPart_cores (s : State) (p : Nat) (f : Part → Part) : (s.modPart p f).cores = s.cores := rfl
@[simp] theorem State.modPart_chans (s : State) (p : Nat) (f : Part → Part) : (s.modPart p f).chans = s.chans := rfl

/-! ### `State.setCore` -/

@[simp] theorem State.setCore_turns (s : State) (k : Nat) (x : Core) : (s.setCore k x).turns = s.turns := rfl
@[simp] theorem State.setCore_cur (s : State) (k : Nat) (x : Core) : (s.setCore k x).cur = s.cur := rfl
@[simp] theorem State.setCore_fresh (s : State) (k : Nat) (x : Core) : (s.setCore k x).fresh = s.fresh := rfl
@[simp] theorem State.setCore_nextId (s : State) (k : Nat) (x : Core) : (s.setCore k x).nextId = s.nextId := rfl
@[simp] theorem State.setCore_clock (s : State) (k : Nat) (x : Core) : (s.setCore k x).clock = s.clock := rfl
@[simp] theorem State.setCore_time (s : State) (k : Nat) (x : Core) : (s.setCore k x).time = s.time := rfl
@[simp] theorem State.setCore_mem (s : State) (k : Nat) (x : Core) : (s.setCore k x).mem = s.mem := rfl
@[simp] theorem State.setCore_scr (s : State) (k : Nat) (x : Core) : (s.setCore k x).scr = s.scr := rfl
@[simp] theorem State.setCore_msys (s : State) (k : Nat) (x : Core) : (s.setCore k x).msys = s.msys := rfl
@[simp] theorem State.setCore_hw (s : State) (k : Nat) (x : Core) : (s.setCore k x).hw = s.hw := rfl
@[simp] theorem State.setCore_parts (s : State) (k : Nat) (x : Core) : (s.setCore k x).parts = s.parts := rfl
@[simp] theorem State.setCore_grids (s : State) (k : Nat) (x : Core) : (s.setCore k x).grids = s.grids := rfl
@[simp] theorem State.setCore_blocks (s : State) (k : Nat) (x : Core) : (s.setCore k x).blocks = s.blocks := rfl
@[simp] theorem State.setCore_waves (s : State) (k : Nat) (x : Core) : (s.setCore k x).waves = s.waves := rfl
@[simp] theorem State.setCore_cores (s : State) (k : Nat) (x : Core) : (s.setCore k x).cores = aset s.cores k x := rfl
@[simp] theorem State.setCore_chans (s : State) (k : Nat) (x : Core) : (s.setCore k x).chans = s.chans := rfl

/-! ### `State.modCore` -/

@[simp] theorem State.modCore_turns (s : State) (k : Nat) (f : Core → Core) : (s.modCore k f).turns = s.turns := rfl
@[simp] theorem State.modCore_cur (s : State) (k : Nat) (f : Core → Core) : (s.modCore k f).cur = s.cur := rfl
@[simp] theorem State.modCore_fresh (s : State) (k : Nat) (f : Core → Core) : (s.modCore k f).fresh = s.fresh := rfl
@[simp] theorem State.modCore_nextId (s : State) (k : Nat) (f : Core → Core) : (s.modCore k f).nextId = s.nextId := rfl
@[simp] theorem State.modCore_clock (s : State) (k : Nat) (f : Core → Core) : (s.modCore k f).clock = s.clock := rfl
@[simp] theorem State.modCore_time (s : State) (k : Nat) (f : Core → Core) : (s.modCore k f).time = s.time := rfl
@[simp] theorem State.modCore_mem (s : State) (k : Nat) (f : Core → Core) : (s.modCore k f).mem = s.mem := rfl
@[simp] theorem State.modCore_scr (s : State) (k : Nat) (f : Core → Core) : (s.modCore k f).scr = s.scr := rfl
@[simp] theorem State.modCore_msys (s : State) (k : Nat) (f : Core → Core) : (s.modCore k f).msys = s.msys := rfl
@[simp] theorem State.modCore_hw (s : State) (k : Nat) (f : Core → Core) : (s.modCore k f).hw = s.hw := rfl
@[simp] theorem State.modCore_parts (s : State) (k : Nat) (f : Core → Core) : (s.modCore k f).parts = s.parts := rfl
@[simp] theorem State.modCore_grids (s : State) (k : Nat) (f : Core → Core) : (s.modCore k f).grids = s.grids := rfl
@[simp] theorem State.modCore_blocks (s : State) (k : Nat) (f : Core → Core) : (s.modCore k f).blocks = s.blocks := rfl
@[simp] theorem State.modCore_waves (s : State) (k : Nat) (f : Core → Core) : (s.modCore k f).waves = s.waves := rfl
@[simp] theorem State.modCore_cores (s : State) (k : Nat) (f : Core → Core) : (s.modCore k f).cores = aset s.cores k (f (s.core k)) := rfl
@[simp] theorem State.modCore_chans (s : State) (k : Nat) (f : Core → Core) : (s.modCore k f).chans = s.chans := rfl

/-! ### `State.setChan` -/

@[simp] theorem State.setChan_turns (s : State) (k : Nat) (x : Chan) : (s.setChan k x).turns = s.turns := rfl
@[simp] theorem State.setChan_cur (s : State) (k : Nat) (x : Chan) : (s.setChan k x).cur = s.cur := rfl
@[simp] theorem State.setChan_fresh (s : State) (k : Nat) (x : Chan) : (s.setChan k x).fresh = s.fresh := rfl
@[simp] theorem State.setChan_nextId (s : State) (k : Nat) (x : Chan) : (s.setChan k x).nextId = s.nextId := rfl
@[simp] theorem State.setChan_clock (s : State) (k : Nat) (x : Chan) : (s.setChan k x).clock = s.clock := rfl
@[simp] theorem State.setChan_time (s : State) (k : Nat) (x : Chan) : (s.setChan k x).time = s.time := rfl
@[simp] theorem State.setChan_mem (s : State) (k : Nat) (x : Chan) : (s.setChan k x).mem = s.mem := rfl
@[simp] theorem State.setChan_scr (s : State) (k : Nat) (x : Chan) : (s.setChan k x).scr = s.scr := rfl
@[simp] theorem State.setChan_msys (s : State) (k : Nat) (x : Chan) : (s.setChan k x).msys = s.msys := rfl
@[simp] theorem State.setChan_hw (s : State) (k : Nat) (x : Chan) : (s.setChan k x).hw = s.hw := rfl
@[simp] theorem State.setChan_parts (s : State) (k : Nat) (x : Chan) : (s.setChan k x).parts = s.parts := rfl
@[simp] theorem State.setChan_grids (s : State) (k : Nat) (x : Chan) : (s.setChan k x).grids = s.grids := rfl
@[simp] theorem State.setChan_blocks (s : State) (k : Nat) (x : Chan) : (s.setChan k x).blocks = s.blocks := rfl
@[simp] theorem State.setChan_waves (s : State) (k : Nat) (x : Chan) : (s.setChan k x).waves = s.waves := rfl
@[simp] theorem State.setChan_cores (s : State) (k : Nat) (x : Chan) : (s.setChan k x).cores = s.cores := rfl
@[simp] theorem State.setChan_chans (s : State) (k : Nat) (x : Chan) : (s.setChan k x).chans = aset s.chans k x := rfl

/-! ### `State.modChan` -/

@[simp] theorem State.modChan_turns (s : State) (k : Nat) (f : Chan → Chan) : (s.modChan k f).turns = s.turns := rfl
@[simp] theorem State.modChan_cur (s : State) (k : Nat) (f : Chan → Chan) : (s.modChan k f).cur = s.cur := rfl
@[simp] theorem State.modChan_fresh (s : State) (k : Nat) (f : Chan → Chan) : (s.modChan k f).fresh = s.fresh := rfl
@[simp] theorem State.modChan_nextId (s : State) (k : Nat) (f : Chan → Chan) : (s.modChan k f).nextId = s.nextId := rfl
@[simp] theorem State.modChan_clock (s : State) (k : Nat) (f : Chan → Chan) : (s.modChan k f).clock = s.clock := rfl
@[simp] theorem State.modChan_time (s : State) (k : Nat) (f : Chan → Chan) : (s.modChan k f).time = s.time := rfl
@[simp] theorem State.modChan_mem (s : State) (k : Nat) (f : Chan → Chan) : (s.modChan k f).mem = s.mem := rfl
@[simp] theorem State.modChan_scr (s : State) (k : Nat) (f : Chan → Chan) : (s.modChan k f).scr = s.scr := rfl
@[simp] theorem State.modChan_msys (s : State) (k : Nat) (f : Chan → Chan) : (s.modChan k f).msys = s.msys := rfl
@[simp] theorem State.modChan_hw (s : State) (k : Nat) (f : Chan → Chan) : (s.modChan k f).hw = s.hw := rfl
@[simp] theorem State.modChan_parts (s : State) (k : Nat) (f : Chan → Chan) : (s.modChan k f).parts = s.parts := rfl
@[simp] theorem State.modChan_grids (s : State) (k : Nat) (f : Chan → Chan) : (s.modChan k f).grids = s.grids := rfl
@[simp] theorem State.modChan_blocks (s : State) (k : Nat) (f : Chan → Chan) : (s.modChan k f).blocks = s.blocks := rfl
@[simp] theorem State.modChan_waves (s : State) (k : Nat) (f : Chan → Chan) : (s.modChan k f).waves = s.waves := rfl
@[simp] theorem State.modChan_cores (s : State) (k : Nat) (f : Chan → Chan) : (s.modChan k f).cores = s.cores := rfl
@[simp] theorem State.modChan_chans (s : State) (k : Nat) (f : Chan → Chan) : (s.modChan k f).chans = aset s.chans k (f (s.chan k)) := rfl

/-! ### `State.modGrid` -/

@[simp] theorem State.modGrid_turns (s : State) (g : Nat) (f : Grid → Grid) : (s.modGrid g f).turns = s.turns := rfl
@[simp] theorem State.modGrid_cur (s : State) (g : Nat) (f : Grid → Grid) : (s.modGrid g f).cur = s.cur := rfl
@[simp] theorem State.modGrid_fresh (s : State) (g : Nat) (f : Grid → Grid) : (s.modGrid g f).fresh = s.fresh := rfl
@[simp] theorem State.modGrid_nextId (s : State) (g : Nat) (f : Grid → Grid) : (s.modGrid g f).nextId = s.nextId := rfl
@[simp] theorem State.modGrid_clock (s : State) (g : Nat) (f : Grid → Grid) : (s.modGrid g f).clock = s.clock := rfl
@[simp] theorem State.modGrid_time (s : State) (g : Nat) (f : Grid → Grid) : (s.modGrid g f).time = s.time := rfl
@[simp] theorem State.modGrid_mem (s : State) (g : Nat) (f : Grid → Grid) : (s.modGrid g f).mem = s.mem := rfl
@[simp] theorem State.modGrid_scr (s : State) (g : Nat) (f : Grid → Grid) : (s.modGrid g f).scr = s.scr := rfl
@[simp] theorem State.modGrid_msys (s : State) (g : Nat) (f : Grid → Grid) : (s.modGrid g f).msys = s.msys := rfl
@[simp] theorem State.modGrid_hw (s : State) (g : Nat) (f : Grid → Grid) : (s.modGrid g f).hw = s.hw := rfl
@[simp] theorem State.modGrid_parts (s : State) (g : Nat) (f : Grid → Grid) : (s.modGrid g f).parts = s.parts := rfl
@[simp] theorem State.modGrid_grids (s : State) (g : Nat) (f : Grid → Grid) : (s.modGrid g f).grids = amod s.grids g f := rfl
@[simp] theorem State.modGrid_blocks (s : State) (g : Nat) (f : Grid → Grid) : (s.modGrid g f).blocks = s.blocks := rfl
@[simp] theorem State.modGrid_waves (s : State) (g : Nat) (f : Grid → Grid) : (s.modGrid g f).waves = s.waves := rfl
@[simp] theorem State.modGrid_cores (s : State) (g : Nat) (f : Grid → Grid) : (s.modGrid g f).cores = s.cores := rfl
@[simp] theorem State.modGrid_chans (s : State) (g : Nat) (f : Grid → Grid) : (s.modGrid g f).chans = s.chans := rfl

/-! ### `State.modBlock` -/

@[simp] theorem State.modBlock_turns (s : State) (b : Nat) (f : Block → Block) : (s.modBlock b f).turns = s.turns := rfl
@[simp] theorem State.modBlock_cur (s : State) (b : Nat) (f : Block → Block) : (s.modBlock b f).cur = s.cur := rfl
@[simp] theorem State.modBlock_fresh (s : State) (b : Nat) (f : Block → Block) : (s.modBlock b f).fresh = s.fresh := rfl
@[simp] theorem State.modBlock_nextId (s : State) (b : Nat) (f : Block → Block) : (s.modBlock b f).nextId = s.nextId := rfl
@[simp] theorem State.modBlock_clock (s : State) (b : Nat) (f : Block → Block) : (s.modBlock b f).clock = s.clock := rfl
@[simp] theorem State.modBlock_time (s : State) (b : Nat) (f : Block → Block) : (s.modBlock b f).time = s.time := rfl
@[simp] theorem State.modBlock_mem (s : State) (b : Nat) (f : Block → Block) : (s.modBlock b f).mem = s.mem := rfl
@[simp] theorem State.modBlock_scr (s : State) (b : Nat) (f : Block → Block) : (s.modBlock b f).scr = s.scr := rfl
@[simp] theorem State.modBlock_msys (s : State) (b : Nat) (f : Block → Block) : (s.modBlock b f).msys = s.msys := rfl
@[simp] theorem State.modBlock_hw (s : State) (b : Nat) (f : Block → Block) : (s.modBlock b f).hw = s.hw := rfl
@[simp] theorem State.modBlock_parts (s : State) (b : Nat) (f : Block → Block) : (s.modBlock b f).parts = s.parts := rfl
@[simp] theorem State.modBlock_grids (s : State) (b : Nat) (f : Block → Block) : (s.modBlock b f).grids = s.grids := rfl
@[simp] theorem State.modBlock_blocks (s : State) (b : Nat) (f : Block → Block) : (s.modBlock b f).blocks = amod s.blocks b f := rfl
@[simp] theorem State.modBlock_waves (s : State) (b : Nat) (f : Block → Block) : (s.modBlock b f).waves = s.waves := rfl
@[simp] theorem State.modBlock_cores (s : State) (b : Nat) (f : Block → Block) : (s.modBlock b f).cores = s.cores := rfl
@[simp] theorem State.modBlock_chans (s : State) (b : Nat) (f : Block → Block) : (s.modBlock b f).chans = s.chans := rfl

/-! ### `State.setWave` -/

@[simp] theorem State.setWave_turns (s : State) (w : Wave) : (s.setWave w).turns = s.turns := rfl
@[simp] theorem State.setWave_cur (s : State) (w : Wave) : (s.setWave w).cur = s.cur := rfl
@[simp] theorem State.setWave_fresh (s : State) (w : Wave) : (s.setWave w).fresh = s.fresh := rfl
@[simp] theorem State.setWave_nextId (s : State) (w : Wave) : (s.setWave w).nextId = s.nextId := rfl
@[simp] theorem State.setWave_clock (s : State) (w : Wave) : (s.setWave w).clock = s.clock := rfl
@[simp] theorem State.setWave_time (s : State) (w : Wave) : (s.setWave w).time = s.time := rfl
@[simp] theorem State.setWave_mem (s : State) (w : Wave) : (s.setWave w).mem = s.mem := rfl
@[simp] theorem State.setWave_scr (s : State) (w : Wave) : (s.setWave w).scr = s.scr := rfl
@[simp] theorem State.setWave_msys (s : State) (w : Wave) : (s.setWave w).msys = s.msys := rfl
@[simp] theorem State.setWave_hw (s : State) (w : Wave) : (s.setWave w).hw = s.hw := rfl
@[simp] theorem State.setWave_parts (s : State) (w : Wave) : (s.setWave w).parts = s.parts := rfl
@[simp] theorem State.setWave_grids (s : State) (w : Wave) : (s.setWave w).grids = s.grids := rfl
@[simp] theorem State.setWave_blocks (s : State) (w : Wave) : (s.setWave w).blocks = s.blocks := rfl
@[simp] theorem State.setWave_waves (s : State) (w : Wave) : (s.setWave w).waves = aset s.waves w.id w := rfl
@[simp] theorem State.setWave_cores (s : State) (w : Wave) : (s.setWave w).cores = s.cores := rfl
@[simp] theorem State.setWave_chans (s : State) (w : Wave) : (s.setWave w).chans = s.chans := rfl

/-! ### `State.modWave` -/

@[simp] theorem State.modWave_turns (s : State) (k : Nat) (f : Wave → Wave) : (s.modWave k f).turns = s.turns := rfl
@[simp] theorem State.modWave_cur (s : State) (k : Nat) (f : Wave → Wave) : (s.modWave k f).cur = s.cur := rfl
@[simp] theorem State.modWave_fresh (s : State) (k : Nat) (f : Wave → Wave) : (s.modWave k f).fresh = s.fresh := rfl
@[simp] theorem State.modWave_nextId (s : State) (k : Nat) (f : Wave → Wave) : (s.modWave k f).nextId = s.nextId := rfl
@[simp] theorem State.modWave_clock (s : State) (k : Nat) (f : Wave → Wave) : (s.modWave k f).clock = s.clock := rfl
@[simp] theorem State.modWave_time (s : State) (k : Nat) (f : Wave → Wave) : (s.modWave k f).time = s.time := rfl
@[simp] theorem State.modWave_mem (s : State) (k : Nat) (f : Wave → Wave) : (s.modWave k f).mem = s.mem := rfl
@[simp] theorem State.modWave_scr (s : State) (k : Nat) (f : Wave → Wave) : (s.modWave k f).scr = s.scr := rfl
@[simp] theorem State.modWave_msys (s : State) (k : Nat) (f : Wave → Wave) : (s.modWave k f).msys = s.msys := rfl
@[simp] theorem State.modWave_hw (s : State) (k : Nat) (f : Wave → Wave) : (s.modWave k f).hw = s.hw := rfl
@[simp] theorem State.modWave_parts (s : State) (k : Nat) (f : Wave → Wave) : (s.modWave k f).parts = s.parts := rfl
@[simp] theorem State.modWave_grids (s : State) (k : Nat) (f : Wave → Wave) : (s.modWave k f).grids = s.grids := rfl
@[simp] theorem State.modWave_blocks (s : State) (k : Nat) (f : Wave → Wave) : (s.modWave k f).blocks = s.blocks := rfl
@[simp] theorem State.modWave_waves (s : State) (k : Nat) (f : Wave → Wave) : (s.modWave k f).waves = amod s.waves k f := rfl
@[simp] theorem State.modWave_cores (s : State) (k : Nat) (f : Wave → Wave) : (s.modWave k f).cores = s.cores := rfl
@[simp] theorem State.modWave_chans (s : State) (k : Nat) (f : Wave → Wave) : (s.modWave k f).chans = s.chans := rfl

/-! ### `Wave.setPath` -/

@[simp] theorem Wave.setPath_id (w : Wave) (p : Path) : (w.setPath p).id = w.id := rfl
@[simp] theorem Wave.setPath_grid (w : Wave) (p : Path) : (w.setPath p).grid = w.grid := rfl
@[simp] theorem Wave.setPath_block (w : Wave) (p : Path) : (w.setPath p).block = w.block := rfl
@[simp] theorem Wave.setPath_sub (w : Wave) (p : Path) : (w.setPath p).sub = w.sub := rfl
@[simp] theorem Wave.setPath_slot (w : Wave) (p : Path) : (w.setPath p).slot = w.slot := rfl
@[simp] theorem Wave.setPath_vregs (w : Wave) (p : Path) : (w.setPath p).vregs = w.vregs := rfl
@[simp] theorem Wave.setPath_sregs (w : Wave) (p : Path) : (w.setPath p).sregs = w.sregs := rfl
@[simp] theorem Wave.setPath_rets (w : Wave) (p : Path) : (w.setPath p).rets = w.rets := rfl
@[simp] theorem Wave.setPath_v (w : Wave) (p : Path) : (w.setPath p).v = w.v := rfl
@[simp] theorem Wave.setPath_s (w : Wave) (p : Path) : (w.setPath p).s = w.s := rfl
@[simp] theorem Wave.setPath_launch (w : Wave) (p : Path) : (w.setPath p).launch = w.launch := rfl
@[simp] theorem Wave.setPath_p (w : Wave) (p : Path) : (w.setPath p).p = w.p := rfl
@[simp] theorem Wave.setPath_j (w : Wave) (p : Path) : (w.setPath p).j = w.j := rfl
@[simp] theorem Wave.setPath_jp (w : Wave) (p : Path) : (w.setPath p).jp = w.jp := rfl
@[simp] theorem Wave.setPath_mtg (w : Wave) (p : Path) : (w.setPath p).mtg = w.mtg := rfl
@[simp] theorem Wave.setPath_lk (w : Wave) (p : Path) : (w.setPath p).lk = w.lk := rfl
@[simp] theorem Wave.setPath_fctl (w : Wave) (p : Path) : (w.setPath p).fctl = w.fctl := rfl
@[simp] theorem Wave.setPath_stack (w : Wave) (p : Path) : (w.setPath p).stack = w.stack := rfl
@[simp] theorem Wave.setPath_spilled (w : Wave) (p : Path) : (w.setPath p).spilled = w.spilled := rfl
@[simp] theorem Wave.setPath_spills (w : Wave) (p : Path) : (w.setPath p).spills = w.spills := rfl
@[simp] theorem Wave.setPath_dsp (w : Wave) (p : Path) : (w.setPath p).dsp = w.dsp := rfl
@[simp] theorem Wave.setPath_ctr (w : Wave) (p : Path) : (w.setPath p).ctr = w.ctr := rfl
@[simp] theorem Wave.setPath_trap (w : Wave) (p : Path) : (w.setPath p).trap = w.trap := rfl
@[simp] theorem Wave.setPath_paths (w : Wave) (p : Path) : (w.setPath p).paths = w.paths.map fun q => if q.id = p.id then p else q := rfl
@[simp] theorem Wave.setPath_runPath (w : Wave) (p : Path) : (w.setPath p).runPath = w.runPath := rfl
@[simp] theorem Wave.setPath_pinned (w : Wave) (p : Path) : (w.setPath p).pinned = w.pinned := rfl
@[simp] theorem Wave.setPath_exited (w : Wave) (p : Path) : (w.setPath p).exited = w.exited := rfl
@[simp] theorem Wave.setPath_queue (w : Wave) (p : Path) : (w.setPath p).queue = w.queue := rfl
@[simp] theorem Wave.setPath_ops (w : Wave) (p : Path) : (w.setPath p).ops = w.ops := rfl
@[simp] theorem Wave.setPath_late (w : Wave) (p : Path) : (w.setPath p).late = w.late := rfl
@[simp] theorem Wave.setPath_ready (w : Wave) (p : Path) : (w.setPath p).ready = w.ready := rfl
@[simp] theorem Wave.setPath_issued (w : Wave) (p : Path) : (w.setPath p).issued = w.issued := rfl
@[simp] theorem Wave.setPath_redGen (w : Wave) (p : Path) : (w.setPath p).redGen = w.redGen := rfl
@[simp] theorem Wave.setPath_redCnt (w : Wave) (p : Path) : (w.setPath p).redCnt = w.redCnt := rfl
@[simp] theorem Wave.setPath_forks (w : Wave) (p : Path) : (w.setPath p).forks = w.forks := rfl
@[simp] theorem Wave.setPath_cause (w : Wave) (p : Path) : (w.setPath p).cause = w.cause := rfl
@[simp] theorem Wave.setPath_twin (w : Wave) (p : Path) : (w.setPath p).twin = w.twin := rfl

/-! ### `Wave.dropPath` -/

@[simp] theorem Wave.dropPath_id (w : Wave) (k : Nat) : (w.dropPath k).id = w.id := rfl
@[simp] theorem Wave.dropPath_grid (w : Wave) (k : Nat) : (w.dropPath k).grid = w.grid := rfl
@[simp] theorem Wave.dropPath_block (w : Wave) (k : Nat) : (w.dropPath k).block = w.block := rfl
@[simp] theorem Wave.dropPath_sub (w : Wave) (k : Nat) : (w.dropPath k).sub = w.sub := rfl
@[simp] theorem Wave.dropPath_slot (w : Wave) (k : Nat) : (w.dropPath k).slot = w.slot := rfl
@[simp] theorem Wave.dropPath_vregs (w : Wave) (k : Nat) : (w.dropPath k).vregs = w.vregs := rfl
@[simp] theorem Wave.dropPath_sregs (w : Wave) (k : Nat) : (w.dropPath k).sregs = w.sregs := rfl
@[simp] theorem Wave.dropPath_rets (w : Wave) (k : Nat) : (w.dropPath k).rets = w.rets := rfl
@[simp] theorem Wave.dropPath_v (w : Wave) (k : Nat) : (w.dropPath k).v = w.v := rfl
@[simp] theorem Wave.dropPath_s (w : Wave) (k : Nat) : (w.dropPath k).s = w.s := rfl
@[simp] theorem Wave.dropPath_launch (w : Wave) (k : Nat) : (w.dropPath k).launch = w.launch := rfl
@[simp] theorem Wave.dropPath_p (w : Wave) (k : Nat) : (w.dropPath k).p = w.p := rfl
@[simp] theorem Wave.dropPath_j (w : Wave) (k : Nat) : (w.dropPath k).j = w.j := rfl
@[simp] theorem Wave.dropPath_jp (w : Wave) (k : Nat) : (w.dropPath k).jp = w.jp := rfl
@[simp] theorem Wave.dropPath_mtg (w : Wave) (k : Nat) : (w.dropPath k).mtg = w.mtg := rfl
@[simp] theorem Wave.dropPath_lk (w : Wave) (k : Nat) : (w.dropPath k).lk = w.lk := rfl
@[simp] theorem Wave.dropPath_fctl (w : Wave) (k : Nat) : (w.dropPath k).fctl = w.fctl := rfl
@[simp] theorem Wave.dropPath_stack (w : Wave) (k : Nat) : (w.dropPath k).stack = w.stack := rfl
@[simp] theorem Wave.dropPath_spilled (w : Wave) (k : Nat) : (w.dropPath k).spilled = w.spilled := rfl
@[simp] theorem Wave.dropPath_spills (w : Wave) (k : Nat) : (w.dropPath k).spills = w.spills := rfl
@[simp] theorem Wave.dropPath_dsp (w : Wave) (k : Nat) : (w.dropPath k).dsp = w.dsp := rfl
@[simp] theorem Wave.dropPath_ctr (w : Wave) (k : Nat) : (w.dropPath k).ctr = w.ctr := rfl
@[simp] theorem Wave.dropPath_trap (w : Wave) (k : Nat) : (w.dropPath k).trap = w.trap := rfl
@[simp] theorem Wave.dropPath_paths (w : Wave) (k : Nat) : (w.dropPath k).paths = w.paths.filter fun q => decide (q.id ≠ k) := rfl
@[simp] theorem Wave.dropPath_runPath (w : Wave) (k : Nat) : (w.dropPath k).runPath = w.runPath := rfl
@[simp] theorem Wave.dropPath_pinned (w : Wave) (k : Nat) : (w.dropPath k).pinned = w.pinned := rfl
@[simp] theorem Wave.dropPath_exited (w : Wave) (k : Nat) : (w.dropPath k).exited = w.exited := rfl
@[simp] theorem Wave.dropPath_queue (w : Wave) (k : Nat) : (w.dropPath k).queue = w.queue := rfl
@[simp] theorem Wave.dropPath_ops (w : Wave) (k : Nat) : (w.dropPath k).ops = w.ops := rfl
@[simp] theorem Wave.dropPath_late (w : Wave) (k : Nat) : (w.dropPath k).late = w.late := rfl
@[simp] theorem Wave.dropPath_ready (w : Wave) (k : Nat) : (w.dropPath k).ready = w.ready := rfl
@[simp] theorem Wave.dropPath_issued (w : Wave) (k : Nat) : (w.dropPath k).issued = w.issued := rfl
@[simp] theorem Wave.dropPath_redGen (w : Wave) (k : Nat) : (w.dropPath k).redGen = w.redGen := rfl
@[simp] theorem Wave.dropPath_redCnt (w : Wave) (k : Nat) : (w.dropPath k).redCnt = w.redCnt := rfl
@[simp] theorem Wave.dropPath_forks (w : Wave) (k : Nat) : (w.dropPath k).forks = w.forks := rfl
@[simp] theorem Wave.dropPath_cause (w : Wave) (k : Nat) : (w.dropPath k).cause = w.cause := rfl
@[simp] theorem Wave.dropPath_twin (w : Wave) (k : Nat) : (w.dropPath k).twin = w.twin := rfl

/-! ### Lookups after updates -/

theorem State.aget_modWave (s : State) (k k' : Nat) (f : Wave → Wave) :
    aget (s.modWave k f).waves k' = if k' = k then (aget s.waves k).map f else aget s.waves k' := by
  simp [aget_amod]

theorem State.part_setPart (s : State) (p q : Nat) (x : Part) : (s.setPart p x).part q = if q = p then x else s.part q := by
  unfold State.part
  rw [State.setPart_parts, aget_aset]
  split <;> rfl

theorem State.part_modPart (s : State) (p q : Nat) (f : Part → Part) :
    (s.modPart p f).part q = if q = p then f (s.part p) else s.part q := State.part_setPart s p q (f (s.part p))

theorem State.core_modCore (s : State) (k j : Nat) (f : Core → Core) :
    (s.modCore k f).core j = if j = k then f (s.core k) else s.core j := by
  unfold State.core
  rw [State.modCore_cores, aget_aset]
  split <;> rfl

theorem State.chan_modChan (s : State) (k j : Nat) (f : Chan → Chan) :
    (s.modChan k f).chan j = if j = k then f (s.chan k) else s.chan j := by
  unfold State.chan
  rw [State.modChan_chans, aget_aset]
  split <;> rfl

/-- A path that is there is replaced, and no other is. -/
theorem Wave.path_setPath (w : Wave) (p : Path) (k : Nat) :
    (w.setPath p).path k = if k = p.id then (w.path k).map fun _ => p else w.path k := by
  unfold Wave.path Wave.setPath
  simp only
  induction w.paths with
  | nil => simp
  | cons q l ih =>
    simp only [List.map_cons, List.find?_cons]
    split_ifs at ih ⊢ <;> by_cases hq : q.id = p.id <;> by_cases hk : q.id = k <;> simp_all

end Sys2Proof.Machine
end

