-- ==== Sys2Proof/Laws/Ops.lean ====
section
/-!
SUPPORT. What the issue of a word can do: a word with nothing before it runs its effect and retires; retiring changes
no data; and the effect of a word that writes one register.
-/
namespace Sys2Proof.Machine

/-! ### Issue -/

/-- With nothing standing before a word, its checks let it go. -/
theorem Clear.go {i : Instr} {g : Sig} {c : WCtx} (h : Clear i g c) : readyCheck i g c = .go := by
  unfold readyCheck
  refine (if_neg ?_).trans ((if_neg ?_).trans ((if_neg ?_).trans ((if_neg ?_).trans ((if_neg ?_).trans (if_neg ?_)))))
  · intro h4
    simp only [Bool.and_eq_true] at h4
    rw [h.twin h4.1] at h4; exact absurd h4.2 (by decide)
  · unfold Wave.atCeiling
    cases hk : g.ctr with
    | none => simp
    | some k => simpa using h.ctr k hk
  · simp only [Bool.not_eq_true, List.any_eq_false]
    exact fun f hf => by simp [h.regs f hf]
  · have hr := h.role
    unfold roleRuns at hr
    cases hc : g.cls <;> simp only [hc] at hr <;> simp
    all_goals (cases i <;> simp_all)
  · intro h3
    simp only [Bool.and_eq_true, Bool.or_eq_true, List.any_eq_true] at h3
    obtain ⟨hs, h3⟩ := h3
    obtain ⟨ha, hb⟩ := h.stall hs
    rcases h3 with ⟨r, hr, h3⟩ | ⟨r, hr, o, ho, h3⟩
    · rw [ha r hr] at h3; exact absurd h3 (by decide)
    · rw [hb r hr o ho] at h3; exact absurd h3 (by decide)
  · intro h6
    simp only [Bool.and_eq_true, decide_eq_true_eq] at h6
    exact h6.2 (h.parked h6.1)

/-- A word that is clear and whose effect is `s1` goes on to `s1` retired. -/
theorem guarded_ok {i : Instr} {g : Sig} {s : State} {c : WCtx} (body : WCtx → State → Res) (s1 : State)
    (ha : AtWord i g s c) (hc : Clear i g c) (hb : body c (c.advance s) = .ok s1) :
    guarded i body s = .next (retire i g c s1) := by
  unfold guarded
  rw [ha.cur]
  simp only [issueWord, ha.wave, ha.sig, ha.path]
  rw [← ha.ctx, hc.go]
  simp only [hb]

/-- A word that is clear and whose effect is a fault takes it, its registers noted for its fork. -/
theorem guarded_fault {i : Instr} {g : Sig} {s : State} {c : WCtx} (body : WCtx → State → Res) (code : Nat)
    (lanes : Lanes) (addr : Word) (ha : AtWord i g s c) (hc : Clear i g c)
    (hb : body c (c.advance s) = .fault code lanes addr) :
    guarded i body s = .next (takeFault (c.named i g s) c.w.id c.p.id (c.ownFault i code lanes addr)) := by
  unfold guarded
  rw [ha.cur]
  simp only [issueWord, ha.wave, ha.sig, ha.path]
  rw [← ha.ctx, hc.go]
  simp only [hb]

/-- A word that has to wait changes nothing. -/
theorem guarded_hold {i : Instr} {g : Sig} {s : State} {c : WCtx} (body : WCtx → State → Res)
    (ha : AtWord i g s c) (hc : Clear i g c) (hb : body c (c.advance s) = .hold) : guarded i body s = .next s := by
  unfold guarded
  rw [ha.cur]
  simp only [issueWord, ha.wave, ha.sig, ha.path]
  rw [← ha.ctx, hc.go]
  simp only [hb]

/-- A wave's word never ends in a fault or a refusal of the model. -/
theorem guarded_next {i : Instr} {s : State} (body : WCtx → State → Res) (h : s.cur.onWord = true) :
    ∃ t, guarded i body s = .next t := by
  unfold guarded
  cases hc : s.cur <;> simp_all [Cursor.onWord]

/-- Nor does an engine's word. -/
theorem engine_next {s : State} (body : ECtx → State → ERes) (h : s.cur.onWord = true) : ∃ t, engine body s = .next t := by
  unfold engine
  cases hc : s.cur <;> simp_all [Cursor.onWord]

/-- Nor does an event. -/
theorem event_next {s : State} {a : EvArg} (body : EvArg → State → State) (h : s.cur = .event a) :
    event body s = .next (body a s) := by
  unfold event
  rw [h]

/-! ### Retirement -/

/-- A wave's data: what retiring a word does not touch. -/
def Wave.data (w : Wave) : Wave :=
  { w with ready := 0, issued := 0, late := [], runPath := none, pinned := false, forks := [], twin := none }

theorem Wave.track_data (w : Wave) (rd wr : RegSet) : (w.track rd wr).data = w.data := by
  unfold Wave.track
  cases w.twin <;> simp only [] <;> split <;> rfl

theorem Wave.track_butForks_of_none (w : Wave) (rd wr : RegSet) : (w.track rd wr).id = w.id := by
  unfold Wave.track
  cases w.twin <;> simp only [] <;> split <;> rfl

/-- What noting a clash changes: forks' marks of one wave. -/
theorem State.noteClash_waves (s : State) (wid k : Nat) :
    (aget (s.noteClash wid).waves k).map Wave.butForks = (aget s.waves k).map Wave.butForks := by
  unfold State.noteClash
  cases h : aget s.waves wid with
  | none => rfl
  | some w =>
    simp only []
    split
    · rfl
    · rw [State.aget_modWave]
      split_ifs with hk
      · subst hk; simp [h, Wave.butForks]
      · rfl

/-- The fields that neither tracking nor retiring touches. -/
structure WavesOnly (s t : State) : Prop where
  turns  : t.turns = s.turns
  cur    : t.cur = s.cur
  nextId : t.nextId = s.nextId
  time   : t.time = s.time
  mem    : t.mem = s.mem
  scr    : t.scr = s.scr
  msys   : t.msys = s.msys
  hw     : t.hw = s.hw
  parts  : t.parts = s.parts
  grids  : t.grids = s.grids
  blocks : t.blocks = s.blocks
  cores  : ∀ k, (t.core k).butPorts = (s.core k).butPorts
  chans  : t.chans = s.chans

theorem WavesOnly.refl (s : State) : WavesOnly s s :=
  ⟨rfl, rfl, rfl, rfl, rfl, rfl, rfl, rfl, rfl, rfl, rfl, fun _ => rfl, rfl⟩

theorem WavesOnly.trans {s t u : State} (h : WavesOnly s t) (h' : WavesOnly t u) : WavesOnly s u :=
  ⟨h'.turns.trans h.turns, h'.cur.trans h.cur, h'.nextId.trans h.nextId, h'.time.trans h.time, h'.mem.trans h.mem,
    h'.scr.trans h.scr, h'.msys.trans h.msys, h'.hw.trans h.hw, h'.parts.trans h.parts, h'.grids.trans h.grids,
    h'.blocks.trans h.blocks, fun k => (h'.cores k).trans (h.cores k), h'.chans.trans h.chans⟩

theorem WavesOnly.modWave (s : State) (k : Nat) (f : Wave → Wave) : WavesOnly s (s.modWave k f) :=
  ⟨rfl, rfl, rfl, rfl, rfl, rfl, rfl, rfl, rfl, rfl, rfl, fun _ => rfl, rfl⟩

/-- Taking a port changes the port's clock alone. -/
theorem WavesOnly.takePort (s : State) (k n t : Nat) :
    WavesOnly s (s.modCore k fun x => { x with ports := aset x.ports n t }) := by
  refine ⟨rfl, rfl, rfl, rfl, rfl, rfl, rfl, rfl, rfl, rfl, rfl, fun j => ?_, rfl⟩
  rw [State.core_modCore]
  split_ifs with h
  · subst h; rfl
  · rfl

theorem WavesOnly.sameElse {s t : State} (h : WavesOnly s t) : SameElse s t :=
  ⟨fun _ => by rw [h.mem], fun _ => by rw [h.scr], h.msys, h.hw, h.parts, h.grids, h.blocks, h.cores, h.chans, h.time⟩

theorem State.noteClash_wavesOnly (s : State) (wid : Nat) : WavesOnly s (s.noteClash wid) := by
  unfold State.noteClash
  cases aget s.waves wid with
  | none => exact .refl s
  | some w => simp only []; split; exacts [.refl s, .modWave ..]

theorem State.trackRegs_wavesOnly (s : State) (wid : Nat) (rd wr : RegSet) : WavesOnly s (s.trackRegs wid rd wr) := by
  unfold State.trackRegs
  cases aget s.waves wid with
  | none => exact .refl s
  | some w => simp only []; split; exacts [.refl s, (WavesOnly.modWave ..).trans (noteClash_wavesOnly ..)]

theorem Wave.data_of_butForks {a b : Option Wave} (h : a.map Wave.butForks = b.map Wave.butForks) :
    a.map Wave.data = b.map Wave.data := by
  have : ∀ w : Wave, w.data = w.butForks.data := fun _ => rfl
  cases a <;> cases b <;> simp only [Option.map_none, Option.map_some, reduceCtorEq, Option.some.injEq] at h ⊢
  rw [this, h, ← this]

/-- Tracking registers leaves every wave's data, and other waves but for their forks' marks. -/
theorem State.trackRegs_waves (s : State) (wid k : Nat) (rd wr : RegSet) :
    (aget (s.trackRegs wid rd wr).waves k).map Wave.data = (aget s.waves k).map Wave.data ∧
    (k ≠ wid → (aget (s.trackRegs wid rd wr).waves k).map Wave.butForks = (aget s.waves k).map Wave.butForks) := by
  unfold State.trackRegs
  cases h : aget s.waves wid with
  | none => exact ⟨rfl, fun _ => rfl⟩
  | some w =>
    simp only []
    split
    · exact ⟨rfl, fun _ => rfl⟩
    · have hn := fun j => State.noteClash_waves (s.modWave wid fun w => w.track rd wr) j k
      refine ⟨?_, fun hk => ?_⟩
      · rw [Wave.data_of_butForks (hn _), State.aget_modWave]
        split_ifs with hk
        · subst hk; simp [h, Wave.track_data]
        · rfl
      · rw [hn, State.aget_modWave, if_neg hk]

/-- RETIRING A WORD changes no data: only its port's clock, the wave's issue clocks, its early results, the path that issued, forks' marks
and what a twin has read and written, the clock and the number of free choices. -/
theorem retire_keeps (i : Instr) (g : Sig) (c : WCtx) (s : State) :
    WavesOnly s (retire i g c s) ∧
    (∀ k, (aget (retire i g c s).waves k).map Wave.data = (aget s.waves k).map Wave.data) ∧
    ∀ k, k ≠ c.w.id → (aget (retire i g c s).waves k).map Wave.butForks = (aget s.waves k).map Wave.butForks := by
  unfold retire
  simp only []
  refine ⟨?_, fun k => ?_, fun k hk => ?_⟩
  · exact (((WavesOnly.takePort ..).trans (WavesOnly.modWave ..)).trans (State.trackRegs_wavesOnly ..)).trans
      ⟨rfl, rfl, rfl, rfl, rfl, rfl, rfl, rfl, rfl, rfl, rfl, fun _ => rfl, rfl⟩
  · rw [(State.trackRegs_waves _ _ k _ _).1, State.aget_modWave, State.modCore_waves]
    by_cases h : k = c.w.id
    · rw [if_pos h, h]; cases aget s.waves c.w.id <;> rfl
    · rw [if_neg h]
  · rw [(State.trackRegs_waves _ _ k _ _).2 hk, State.aget_modWave, if_neg hk, State.modCore_waves]

theorem Wave.reg_data (w : Wave) (r : RegName) (l : Nat) : w.data.reg r l = w.reg r l := by cases r <;> rfl

/-- A register after retirement is the register before it. -/
theorem retire_reg (i : Instr) (g : Sig) (c : WCtx) (s : State) (k : Nat) (r : RegName) (l : Nat) :
    (retire i g c s).regIn k r l = s.regIn k r l := by
  have h := (retire_keeps i g c s).2.1 k
  unfold State.regIn
  cases h1 : aget (retire i g c s).waves k <;> cases h2 : aget s.waves k <;> rw [h1, h2] at h <;> simp at h ⊢
  rw [← Wave.reg_data, h, Wave.reg_data]

end Sys2Proof.Machine
end

