-- ==== Sys2Proof/Laws/PerInstr.lean ====
section
/-!
SUPPORT. Laws said of each instruction: its row of the opcode table has an opcode that fits the
field of 9 bits.
-/
namespace Sys2Proof.Laws

/-- The row's opcode fits its field (R31, R47). -/
def OpcodeFits.Statement (i : Instr) : Prop := ∀ g, i.sig = some g → g.opc < 512

/-- A third register changes no opcode. -/
theorem third_opc (o : OpsV) (g : Sig) : (Table.third o g).opc = g.opc := by
  unfold Table.third
  split <;> rfl

theorem OpcodeFits.add (t : IntTy) (o : OpsV) : OpcodeFits.Statement (.add t o) := fun g hg => by
  cases hg; cases t <;> exact of_decide_eq_true rfl
theorem OpcodeFits.sub (t : IntTy) (o : OpsV) : OpcodeFits.Statement (.sub t o) := fun g hg => by
  cases hg; cases t <;> exact of_decide_eq_true rfl
theorem OpcodeFits.mul (t : IntTy) (o : OpsV) : OpcodeFits.Statement (.mul t o) := fun g hg => by
  cases hg; cases t <;> exact of_decide_eq_true rfl
theorem OpcodeFits.mulhi (t : IntTy) (o : OpsV) : OpcodeFits.Statement (.mulhi t o) := fun g hg => by
  cases hg; cases t <;> exact of_decide_eq_true rfl
theorem OpcodeFits.min (t : IntTy) (o : OpsV) : OpcodeFits.Statement (.min t o) := fun g hg => by
  cases hg; cases t <;> exact of_decide_eq_true rfl
theorem OpcodeFits.max (t : IntTy) (o : OpsV) : OpcodeFits.Statement (.max t o) := fun g hg => by
  cases hg; cases t <;> exact of_decide_eq_true rfl
theorem OpcodeFits.mad (t : IntTy) (o : OpsV) : OpcodeFits.Statement (.mad t o) := fun g hg => by
  cases hg; cases t <;> (first | exact of_decide_eq_true rfl | exact Nat.lt_of_le_of_lt (Nat.le_of_eq (third_opc _ _)) (of_decide_eq_true rfl))
theorem OpcodeFits.and (o : OpsV) : OpcodeFits.Statement (.and o) := fun g hg => by
  cases hg; exact of_decide_eq_true rfl
theorem OpcodeFits.or (o : OpsV) : OpcodeFits.Statement (.or o) := fun g hg => by
  cases hg; exact of_decide_eq_true rfl
theorem OpcodeFits.xor (o : OpsV) : OpcodeFits.Statement (.xor o) := fun g hg => by
  cases hg; exact of_decide_eq_true rfl
theorem OpcodeFits.andn (o : OpsV) : OpcodeFits.Statement (.andn o) := fun g hg => by
  cases hg; exact of_decide_eq_true rfl
theorem OpcodeFits.not (o : OpsV) : OpcodeFits.Statement (.not o) := fun g hg => by
  cases hg; exact of_decide_eq_true rfl
theorem OpcodeFits.popc (t : IntTy) (o : OpsV) : OpcodeFits.Statement (.popc t o) := fun g hg => by
  cases hg; cases t <;> exact of_decide_eq_true rfl
theorem OpcodeFits.clz (t : IntTy) (o : OpsV) : OpcodeFits.Statement (.clz t o) := fun g hg => by
  cases hg; cases t <;> exact of_decide_eq_true rfl
theorem OpcodeFits.brev (t : IntTy) (o : OpsV) : OpcodeFits.Statement (.brev t o) := fun g hg => by
  cases hg; cases t <;> exact of_decide_eq_true rfl
theorem OpcodeFits.sel (o : OpsV) : OpcodeFits.Statement (.sel o) := fun g hg => by
  cases hg; (first | exact of_decide_eq_true rfl | exact Nat.lt_of_le_of_lt (Nat.le_of_eq (third_opc _ _)) (of_decide_eq_true rfl))
theorem OpcodeFits.shl (t : IntTy) (o : OpsV) : OpcodeFits.Statement (.shl t o) := fun g hg => by
  cases hg; cases t <;> exact of_decide_eq_true rfl
theorem OpcodeFits.shr (t : IntTy) (o : OpsV) : OpcodeFits.Statement (.shr t o) := fun g hg => by
  cases hg; cases t <;> exact of_decide_eq_true rfl
theorem OpcodeFits.bfe (t : IntTy) (o : OpsV) : OpcodeFits.Statement (.bfe t o) := fun g hg => by
  cases hg; cases t <;> exact of_decide_eq_true rfl
theorem OpcodeFits.bfi (t : IntTy) (o : OpsV) : OpcodeFits.Statement (.bfi t o) := fun g hg => by
  cases hg; cases t <;> (first | exact of_decide_eq_true rfl | exact Nat.lt_of_le_of_lt (Nat.le_of_eq (third_opc _ _)) (of_decide_eq_true rfl))
theorem OpcodeFits.cmpEq (t : IntTy) (o : OpsV) : OpcodeFits.Statement (.cmpEq t o) := fun g hg => by
  cases hg; cases t <;> exact of_decide_eq_true rfl
theorem OpcodeFits.cmpNe (t : IntTy) (o : OpsV) : OpcodeFits.Statement (.cmpNe t o) := fun g hg => by
  cases hg; cases t <;> exact of_decide_eq_true rfl
theorem OpcodeFits.cmpLt (t : IntTy) (o : OpsV) : OpcodeFits.Statement (.cmpLt t o) := fun g hg => by
  cases hg; cases t <;> exact of_decide_eq_true rfl
theorem OpcodeFits.cmpLe (t : IntTy) (o : OpsV) : OpcodeFits.Statement (.cmpLe t o) := fun g hg => by
  cases hg; cases t <;> exact of_decide_eq_true rfl
theorem OpcodeFits.pand (o : OpsV) : OpcodeFits.Statement (.pand o) := fun g hg => by
  cases hg; exact of_decide_eq_true rfl
theorem OpcodeFits.por (o : OpsV) : OpcodeFits.Statement (.por o) := fun g hg => by
  cases hg; exact of_decide_eq_true rfl
theorem OpcodeFits.pxor (o : OpsV) : OpcodeFits.Statement (.pxor o) := fun g hg => by
  cases hg; exact of_decide_eq_true rfl
theorem OpcodeFits.pnot (o : OpsV) : OpcodeFits.Statement (.pnot o) := fun g hg => by
  cases hg; exact of_decide_eq_true rfl
theorem OpcodeFits.mov (o : OpsV) : OpcodeFits.Statement (.mov o) := fun g hg => by
  cases hg; exact of_decide_eq_true rfl
theorem OpcodeFits.movImm (o : OpsV) : OpcodeFits.Statement (.movImm o) := fun g hg => by
  cases hg; exact of_decide_eq_true rfl
theorem OpcodeFits.movs (o : OpsV) : OpcodeFits.Statement (.movs o) := fun g hg => by
  cases hg; exact of_decide_eq_true rfl
theorem OpcodeFits.lid (o : OpsV) : OpcodeFits.Statement (.lid o) := fun g hg => by
  cases hg; exact of_decide_eq_true rfl
theorem OpcodeFits.movp (o : OpsV) : OpcodeFits.Statement (.movp o) := fun g hg => by
  cases hg; exact of_decide_eq_true rfl
theorem OpcodeFits.ptst (o : OpsV) : OpcodeFits.Statement (.ptst o) := fun g hg => by
  cases hg; exact of_decide_eq_true rfl
theorem OpcodeFits.addc (o : OpsV) : OpcodeFits.Statement (.addc o) := fun g hg => by
  cases hg; exact of_decide_eq_true rfl
theorem OpcodeFits.subb (o : OpsV) : OpcodeFits.Statement (.subb o) := fun g hg => by
  cases hg; exact of_decide_eq_true rfl
theorem OpcodeFits.abs (t : IntTy) (o : OpsV) : OpcodeFits.Statement (.abs t o) := fun g hg => by
  cases hg; cases t <;> exact of_decide_eq_true rfl
theorem OpcodeFits.neg (t : IntTy) (o : OpsV) : OpcodeFits.Statement (.neg t o) := fun g hg => by
  cases hg; cases t <;> exact of_decide_eq_true rfl
theorem OpcodeFits.wid (t : IntTy) (o : OpsV) : OpcodeFits.Statement (.wid t o) := fun g hg => by
  cases hg; cases t <;> exact of_decide_eq_true rfl
theorem OpcodeFits.nar (t : IntTy) (o : OpsV) : OpcodeFits.Statement (.nar t o) := fun g hg => by
  cases hg; cases t <;> exact of_decide_eq_true rfl
theorem OpcodeFits.lea (k : BitVec 2) (o : OpsV) : OpcodeFits.Statement (.lea k o) := fun g hg => by
  cases hg
  have h : 0x07C + k.toNat < 512 := by have := k.isLt; omega
  exact h
theorem OpcodeFits.fadd (t : FTy) (o : OpsV) : OpcodeFits.Statement (.fadd t o) := fun g hg => by
  cases hg; cases t <;> exact of_decide_eq_true rfl
theorem OpcodeFits.fsub (t : FTy) (o : OpsV) : OpcodeFits.Statement (.fsub t o) := fun g hg => by
  cases hg; cases t <;> exact of_decide_eq_true rfl
theorem OpcodeFits.fmul (t : FTy) (o : OpsV) : OpcodeFits.Statement (.fmul t o) := fun g hg => by
  cases hg; cases t <;> exact of_decide_eq_true rfl
theorem OpcodeFits.fma (t : FTy) (o : OpsV) : OpcodeFits.Statement (.fma t o) := fun g hg => by
  cases hg; cases t <;> (first | exact of_decide_eq_true rfl | exact Nat.lt_of_le_of_lt (Nat.le_of_eq (third_opc _ _)) (of_decide_eq_true rfl))
theorem OpcodeFits.fmin (t : FTy) (o : OpsV) : OpcodeFits.Statement (.fmin t o) := fun g hg => by
  cases hg; cases t <;> exact of_decide_eq_true rfl
theorem OpcodeFits.fmax (t : FTy) (o : OpsV) : OpcodeFits.Statement (.fmax t o) := fun g hg => by
  cases hg; cases t <;> exact of_decide_eq_true rfl
theorem OpcodeFits.fmaxix (t : FTy) (o : OpsV) : OpcodeFits.Statement (.fmaxix t o) := fun g hg => by
  cases hg; cases t <;> exact of_decide_eq_true rfl
theorem OpcodeFits.frnd (t : FTy) (o : OpsV) : OpcodeFits.Statement (.frnd t o) := fun g hg => by
  cases hg; cases t <;> exact of_decide_eq_true rfl
theorem OpcodeFits.fcmpEq (t : FTy) (o : OpsV) : OpcodeFits.Statement (.fcmpEq t o) := fun g hg => by
  cases hg; cases t <;> exact of_decide_eq_true rfl
theorem OpcodeFits.fcmpNe (t : FTy) (o : OpsV) : OpcodeFits.Statement (.fcmpNe t o) := fun g hg => by
  cases hg; cases t <;> exact of_decide_eq_true rfl
theorem OpcodeFits.fcmpLt (t : FTy) (o : OpsV) : OpcodeFits.Statement (.fcmpLt t o) := fun g hg => by
  cases hg; cases t <;> exact of_decide_eq_true rfl
theorem OpcodeFits.fcmpLe (t : FTy) (o : OpsV) : OpcodeFits.Statement (.fcmpLe t o) := fun g hg => by
  cases hg; cases t <;> exact of_decide_eq_true rfl
theorem OpcodeFits.fcmpUn (t : FTy) (o : OpsV) : OpcodeFits.Statement (.fcmpUn t o) := fun g hg => by
  cases hg; cases t <;> exact of_decide_eq_true rfl
theorem OpcodeFits.fclass (t : FTy) (o : OpsV) : OpcodeFits.Statement (.fclass t o) := fun g hg => by
  cases hg; cases t <;> exact of_decide_eq_true rfl
theorem OpcodeFits.frcp (t : FTy) (o : OpsV) : OpcodeFits.Statement (.frcp t o) := fun g hg => by
  cases hg; cases t <;> exact of_decide_eq_true rfl
theorem OpcodeFits.frsq (t : FTy) (o : OpsV) : OpcodeFits.Statement (.frsq t o) := fun g hg => by
  cases hg; cases t <;> exact of_decide_eq_true rfl
theorem OpcodeFits.fsqrt (t : FTy) (o : OpsV) : OpcodeFits.Statement (.fsqrt t o) := fun g hg => by
  cases hg; cases t <;> exact of_decide_eq_true rfl
theorem OpcodeFits.fdiv (t : FTy) (o : OpsV) : OpcodeFits.Statement (.fdiv t o) := fun g hg => by
  cases hg; cases t <;> exact of_decide_eq_true rfl
theorem OpcodeFits.fexp2 (o : OpsV) : OpcodeFits.Statement (.fexp2 o) := fun g hg => by
  cases hg; exact of_decide_eq_true rfl
theorem OpcodeFits.flog2 (o : OpsV) : OpcodeFits.Statement (.flog2 o) := fun g hg => by
  cases hg; exact of_decide_eq_true rfl
theorem OpcodeFits.fsin (o : OpsV) : OpcodeFits.Statement (.fsin o) := fun g hg => by
  cases hg; exact of_decide_eq_true rfl
theorem OpcodeFits.fcos (o : OpsV) : OpcodeFits.Statement (.fcos o) := fun g hg => by
  cases hg; exact of_decide_eq_true rfl
theorem OpcodeFits.ftanh (o : OpsV) : OpcodeFits.Statement (.ftanh o) := fun g hg => by
  cases hg; exact of_decide_eq_true rfl
theorem OpcodeFits.cvt (c : CvtForm) (o : OpsV) : OpcodeFits.Statement (.cvt c o) := fun g hg => by
  cases hg; cases c <;> exact of_decide_eq_true rfl
theorem OpcodeFits.cvts (c : CvtsForm) (o : OpsV) : OpcodeFits.Statement (.cvts c o) := fun g hg => by
  cases hg; cases c <;> exact of_decide_eq_true rfl
theorem OpcodeFits.sclSc8F32 (o : OpsV) : OpcodeFits.Statement (.sclSc8F32 o) := fun g hg => by
  cases hg; exact of_decide_eq_true rfl
theorem OpcodeFits.kqdec (o : OpsV) : OpcodeFits.Statement (.kqdec o) := fun g hg => by
  cases hg; exact of_decide_eq_true rfl
theorem OpcodeFits.dot (c : DotForm) (o : OpsV) : OpcodeFits.Statement (.dot c o) := fun g hg => by
  cases hg; cases c <;> exact of_decide_eq_true rfl
theorem OpcodeFits.dot8 (x : Sgn) (y : Sgn) (o : OpsV) : OpcodeFits.Statement (.dot8 x y o) := fun g hg => by
  cases hg; cases x <;> cases y <;> exact of_decide_eq_true rfl
theorem OpcodeFits.dot4 (x : Sgn) (y : Sgn) (o : OpsV) : OpcodeFits.Statement (.dot4 x y o) := fun g hg => by
  cases hg; cases x <;> cases y <;> exact of_decide_eq_true rfl
theorem OpcodeFits.shfl (o : OpsV) : OpcodeFits.Statement (.shfl o) := fun g hg => by
  cases hg; exact of_decide_eq_true rfl
theorem OpcodeFits.shflX (o : OpsV) : OpcodeFits.Statement (.shflX o) := fun g hg => by
  cases hg; exact of_decide_eq_true rfl
theorem OpcodeFits.shflUp (o : OpsV) : OpcodeFits.Statement (.shflUp o) := fun g hg => by
  cases hg; exact of_decide_eq_true rfl
theorem OpcodeFits.shflDn (o : OpsV) : OpcodeFits.Statement (.shflDn o) := fun g hg => by
  cases hg; exact of_decide_eq_true rfl
theorem OpcodeFits.bcast (o : OpsV) : OpcodeFits.Statement (.bcast o) := fun g hg => by
  cases hg; exact of_decide_eq_true rfl
theorem OpcodeFits.redux (c : ReduxOp) (o : OpsV) : OpcodeFits.Statement (.redux c o) := fun g hg => by
  cases hg; cases c <;> exact of_decide_eq_true rfl
theorem OpcodeFits.vote (c : VoteOp) (o : OpsV) : OpcodeFits.Statement (.vote c o) := fun g hg => by
  cases hg; cases c <;> exact of_decide_eq_true rfl
theorem OpcodeFits.perm (o : OpsV) : OpcodeFits.Statement (.perm o) := fun g hg => by
  cases hg; exact of_decide_eq_true rfl
theorem OpcodeFits.fctlRd (o : OpsV) : OpcodeFits.Statement (.fctlRd o) := fun g hg => by
  cases hg; exact of_decide_eq_true rfl
theorem OpcodeFits.fctlWr (o : OpsV) : OpcodeFits.Statement (.fctlWr o) := fun g hg => by
  cases hg; exact of_decide_eq_true rfl
theorem OpcodeFits.uadd (o : OpsG) : OpcodeFits.Statement (.uadd o) := fun g hg => by
  cases hg; exact of_decide_eq_true rfl
theorem OpcodeFits.usub (o : OpsG) : OpcodeFits.Statement (.usub o) := fun g hg => by
  cases hg; exact of_decide_eq_true rfl
theorem OpcodeFits.umul (o : OpsG) : OpcodeFits.Statement (.umul o) := fun g hg => by
  cases hg; exact of_decide_eq_true rfl
theorem OpcodeFits.umulhi (t : Sgn) (o : OpsG) : OpcodeFits.Statement (.umulhi t o) := fun g hg => by
  cases hg; cases t <;> exact of_decide_eq_true rfl
theorem OpcodeFits.umin (t : Sgn) (o : OpsG) : OpcodeFits.Statement (.umin t o) := fun g hg => by
  cases hg; cases t <;> exact of_decide_eq_true rfl
theorem OpcodeFits.umax (t : Sgn) (o : OpsG) : OpcodeFits.Statement (.umax t o) := fun g hg => by
  cases hg; cases t <;> exact of_decide_eq_true rfl
theorem OpcodeFits.uand (o : OpsG) : OpcodeFits.Statement (.uand o) := fun g hg => by
  cases hg; exact of_decide_eq_true rfl
theorem OpcodeFits.uor (o : OpsG) : OpcodeFits.Statement (.uor o) := fun g hg => by
  cases hg; exact of_decide_eq_true rfl
theorem OpcodeFits.uxor (o : OpsG) : OpcodeFits.Statement (.uxor o) := fun g hg => by
  cases hg; exact of_decide_eq_true rfl
theorem OpcodeFits.ushl (o : OpsG) : OpcodeFits.Statement (.ushl o) := fun g hg => by
  cases hg; exact of_decide_eq_true rfl
theorem OpcodeFits.ushr (t : Sgn) (o : OpsG) : OpcodeFits.Statement (.ushr t o) := fun g hg => by
  cases hg; cases t <;> exact of_decide_eq_true rfl
theorem OpcodeFits.umov (o : OpsG) : OpcodeFits.Statement (.umov o) := fun g hg => by
  cases hg; exact of_decide_eq_true rfl
theorem OpcodeFits.umovImm (o : OpsG) : OpcodeFits.Statement (.umovImm o) := fun g hg => by
  cases hg; exact of_decide_eq_true rfl
theorem OpcodeFits.movl (o : OpsG) : OpcodeFits.Statement (.movl o) := fun g hg => by
  cases hg; exact of_decide_eq_true rfl
theorem OpcodeFits.ulane (o : OpsG) : OpcodeFits.Statement (.ulane o) := fun g hg => by
  cases hg; exact of_decide_eq_true rfl
theorem OpcodeFits.ucmpEq (o : OpsG) : OpcodeFits.Statement (.ucmpEq o) := fun g hg => by
  cases hg; exact of_decide_eq_true rfl
theorem OpcodeFits.ucmpNe (o : OpsG) : OpcodeFits.Statement (.ucmpNe o) := fun g hg => by
  cases hg; exact of_decide_eq_true rfl
theorem OpcodeFits.ucmpLt (t : Sgn) (o : OpsG) : OpcodeFits.Statement (.ucmpLt t o) := fun g hg => by
  cases hg; cases t <;> exact of_decide_eq_true rfl
theorem OpcodeFits.ucmpLe (t : Sgn) (o : OpsG) : OpcodeFits.Statement (.ucmpLe t o) := fun g hg => by
  cases hg; cases t <;> exact of_decide_eq_true rfl
theorem OpcodeFits.upopc (o : OpsG) : OpcodeFits.Statement (.upopc o) := fun g hg => by
  cases hg; exact of_decide_eq_true rfl
theorem OpcodeFits.uclz (o : OpsG) : OpcodeFits.Statement (.uclz o) := fun g hg => by
  cases hg; exact of_decide_eq_true rfl
theorem OpcodeFits.ldG (t : MemTy) (b : Base) (o : OpsG) : OpcodeFits.Statement (.ldG t b o) := fun g hg => by
  cases hg; cases t <;> cases b <;> exact of_decide_eq_true rfl
theorem OpcodeFits.ldGN64X2 (b : Base) (o : OpsG) : OpcodeFits.Statement (.ldGN64X2 b o) := fun g hg => by
  cases hg; cases b <;> exact of_decide_eq_true rfl
theorem OpcodeFits.stG (t : StTy) (b : Base) (o : OpsG) : OpcodeFits.Statement (.stG t b o) := fun g hg => by
  cases hg; cases t <;> cases b <;> exact of_decide_eq_true rfl
theorem OpcodeFits.stGN64X2 (b : Base) (o : OpsG) : OpcodeFits.Statement (.stGN64X2 b o) := fun g hg => by
  cases hg; cases b <;> exact of_decide_eq_true rfl
theorem OpcodeFits.ldo (t : NW) (o : OpsAT) : OpcodeFits.Statement (.ldo t o) := fun g hg => by
  cases hg; cases t <;> exact of_decide_eq_true rfl
theorem OpcodeFits.sto (t : NW) (o : OpsAT) : OpcodeFits.Statement (.sto t o) := fun g hg => by
  cases hg; cases t <;> exact of_decide_eq_true rfl
theorem OpcodeFits.fence (o : OpsN) : OpcodeFits.Statement (.fence o) := fun g hg => by
  cases hg; exact of_decide_eq_true rfl
theorem OpcodeFits.fenceScSys (o : OpsN) : OpcodeFits.Statement (.fenceScSys o) := fun g hg => by
  cases hg; exact of_decide_eq_true rfl
theorem OpcodeFits.ldS (t : MemTy) (o : OpsG) : OpcodeFits.Statement (.ldS t o) := fun g hg => by
  cases hg; cases t <;> exact of_decide_eq_true rfl
theorem OpcodeFits.ldSN64X2 (o : OpsG) : OpcodeFits.Statement (.ldSN64X2 o) := fun g hg => by
  cases hg; exact of_decide_eq_true rfl
theorem OpcodeFits.stS (t : StTy) (o : OpsG) : OpcodeFits.Statement (.stS t o) := fun g hg => by
  cases hg; cases t <;> exact of_decide_eq_true rfl
theorem OpcodeFits.stSN64X2 (o : OpsG) : OpcodeFits.Statement (.stSN64X2 o) := fun g hg => by
  cases hg; exact of_decide_eq_true rfl
theorem OpcodeFits.ldRN64 (o : OpsG) : OpcodeFits.Statement (.ldRN64 o) := fun g hg => by
  cases hg; exact of_decide_eq_true rfl
theorem OpcodeFits.ldRN64X2 (o : OpsG) : OpcodeFits.Statement (.ldRN64X2 o) := fun g hg => by
  cases hg; exact of_decide_eq_true rfl
theorem OpcodeFits.stRN64 (o : OpsG) : OpcodeFits.Statement (.stRN64 o) := fun g hg => by
  cases hg; exact of_decide_eq_true rfl
theorem OpcodeFits.stRN64X2 (o : OpsG) : OpcodeFits.Statement (.stRN64X2 o) := fun g hg => by
  cases hg; exact of_decide_eq_true rfl
theorem OpcodeFits.atomAdd (t : AddTy) (o : OpsAT) : OpcodeFits.Statement (.atomAdd t o) := fun g hg => by
  cases hg; cases t <;> exact of_decide_eq_true rfl
theorem OpcodeFits.atomMin (t : Sgn) (o : OpsAT) : OpcodeFits.Statement (.atomMin t o) := fun g hg => by
  cases hg; cases t <;> exact of_decide_eq_true rfl
theorem OpcodeFits.atomMax (t : Sgn) (o : OpsAT) : OpcodeFits.Statement (.atomMax t o) := fun g hg => by
  cases hg; cases t <;> exact of_decide_eq_true rfl
theorem OpcodeFits.atomMaxix (o : OpsAT) : OpcodeFits.Statement (.atomMaxix o) := fun g hg => by
  cases hg; exact of_decide_eq_true rfl
theorem OpcodeFits.atomAnd (o : OpsAT) : OpcodeFits.Statement (.atomAnd o) := fun g hg => by
  cases hg; exact of_decide_eq_true rfl
theorem OpcodeFits.atomOr (o : OpsAT) : OpcodeFits.Statement (.atomOr o) := fun g hg => by
  cases hg; exact of_decide_eq_true rfl
theorem OpcodeFits.atomXor (o : OpsAT) : OpcodeFits.Statement (.atomXor o) := fun g hg => by
  cases hg; exact of_decide_eq_true rfl
theorem OpcodeFits.atomXchg (o : OpsAT) : OpcodeFits.Statement (.atomXchg o) := fun g hg => by
  cases hg; exact of_decide_eq_true rfl
theorem OpcodeFits.cas (t : NW) (o : OpsAT) : OpcodeFits.Statement (.cas t o) := fun g hg => by
  cases hg; cases t <;> exact of_decide_eq_true rfl
theorem OpcodeFits.redAddF32 (o : OpsAT) : OpcodeFits.Statement (.redAddF32 o) := fun g hg => by
  cases hg; exact of_decide_eq_true rfl
theorem OpcodeFits.redAddN64 (o : OpsAT) : OpcodeFits.Statement (.redAddN64 o) := fun g hg => by
  cases hg; exact of_decide_eq_true rfl
theorem OpcodeFits.redFlush (o : OpsG) : OpcodeFits.Statement (.redFlush o) := fun g hg => by
  cases hg; exact of_decide_eq_true rfl
theorem OpcodeFits.ringClaim (o : OpsG) : OpcodeFits.Statement (.ringClaim o) := fun g hg => by
  cases hg; exact of_decide_eq_true rfl
theorem OpcodeFits.ringPost (o : OpsG) : OpcodeFits.Statement (.ringPost o) := fun g hg => by
  cases hg; exact of_decide_eq_true rfl
theorem OpcodeFits.ringAwait (o : OpsG) : OpcodeFits.Statement (.ringAwait o) := fun g hg => by
  cases hg; exact of_decide_eq_true rfl
theorem OpcodeFits.ringRel (o : OpsG) : OpcodeFits.Statement (.ringRel o) := fun g hg => by
  cases hg; exact of_decide_eq_true rfl
theorem OpcodeFits.send (o : OpsG) : OpcodeFits.Statement (.send o) := fun g hg => by
  cases hg; exact of_decide_eq_true rfl
theorem OpcodeFits.recv (o : OpsG) : OpcodeFits.Statement (.recv o) := fun g hg => by
  cases hg; exact of_decide_eq_true rfl
theorem OpcodeFits.uld (o : OpsG) : OpcodeFits.Statement (.uld o) := fun g hg => by
  cases hg; exact of_decide_eq_true rfl
theorem OpcodeFits.ust (o : OpsG) : OpcodeFits.Statement (.ust o) := fun g hg => by
  cases hg; exact of_decide_eq_true rfl
theorem OpcodeFits.bra (o : OpsB) : OpcodeFits.Statement (.bra o) := fun g hg => by
  cases hg; exact of_decide_eq_true rfl
theorem OpcodeFits.braAny (o : OpsBP) : OpcodeFits.Statement (.braAny o) := fun g hg => by
  cases hg; exact of_decide_eq_true rfl
theorem OpcodeFits.braAll (o : OpsBP) : OpcodeFits.Statement (.braAll o) := fun g hg => by
  cases hg; exact of_decide_eq_true rfl
theorem OpcodeFits.braNz (o : OpsBS) : OpcodeFits.Statement (.braNz o) := fun g hg => by
  cases hg; exact of_decide_eq_true rfl
theorem OpcodeFits.braZ (o : OpsBS) : OpcodeFits.Statement (.braZ o) := fun g hg => by
  cases hg; exact of_decide_eq_true rfl
theorem OpcodeFits.brx (o : OpsG) : OpcodeFits.Statement (.brx o) := fun g hg => by
  cases hg; exact of_decide_eq_true rfl
theorem OpcodeFits.call (o : OpsB) : OpcodeFits.Statement (.call o) := fun g hg => by
  cases hg; exact of_decide_eq_true rfl
theorem OpcodeFits.callx (o : OpsG) : OpcodeFits.Statement (.callx o) := fun g hg => by
  cases hg; exact of_decide_eq_true rfl
theorem OpcodeFits.ret (o : OpsN) : OpcodeFits.Statement (.ret o) := fun g hg => by
  cases hg; exact of_decide_eq_true rfl
theorem OpcodeFits.fcall (o : OpsB) : OpcodeFits.Statement (.fcall o) := fun g hg => by
  cases hg; exact of_decide_eq_true rfl
theorem OpcodeFits.fcallP (o : OpsBS) : OpcodeFits.Statement (.fcallP o) := fun g hg => by
  cases hg; exact of_decide_eq_true rfl
theorem OpcodeFits.split (o : OpsBJ) : OpcodeFits.Statement (.split o) := fun g hg => by
  cases hg; exact of_decide_eq_true rfl
theorem OpcodeFits.join (o : OpsG) : OpcodeFits.Statement (.join o) := fun g hg => by
  cases hg; exact of_decide_eq_true rfl
theorem OpcodeFits.barSync (o : OpsN) : OpcodeFits.Statement (.barSync o) := fun g hg => by
  cases hg; exact of_decide_eq_true rfl
theorem OpcodeFits.yield (o : OpsN) : OpcodeFits.Statement (.yield o) := fun g hg => by
  cases hg; exact of_decide_eq_true rfl
theorem OpcodeFits.exit (o : OpsN) : OpcodeFits.Statement (.exit o) := fun g hg => by
  cases hg; exact of_decide_eq_true rfl
theorem OpcodeFits.meet (o : OpsG) : OpcodeFits.Statement (.meet o) := fun g hg => by
  cases hg; exact of_decide_eq_true rfl
theorem OpcodeFits.meetV (o : OpsG) : OpcodeFits.Statement (.meetV o) := fun g hg => by
  cases hg; exact of_decide_eq_true rfl
theorem OpcodeFits.barArrive (o : OpsG) : OpcodeFits.Statement (.barArrive o) := fun g hg => by
  cases hg; exact of_decide_eq_true rfl
theorem OpcodeFits.barWait (o : OpsG) : OpcodeFits.Statement (.barWait o) := fun g hg => by
  cases hg; exact of_decide_eq_true rfl
theorem OpcodeFits.barExpect (o : OpsG) : OpcodeFits.Statement (.barExpect o) := fun g hg => by
  cases hg; exact of_decide_eq_true rfl
theorem OpcodeFits.trap (o : OpsN) : OpcodeFits.Statement (.trap o) := fun g hg => by
  cases hg; exact of_decide_eq_true rfl
theorem OpcodeFits.brk (o : OpsN) : OpcodeFits.Statement (.brk o) := fun g hg => by
  cases hg; exact of_decide_eq_true rfl
theorem OpcodeFits.rng (o : OpsG) : OpcodeFits.Statement (.rng o) := fun g hg => by
  cases hg; exact of_decide_eq_true rfl
theorem OpcodeFits.icPf (o : OpsG) : OpcodeFits.Statement (.icPf o) := fun g hg => by
  cases hg; exact of_decide_eq_true rfl
theorem OpcodeFits.icPin (o : OpsG) : OpcodeFits.Statement (.icPin o) := fun g hg => by
  cases hg; exact of_decide_eq_true rfl
theorem OpcodeFits.icUnpin (o : OpsG) : OpcodeFits.Statement (.icUnpin o) := fun g hg => by
  cases hg; exact of_decide_eq_true rfl
theorem OpcodeFits.nop (o : OpsN) : OpcodeFits.Statement (.nop o) := fun g hg => by
  cases hg; exact of_decide_eq_true rfl
theorem OpcodeFits.forkStat (o : OpsG) : OpcodeFits.Statement (.forkStat o) := fun g hg => by
  cases hg; exact of_decide_eq_true rfl
theorem OpcodeFits.forkKill (o : OpsG) : OpcodeFits.Statement (.forkKill o) := fun g hg => by
  cases hg; exact of_decide_eq_true rfl
theorem OpcodeFits.forkClr (o : OpsG) : OpcodeFits.Statement (.forkClr o) := fun g hg => by
  cases hg; exact of_decide_eq_true rfl
theorem OpcodeFits.nlaunch (o : OpsG) : OpcodeFits.Statement (.nlaunch o) := fun g hg => by
  cases hg; exact of_decide_eq_true rfl
theorem OpcodeFits.nlaunchSeq (o : OpsG) : OpcodeFits.Statement (.nlaunchSeq o) := fun g hg => by
  cases hg; exact of_decide_eq_true rfl
theorem OpcodeFits.nlaunchDet (o : OpsG) : OpcodeFits.Statement (.nlaunchDet o) := fun g hg => by
  cases hg; exact of_decide_eq_true rfl
theorem OpcodeFits.ldf (o : OpsF) : OpcodeFits.Statement (.ldf o) := fun g hg => by
  cases hg; exact of_decide_eq_true rfl
theorem OpcodeFits.stf (o : OpsF) : OpcodeFits.Statement (.stf o) := fun g hg => by
  cases hg; exact of_decide_eq_true rfl
theorem OpcodeFits.atomf (o : OpsF) : OpcodeFits.Statement (.atomf o) := fun g hg => by
  cases hg; exact of_decide_eq_true rfl
theorem OpcodeFits.movd (o : OpsG) : OpcodeFits.Statement (.movd o) := fun g hg => by
  cases hg; exact of_decide_eq_true rfl
theorem OpcodeFits.futNew (o : OpsG) : OpcodeFits.Statement (.futNew o) := fun g hg => by
  cases hg; exact of_decide_eq_true rfl
theorem OpcodeFits.futResolve (o : OpsG) : OpcodeFits.Statement (.futResolve o) := fun g hg => by
  cases hg; exact of_decide_eq_true rfl
theorem OpcodeFits.futAwait (o : OpsG) : OpcodeFits.Statement (.futAwait o) := fun g hg => by
  cases hg; exact of_decide_eq_true rfl
theorem OpcodeFits.futPoll (o : OpsG) : OpcodeFits.Statement (.futPoll o) := fun g hg => by
  cases hg; exact of_decide_eq_true rfl
theorem OpcodeFits.futFail (o : OpsG) : OpcodeFits.Statement (.futFail o) := fun g hg => by
  cases hg; exact of_decide_eq_true rfl
theorem OpcodeFits.contSave (o : OpsG) : OpcodeFits.Statement (.contSave o) := fun g hg => by
  cases hg; exact of_decide_eq_true rfl
theorem OpcodeFits.contWake (o : OpsG) : OpcodeFits.Statement (.contWake o) := fun g hg => by
  cases hg; exact of_decide_eq_true rfl
theorem OpcodeFits.mxIssue (o : OpsG) : OpcodeFits.Statement (.mxIssue o) := fun g hg => by
  cases hg; exact of_decide_eq_true rfl
theorem OpcodeFits.mxPop (o : OpsG) : OpcodeFits.Statement (.mxPop o) := fun g hg => by
  cases hg; exact of_decide_eq_true rfl
theorem OpcodeFits.mxZero (o : OpsG) : OpcodeFits.Statement (.mxZero o) := fun g hg => by
  cases hg; exact of_decide_eq_true rfl
theorem OpcodeFits.mxLoadacc (o : OpsG) : OpcodeFits.Statement (.mxLoadacc o) := fun g hg => by
  cases hg; exact of_decide_eq_true rfl
theorem OpcodeFits.mxStacc (o : OpsG) : OpcodeFits.Statement (.mxStacc o) := fun g hg => by
  cases hg; exact of_decide_eq_true rfl
theorem OpcodeFits.mxFreeze (o : OpsG) : OpcodeFits.Statement (.mxFreeze o) := fun g hg => by
  cases hg; exact of_decide_eq_true rfl
theorem OpcodeFits.mxThaw (o : OpsG) : OpcodeFits.Statement (.mxThaw o) := fun g hg => by
  cases hg; exact of_decide_eq_true rfl
theorem OpcodeFits.mxDrain (o : OpsG) : OpcodeFits.Statement (.mxDrain o) := fun g hg => by
  cases hg; exact of_decide_eq_true rfl
theorem OpcodeFits.mxRestore (o : OpsG) : OpcodeFits.Statement (.mxRestore o) := fun g hg => by
  cases hg; exact of_decide_eq_true rfl
theorem OpcodeFits.mxFence (o : OpsG) : OpcodeFits.Statement (.mxFence o) := fun g hg => by
  cases hg; exact of_decide_eq_true rfl
theorem OpcodeFits.mxStat (o : OpsG) : OpcodeFits.Statement (.mxStat o) := fun g hg => by
  cases hg; exact of_decide_eq_true rfl
theorem OpcodeFits.mxWait (o : OpsG) : OpcodeFits.Statement (.mxWait o) := fun g hg => by
  cases hg; exact of_decide_eq_true rfl
theorem OpcodeFits.aAdd (o : OpsG) : OpcodeFits.Statement (.aAdd o) := fun g hg => by
  cases hg; exact of_decide_eq_true rfl
theorem OpcodeFits.aSub (o : OpsG) : OpcodeFits.Statement (.aSub o) := fun g hg => by
  cases hg; exact of_decide_eq_true rfl
theorem OpcodeFits.aMul (o : OpsG) : OpcodeFits.Statement (.aMul o) := fun g hg => by
  cases hg; exact of_decide_eq_true rfl
theorem OpcodeFits.aAnd (o : OpsG) : OpcodeFits.Statement (.aAnd o) := fun g hg => by
  cases hg; exact of_decide_eq_true rfl
theorem OpcodeFits.aOr (o : OpsG) : OpcodeFits.Statement (.aOr o) := fun g hg => by
  cases hg; exact of_decide_eq_true rfl
theorem OpcodeFits.aXor (o : OpsG) : OpcodeFits.Statement (.aXor o) := fun g hg => by
  cases hg; exact of_decide_eq_true rfl
theorem OpcodeFits.aShl (o : OpsG) : OpcodeFits.Statement (.aShl o) := fun g hg => by
  cases hg; exact of_decide_eq_true rfl
theorem OpcodeFits.aShr (o : OpsG) : OpcodeFits.Statement (.aShr o) := fun g hg => by
  cases hg; exact of_decide_eq_true rfl
theorem OpcodeFits.aSra (o : OpsG) : OpcodeFits.Statement (.aSra o) := fun g hg => by
  cases hg; exact of_decide_eq_true rfl
theorem OpcodeFits.aMin (o : OpsG) : OpcodeFits.Statement (.aMin o) := fun g hg => by
  cases hg; exact of_decide_eq_true rfl
theorem OpcodeFits.aMax (o : OpsG) : OpcodeFits.Statement (.aMax o) := fun g hg => by
  cases hg; exact of_decide_eq_true rfl
theorem OpcodeFits.aMov (o : OpsG) : OpcodeFits.Statement (.aMov o) := fun g hg => by
  cases hg; exact of_decide_eq_true rfl
theorem OpcodeFits.aMovImm (o : OpsG) : OpcodeFits.Statement (.aMovImm o) := fun g hg => by
  cases hg; exact of_decide_eq_true rfl
theorem OpcodeFits.aLdx (t : NW) (o : OpsG) : OpcodeFits.Statement (.aLdx t o) := fun g hg => by
  cases hg; cases t <;> exact of_decide_eq_true rfl
theorem OpcodeFits.aArg (o : OpsG) : OpcodeFits.Statement (.aArg o) := fun g hg => by
  cases hg; exact of_decide_eq_true rfl
theorem OpcodeFits.aNop (o : OpsG) : OpcodeFits.Statement (.aNop o) := fun g hg => by
  cases hg; exact of_decide_eq_true rfl
theorem OpcodeFits.aB (o : OpsB) : OpcodeFits.Statement (.aB o) := fun g hg => by
  cases hg; exact of_decide_eq_true rfl
theorem OpcodeFits.aBeq (o : OpsAB) : OpcodeFits.Statement (.aBeq o) := fun g hg => by
  cases hg; exact of_decide_eq_true rfl
theorem OpcodeFits.aBne (o : OpsAB) : OpcodeFits.Statement (.aBne o) := fun g hg => by
  cases hg; exact of_decide_eq_true rfl
theorem OpcodeFits.aBlt (o : OpsAB) : OpcodeFits.Statement (.aBlt o) := fun g hg => by
  cases hg; exact of_decide_eq_true rfl
theorem OpcodeFits.aBge (o : OpsAB) : OpcodeFits.Statement (.aBge o) := fun g hg => by
  cases hg; exact of_decide_eq_true rfl
theorem OpcodeFits.aLoop (o : OpsAB) : OpcodeFits.Statement (.aLoop o) := fun g hg => by
  cases hg; exact of_decide_eq_true rfl
theorem OpcodeFits.aWait (o : OpsN) : OpcodeFits.Statement (.aWait o) := fun g hg => by
  cases hg; exact of_decide_eq_true rfl
theorem OpcodeFits.aHalt (o : OpsN) : OpcodeFits.Statement (.aHalt o) := fun g hg => by
  cases hg; exact of_decide_eq_true rfl
theorem OpcodeFits.aTrap (o : OpsN) : OpcodeFits.Statement (.aTrap o) := fun g hg => by
  cases hg; exact of_decide_eq_true rfl
theorem OpcodeFits.tdSet (o : OpsG) : OpcodeFits.Statement (.tdSet o) := fun g hg => by
  cases hg; exact of_decide_eq_true rfl
theorem OpcodeFits.tdDim (o : OpsG) : OpcodeFits.Statement (.tdDim o) := fun g hg => by
  cases hg; exact of_decide_eq_true rfl
theorem OpcodeFits.tdCoord (o : OpsG) : OpcodeFits.Statement (.tdCoord o) := fun g hg => by
  cases hg; exact of_decide_eq_true rfl
theorem OpcodeFits.tdStep (o : OpsG) : OpcodeFits.Statement (.tdStep o) := fun g hg => by
  cases hg; exact of_decide_eq_true rfl
theorem OpcodeFits.tdClr (o : OpsG) : OpcodeFits.Statement (.tdClr o) := fun g hg => by
  cases hg; exact of_decide_eq_true rfl
theorem OpcodeFits.mvBytes (o : OpsG) : OpcodeFits.Statement (.mvBytes o) := fun g hg => by
  cases hg; exact of_decide_eq_true rfl
theorem OpcodeFits.mvTile (o : OpsG) : OpcodeFits.Statement (.mvTile o) := fun g hg => by
  cases hg; exact of_decide_eq_true rfl
theorem OpcodeFits.mvTilet (o : OpsG) : OpcodeFits.Statement (.mvTilet o) := fun g hg => by
  cases hg; exact of_decide_eq_true rfl
theorem OpcodeFits.mvReblk (o : OpsG) : OpcodeFits.Statement (.mvReblk o) := fun g hg => by
  cases hg; exact of_decide_eq_true rfl
theorem OpcodeFits.mvMc (o : OpsG) : OpcodeFits.Statement (.mvMc o) := fun g hg => by
  cases hg; exact of_decide_eq_true rfl
theorem OpcodeFits.aPost (o : OpsG) : OpcodeFits.Statement (.aPost o) := fun g hg => by
  cases hg; exact of_decide_eq_true rfl
theorem OpcodeFits.aExpect (o : OpsG) : OpcodeFits.Statement (.aExpect o) := fun g hg => by
  cases hg; exact of_decide_eq_true rfl
theorem OpcodeFits.aArrive (o : OpsG) : OpcodeFits.Statement (.aArrive o) := fun g hg => by
  cases hg; exact of_decide_eq_true rfl
theorem OpcodeFits.aResolve (o : OpsG) : OpcodeFits.Statement (.aResolve o) := fun g hg => by
  cases hg; exact of_decide_eq_true rfl
theorem OpcodeFits.awlGo (o : OpsG) : OpcodeFits.Statement (.awlGo o) := fun g hg => by
  cases hg; exact of_decide_eq_true rfl
theorem OpcodeFits.awlStat (o : OpsG) : OpcodeFits.Statement (.awlStat o) := fun g hg => by
  cases hg; exact of_decide_eq_true rfl
theorem OpcodeFits.awlStop (o : OpsG) : OpcodeFits.Statement (.awlStop o) := fun g hg => by
  cases hg; exact of_decide_eq_true rfl
theorem OpcodeFits.unassignedEntry (w : BitVec 32) : OpcodeFits.Statement (.unassignedEntry w) := fun _ hg => by cases hg
theorem OpcodeFits.coldReset : OpcodeFits.Statement .coldReset := fun _ hg => by cases hg
theorem OpcodeFits.warmReset : OpcodeFits.Statement .warmReset := fun _ hg => by cases hg
theorem OpcodeFits.registerWrite : OpcodeFits.Statement .registerWrite := fun _ hg => by cases hg
theorem OpcodeFits.doorbellWrite : OpcodeFits.Statement .doorbellWrite := fun _ hg => by cases hg
theorem OpcodeFits.queueEnable : OpcodeFits.Statement .queueEnable := fun _ hg => by cases hg
theorem OpcodeFits.queueDisable : OpcodeFits.Statement .queueDisable := fun _ hg => by cases hg
theorem OpcodeFits.queueReset : OpcodeFits.Statement .queueReset := fun _ hg => by cases hg
theorem OpcodeFits.verdictReplay : OpcodeFits.Statement .verdictReplay := fun _ hg => by cases hg
theorem OpcodeFits.verdictRefuse : OpcodeFits.Statement .verdictRefuse := fun _ hg => by cases hg
theorem OpcodeFits.softPreemption : OpcodeFits.Statement .softPreemption := fun _ hg => by cases hg
theorem OpcodeFits.softStopComplete : OpcodeFits.Statement .softStopComplete := fun _ hg => by cases hg
theorem OpcodeFits.hardPreemption : OpcodeFits.Statement .hardPreemption := fun _ hg => by cases hg
theorem OpcodeFits.resume : OpcodeFits.Statement .resume := fun _ hg => by cases hg
theorem OpcodeFits.saddlebagSave : OpcodeFits.Statement .saddlebagSave := fun _ hg => by cases hg
theorem OpcodeFits.quantumExpiry : OpcodeFits.Statement .quantumExpiry := fun _ hg => by cases hg
theorem OpcodeFits.partitionEnable : OpcodeFits.Statement .partitionEnable := fun _ hg => by cases hg
theorem OpcodeFits.partitionReset : OpcodeFits.Statement .partitionReset := fun _ hg => by cases hg
theorem OpcodeFits.partitionDisable : OpcodeFits.Statement .partitionDisable := fun _ hg => by cases hg
theorem OpcodeFits.vectorMaskClear : OpcodeFits.Statement .vectorMaskClear := fun _ hg => by cases hg
theorem OpcodeFits.powerCapWrite : OpcodeFits.Statement .powerCapWrite := fun _ hg => by cases hg
theorem OpcodeFits.powerCapStep : OpcodeFits.Statement .powerCapStep := fun _ hg => by cases hg
theorem OpcodeFits.thermalWarning : OpcodeFits.Statement .thermalWarning := fun _ hg => by cases hg
theorem OpcodeFits.voltageDroop : OpcodeFits.Statement .voltageDroop := fun _ hg => by cases hg
theorem OpcodeFits.droopEnd : OpcodeFits.Statement .droopEnd := fun _ hg => by cases hg
theorem OpcodeFits.criticalTrip : OpcodeFits.Statement .criticalTrip := fun _ hg => by cases hg
theorem OpcodeFits.ptpPortWrite : OpcodeFits.Statement .ptpPortWrite := fun _ hg => by cases hg
theorem OpcodeFits.ptpLock : OpcodeFits.Statement .ptpLock := fun _ hg => by cases hg
theorem OpcodeFits.ptpHoldover : OpcodeFits.Statement .ptpHoldover := fun _ hg => by cases hg
theorem OpcodeFits.flowEnable : OpcodeFits.Statement .flowEnable := fun _ hg => by cases hg
theorem OpcodeFits.flowDisable : OpcodeFits.Statement .flowDisable := fun _ hg => by cases hg
theorem OpcodeFits.frameArrival : OpcodeFits.Statement .frameArrival := fun _ hg => by cases hg
theorem OpcodeFits.hostWrite : OpcodeFits.Statement .hostWrite := fun _ hg => by cases hg
theorem OpcodeFits.hostRead : OpcodeFits.Statement .hostRead := fun _ hg => by cases hg
theorem OpcodeFits.cinchAccess : OpcodeFits.Statement .cinchAccess := fun _ hg => by cases hg
theorem OpcodeFits.cinchPortFail : OpcodeFits.Statement .cinchPortFail := fun _ hg => by cases hg
theorem OpcodeFits.launch : OpcodeFits.Statement .launch := fun _ hg => by cases hg
theorem OpcodeFits.gang : OpcodeFits.Statement .gang := fun _ hg => by cases hg
theorem OpcodeFits.gangReserve : OpcodeFits.Statement .gangReserve := fun _ hg => by cases hg
theorem OpcodeFits.seedPush : OpcodeFits.Statement .seedPush := fun _ hg => by cases hg
theorem OpcodeFits.seedPop : OpcodeFits.Statement .seedPop := fun _ hg => by cases hg
theorem OpcodeFits.seedFork : OpcodeFits.Statement .seedFork := fun _ hg => by cases hg
theorem OpcodeFits.tlbinv : OpcodeFits.Statement .tlbinv := fun _ hg => by cases hg
theorem OpcodeFits.nopPacket : OpcodeFits.Statement .nopPacket := fun _ hg => by cases hg
theorem OpcodeFits.completionRecordWrite : OpcodeFits.Statement .completionRecordWrite := fun _ hg => by cases hg
theorem OpcodeFits.gridCompletion : OpcodeFits.Statement .gridCompletion := fun _ hg => by cases hg
theorem OpcodeFits.blockDispatch : OpcodeFits.Statement .blockDispatch := fun _ hg => by cases hg
theorem OpcodeFits.stealRequest : OpcodeFits.Statement .stealRequest := fun _ hg => by cases hg
theorem OpcodeFits.watchdog : OpcodeFits.Statement .watchdog := fun _ hg => by cases hg
theorem OpcodeFits.drainWatchdog : OpcodeFits.Statement .drainWatchdog := fun _ hg => by cases hg
theorem OpcodeFits.faultRecord : OpcodeFits.Statement .faultRecord := fun _ hg => by cases hg
theorem OpcodeFits.blockRelaunch : OpcodeFits.Statement .blockRelaunch := fun _ hg => by cases hg
theorem OpcodeFits.clauseFetch : OpcodeFits.Statement .clauseFetch := fun _ hg => by cases hg
theorem OpcodeFits.l1LineExpiry : OpcodeFits.Statement .l1LineExpiry := fun _ hg => by cases hg
theorem OpcodeFits.loadComplete : OpcodeFits.Statement .loadComplete := fun _ hg => by cases hg
theorem OpcodeFits.variableLatencyCompletion : OpcodeFits.Statement .variableLatencyCompletion := fun _ hg => by cases hg
theorem OpcodeFits.storeQueueLeave : OpcodeFits.Statement .storeQueueLeave := fun _ hg => by cases hg
theorem OpcodeFits.homeSliceService : OpcodeFits.Statement .homeSliceService := fun _ hg => by cases hg
theorem OpcodeFits.waiterResend : OpcodeFits.Statement .waiterResend := fun _ hg => by cases hg
theorem OpcodeFits.meshRetry : OpcodeFits.Statement .meshRetry := fun _ hg => by cases hg
theorem OpcodeFits.injectionBar : OpcodeFits.Statement .injectionBar := fun _ hg => by cases hg
theorem OpcodeFits.windowApply : OpcodeFits.Statement .windowApply := fun _ hg => by cases hg
theorem OpcodeFits.forkResolution : OpcodeFits.Statement .forkResolution := fun _ hg => by cases hg
theorem OpcodeFits.programFetch : OpcodeFits.Statement .programFetch := fun _ hg => by cases hg
theorem OpcodeFits.recordStart : OpcodeFits.Statement .recordStart := fun _ hg => by cases hg
theorem OpcodeFits.lockEntry : OpcodeFits.Statement .lockEntry := fun _ hg => by cases hg
theorem OpcodeFits.recordComplete : OpcodeFits.Statement .recordComplete := fun _ hg => by cases hg
theorem OpcodeFits.channelHalt : OpcodeFits.Statement .channelHalt := fun _ hg => by cases hg
theorem OpcodeFits.mcReserve : OpcodeFits.Statement .mcReserve := fun _ hg => by cases hg
theorem OpcodeFits.matrixOperationStart : OpcodeFits.Statement .matrixOperationStart := fun _ hg => by cases hg
theorem OpcodeFits.gateObserve : OpcodeFits.Statement .gateObserve := fun _ hg => by cases hg
theorem OpcodeFits.matrixLockEntry : OpcodeFits.Statement .matrixLockEntry := fun _ hg => by cases hg
theorem OpcodeFits.kChunk : OpcodeFits.Statement .kChunk := fun _ hg => by cases hg
theorem OpcodeFits.matrixCompletion : OpcodeFits.Statement .matrixCompletion := fun _ hg => by cases hg
theorem OpcodeFits.matrixFreeze : OpcodeFits.Statement .matrixFreeze := fun _ hg => by cases hg
theorem OpcodeFits.listWalk : OpcodeFits.Statement .listWalk := fun _ hg => by cases hg
theorem OpcodeFits.resumption : OpcodeFits.Statement .resumption := fun _ hg => by cases hg
theorem OpcodeFits.debugRead : OpcodeFits.Statement .debugRead := fun _ hg => by cases hg
theorem OpcodeFits.partitionResetComplete : OpcodeFits.Statement .partitionResetComplete := fun _ hg => by cases hg
theorem OpcodeFits.writeDelivery : OpcodeFits.Statement .writeDelivery := fun _ hg => by cases hg
theorem OpcodeFits.thermalWarningEnd : OpcodeFits.Statement .thermalWarningEnd := fun _ hg => by cases hg

end Sys2Proof.Laws
end

