-- ==== Sys2Proof/Laws/Regs.lean ====
section
/-!
SUPPORT. Reading registers after writes, and the whole effect of a word that writes one vector, predicate or uniform
register.
-/
namespace Sys2Proof.Machine

/-! ### Lanes -/

theorem mem_laneList {m : Lanes} {l : Nat} : l ∈ laneList m ↔ inLanes m l = true := by
  unfold laneList inLanes
  simp only [List.mem_filter, List.mem_range, and_iff_right_iff_imp]
  intro h
  by_contra hl
  rw [BitVec.getLsbD_of_ge _ _ (by omega)] at h
  exact absurd h (by decide)

theorem laneList_nodup (m : Lanes) : (laneList m).Nodup := List.Nodup.filter _ List.nodup_range

theorem inLanes_lt {m : Lanes} {l : Nat} (h : inLanes m l = true) : l < 64 := by
  rw [← mem_laneList] at h
  exact List.mem_range.1 (List.mem_filter.1 h).1

theorem inLanes_and_not (a b : Lanes) (l : Nat) (h : inLanes (a &&& ~~~b) l = true) : inLanes b l = false := by
  have := inLanes_lt h
  unfold inLanes at h ⊢
  simp only [BitVec.getLsbD_and, BitVec.getLsbD_not, Bool.and_eq_true, Bool.not_eq_true', decide_eq_true_eq] at h
  exact h.2.2

theorem getLsbD_laneBit (l k : Nat) (h : l < 64) : (laneBit l).getLsbD k = decide (k = l) := by
  unfold laneBit
  rw [BitVec.getLsbD_ofNat, Nat.testBit_two_pow]
  by_cases hk : k = l
  · subst hk; simp [h]
  · simp [hk, Ne.symm hk]

/-! ### One register write -/

theorem Wave.reg_setReg_v (w : Wave) (n l : Nat) (x : Word) : (w.setReg (.v n) l x).reg (.v n) l = x := by
  simp [Wave.setReg, Wave.reg]

theorem Wave.reg_setReg_s (w : Wave) (n l l' : Nat) (x : Word) : (w.setReg (.s n) l x).reg (.s n) l' = x := by
  simp [Wave.setReg, Wave.reg]

theorem Wave.reg_p0 (w : Wave) (l : Nat) : w.reg (.p 0) l = 1 := rfl

theorem Wave.reg_setReg_p (w : Wave) (n l : Nat) (x : Word) (hn : n ≠ 0) (hl : l < 64) :
    (w.setReg (.p n) l x).reg (.p n) l = boolW (decide (x ≠ 0)) := by
  simp only [Wave.setReg, hn, if_false, Wave.reg, sget_sset_self, inLanes]
  congr 1
  split_ifs with h
  · simp [getLsbD_laneBit _ _ hl, h, hl]
  · rw [BitVec.getLsbD_or, getLsbD_laneBit _ _ hl]; simp only [decide_true, Bool.or_true]; exact (decide_eq_true h).symm

/-- A write of one register in one lane changes no other register, nor that one in other lanes. -/
theorem Wave.reg_setReg_other (w : Wave) (r r' : RegName) (l l' : Nat) (x : Word) (hr : r.exists_ = true)
    (hr' : r'.exists_ = true) (hl : l < 64) (h : r' ≠ r ∨ (r.uniform = false ∧ l' ≠ l)) :
    (w.setReg r l x).reg r' l' = w.reg r' l' := by
  cases r <;> cases r' <;> simp only [Wave.setReg, Wave.reg, RegName.exists_, decide_eq_true_eq, RegName.uniform, ne_eq,
    RegName.v.injEq, RegName.s.injEq, RegName.p.injEq, RegName.j.injEq, reduceCtorEq, not_true_eq_false, not_false_eq_true,
    true_and, false_and, or_false, true_or, false_or, Bool.true_eq_false] at *
  case v.v n m => rw [sget_sset, if_neg (by omega)]
  case s.s n m => rw [sget_sset, if_neg (by omega)]
  case j.j n m => rw [sget_sset, if_neg (by omega)]
  case fctl.fctl => rw [sget_sset, if_neg (by omega)]
  case mtg.mtg => rw [sget_sset, if_neg (by omega)]
  case p.p n m =>
    by_cases hn : n = 0
    · simp [hn]
    · simp only [hn, if_false]
      by_cases hm : m = 0
      · simp [hm]
      · simp only [hm, if_false]
        by_cases hmn : m = n
        · subst hmn
          have hll : l' ≠ l := by rcases h with h | h; exacts [absurd rfl h, h]
          rw [sget_sset_self]
          congr 1
          unfold inLanes
          split_ifs
          · simp only [BitVec.getLsbD_and, BitVec.getLsbD_not, getLsbD_laneBit _ _ hl]
            by_cases h64 : l' < 64
            · simp [hll, h64]
            · simp [BitVec.getLsbD_of_ge _ _ (Nat.not_lt.1 h64)]
          · simp [getLsbD_laneBit _ _ hl, hll]
        · rw [sget_sset, if_neg hmn]
  all_goals (try split_ifs) <;> rfl

/-- Registers after the writes of a list: those it does not name are unchanged. -/
theorem Wave.reg_setRegs_other (w : Wave) (r r' : RegName) (l' : Nat) (vals : List (Nat × Word)) (hr : r.exists_ = true)
    (hr' : r'.exists_ = true) (hv : ∀ e ∈ vals, e.1 < 64) (h : r' ≠ r ∨ (r.uniform = false ∧ ∀ e ∈ vals, l' ≠ e.1)) :
    (w.setRegs r vals).reg r' l' = w.reg r' l' := by
  induction vals generalizing w with
  | nil => rfl
  | cons e vals ih =>
    rw [Wave.setRegs, ih _ (fun a ha => hv a (List.mem_cons_of_mem _ ha))]
    · exact Wave.reg_setReg_other _ _ _ _ _ _ hr hr' (hv e List.mem_cons_self)
        (h.imp_right fun h => ⟨h.1, h.2 e List.mem_cons_self⟩)
    · exact h.imp_right fun h => ⟨h.1, fun a ha => h.2 a (List.mem_cons_of_mem _ ha)⟩

/-- A vector register after the writes of a list with distinct lanes holds the lane's value. -/
theorem Wave.reg_setRegs_v (w : Wave) (n : Nat) (hn : n < 128) (vals : List (Nat × Word)) (hv : ∀ e ∈ vals, e.1 < 64)
    (hd : (vals.map Prod.fst).Nodup) (l : Nat) (x : Word) (h : (l, x) ∈ vals) : (w.setRegs (.v n) vals).reg (.v n) l = x := by
  induction vals generalizing w with
  | nil => exact absurd h (List.not_mem_nil)
  | cons e vals ih =>
    simp only [List.map_cons, List.nodup_cons] at hd
    rw [Wave.setRegs]
    rcases List.mem_cons.1 h with rfl | h
    · rw [Wave.reg_setRegs_other _ (.v n) (.v n) _ _ (decide_eq_true hn) (decide_eq_true hn)
        (fun a ha => hv a (List.mem_cons_of_mem _ ha)) (.inr ⟨rfl, fun a ha hne => hd.1 (List.mem_map.2 ⟨a, ha, hne.symm⟩)⟩)]
      exact Wave.reg_setReg_v ..
    · exact ih _ (fun a ha => hv a (List.mem_cons_of_mem _ ha)) hd.2 h

/-- A predicate register after the writes of a list with distinct lanes. -/
theorem Wave.reg_setRegs_p (w : Wave) (n : Nat) (hn : n ≠ 0) (vals : List (Nat × Word)) (hv : ∀ e ∈ vals, e.1 < 64)
    (hd : (vals.map Prod.fst).Nodup) (l : Nat) (x : Word) (h : (l, x) ∈ vals) :
    (w.setRegs (.p n) vals).reg (.p n) l = boolW (decide (x ≠ 0)) := by
  induction vals generalizing w with
  | nil => exact absurd h (List.not_mem_nil)
  | cons e vals ih =>
    simp only [List.map_cons, List.nodup_cons] at hd
    rw [Wave.setRegs]
    rcases List.mem_cons.1 h with rfl | h
    · rw [Wave.reg_setRegs_other _ (.p n) (.p n) _ _ rfl rfl
        (fun a ha => hv a (List.mem_cons_of_mem _ ha)) (.inr ⟨rfl, fun a ha hne => hd.1 (List.mem_map.2 ⟨a, ha, hne.symm⟩)⟩)]
      exact Wave.reg_setReg_p _ _ _ _ hn (hv _ List.mem_cons_self)
    · exact ih _ (fun a ha => hv a (List.mem_cons_of_mem _ ha)) hd.2 h

/-! ### What a write leaves of the wave -/

theorem Wave.setReg_keeps (w : Wave) (r : RegName) (l : Nat) (x : Word) :
    (w.setReg r l x).special = w.special ∧ (w.setReg r l x).ops = w.ops ∧ (w.setReg r l x).paths = w.paths := by
  cases r
  case p n => unfold Wave.setReg; simp only []; split_ifs <;> refine ⟨?_, ?_, ?_⟩ <;> rfl
  all_goals exact ⟨rfl, rfl, rfl⟩

theorem Wave.setRegs_keeps (w : Wave) (r : RegName) (vals : List (Nat × Word)) :
    (w.setRegs r vals).special = w.special ∧ (w.setRegs r vals).ops = w.ops ∧ (w.setRegs r vals).paths = w.paths := by
  induction vals generalizing w with
  | nil => exact ⟨rfl, rfl, rfl⟩
  | cons e vals ih =>
    obtain ⟨a, b, c⟩ := ih (w.setReg r e.1 e.2)
    obtain ⟨a', b', c'⟩ := w.setReg_keeps r e.1 e.2
    exact ⟨a.trans a', b.trans b', c.trans c'⟩

/-- What a fixed-latency write does: the registers take the values; nothing else but early results and races changes. -/
theorem Wave.write_keeps (w : Wave) (t lat : Nat) (r : RegName) (vals : List (Nat × Word)) :
    (∀ r' l, (w.write t lat r vals).reg r' l = (w.setRegs r vals).reg r' l) ∧
    (w.write t lat r vals).special = w.special ∧
    (w.write t lat r vals).ops.map PendOp.butRaced = w.ops.map PendOp.butRaced ∧
    (w.write t lat r vals).paths = w.paths := by
  obtain ⟨h1, h2, h3⟩ := w.setRegs_keeps r vals
  have hm : ∀ (m : Lanes) (l : List PendOp), (l.map fun o => o.race r m).map PendOp.butRaced = l.map PendOp.butRaced := fun m l => by
    rw [List.map_map]; apply List.map_congr_left; intro o _; simp only [Function.comp, PendOp.race]; split <;> rfl
  unfold Wave.write
  simp only []
  generalize (vals.foldl _ _ : Lanes) = m
  split_ifs <;> refine ⟨fun r' l => by cases r' <;> rfl, h1, ?_, h3⟩ <;> first | exact congrArg _ h2 | exact (hm _ _).trans (congrArg _ h2)

/-! ### The whole effect of a word that writes one register -/

theorem Wave.path_id {w : Wave} {k : Nat} {p : Path} (h : w.path k = some p) : p.id = k := by
  have := List.find?_some h
  simpa using this

theorem WCtx.advanced_id (c : WCtx) : c.advanced.id = c.p.id := by
  unfold WCtx.advanced
  split <;> rfl

/-- Two waves with the same registers. -/
structure Wave.SameRegs (a b : Wave) : Prop where
  v    : a.v = b.v
  s    : a.s = b.s
  p    : a.p = b.p
  j    : a.j = b.j
  mtg  : a.mtg = b.mtg
  fctl : a.fctl = b.fctl
  lr   : a.launch = b.launch

theorem Wave.SameRegs.reg {a b : Wave} (h : a.SameRegs b) (r : RegName) (l : Nat) : a.reg r l = b.reg r l := by
  cases r <;> simp only [Wave.reg, h.v, h.s, h.p, h.j, h.mtg, h.fctl]

theorem Wave.SameRegs.setReg {a b : Wave} (h : a.SameRegs b) (r : RegName) (l : Nat) (x : Word) :
    (a.setReg r l x).SameRegs (b.setReg r l x) := by
  obtain ⟨h1, h2, h3, h4, h5, h6, h7⟩ := h
  cases r <;> simp only [Wave.setReg, h1, h2, h3, h4, h5, h6, Wave.width, Wave.lreg, h7]
  case p n => split_ifs <;> constructor <;> first | rfl | assumption
  all_goals constructor <;> rfl

theorem Wave.SameRegs.setRegs {a b : Wave} (h : a.SameRegs b) (r : RegName) (vals : List (Nat × Word)) :
    (a.setRegs r vals).SameRegs (b.setRegs r vals) := by
  induction vals generalizing a b with
  | nil => exact h
  | cons e vals ih => exact ih (h.setReg r e.1 e.2)

/-- The wave whose path has moved past the word. -/
def WCtx.moved (c : WCtx) : Wave := { c.w.setPath c.advanced with pinned := false }

theorem WCtx.moved_regs (c : WCtx) : c.moved.SameRegs c.w := ⟨rfl, rfl, rfl, rfl, rfl, rfl, rfl⟩

theorem WCtx.moved_path {i : Instr} {g : Sig} {s : State} {c : WCtx} (ha : AtWord i g s c) :
    c.moved.path c.p.id = some c.advanced ∧ ∀ k, k ≠ c.p.id → c.moved.path k = c.w.path k := by
  have e : ∀ k, c.moved.path k = (c.w.setPath c.advanced).path k := fun _ => rfl
  refine ⟨?_, fun k hk => ?_⟩
  · rw [e, Wave.path_setPath, if_pos c.advanced_id.symm, ha.path]; rfl
  · rw [e, Wave.path_setPath, if_neg (by rw [c.advanced_id]; exact hk)]

theorem WCtx.aget_advance {i : Instr} {g : Sig} {s : State} {c : WCtx} (ha : AtWord i g s c) :
    aget (c.advance s).waves c.w.id = some c.moved ∧ ∀ k, k ≠ c.w.id → aget (c.advance s).waves k = aget s.waves k := by
  unfold WCtx.advance
  refine ⟨?_, fun k hk => ?_⟩
  · rw [State.aget_modWave, if_pos rfl, ha.wave]; rfl
  · rw [State.aget_modWave, if_neg hk]

/-- What retiring leaves of a state that differs from the one before the word in its own wave alone, when that wave's
data outside the registers are kept. -/
theorem retire_done {i : Instr} {g : Sig} {s : State} {c : WCtx} (ha : AtWord i g s c) (s1 : State) (w1 : Wave)
    (changed : RegName → Nat → Prop) (hs : WavesOnly s s1) (hw : aget s1.waves c.w.id = some w1)
    (ho : ∀ k, k ≠ c.w.id → aget s1.waves k = aget s.waves k)
    (hsp : w1.special = c.w.special) (hops : w1.ops.map PendOp.butRaced = c.w.ops.map PendOp.butRaced)
    (hp : w1.paths = c.moved.paths)
    (hr : ∀ r l, r.exists_ = true → ¬ changed r l → w1.reg r l = c.w.reg r l) :
    OnlyRegs changed s (retire i g c s1) c ∧ ∀ r l, (retire i g c s1).regIn c.w.id r l = w1.reg r l := by
  obtain ⟨h1, h2, h3⟩ := retire_keeps i g c s1
  have hreg : ∀ r l, (retire i g c s1).regIn c.w.id r l = w1.reg r l := fun r l => by
    rw [retire_reg]; unfold State.regIn; rw [hw]
  refine ⟨⟨(hs.trans h1).sameElse, fun r l he hn => ?_, ?_, fun k hk => ?_⟩, hreg⟩
  · rw [hreg, hr r l he hn]; unfold State.regIn; rw [ha.wave]
  · have hd := h2 c.w.id
    rw [hw] at hd
    cases hu : aget (retire i g c s1).waves c.w.id with
    | none => rw [hu] at hd; exact absurd hd (by simp)
    | some u =>
      rw [hu] at hd
      simp only [Option.map_some, Option.some.injEq] at hd
      have e1 : u.special = u.data.special := rfl
      have e2 : u.ops = u.data.ops := rfl
      have e3 : ∀ k, u.path k = u.data.path k := fun _ => rfl
      have e4 : ∀ k, w1.data.path k = c.moved.path k := fun k => by unfold Wave.path Wave.data; rw [← hp]
      refine ⟨u, rfl, ?_, ?_, ?_, fun k hk => ?_⟩
      · rw [e1, hd]; exact hsp
      · rw [e2, hd]; exact hops
      · rw [e3, hd, e4]; exact (WCtx.moved_path ha).1
      · rw [e3, hd, e4]; exact (WCtx.moved_path ha).2 k hk
  · rw [h3 k hk, ho k hk]

/-- What the move past a word and one register write leave. -/
theorem advance_write {i : Instr} {g : Sig} {s : State} {c : WCtx} (ha : AtWord i g s c) (t lat : Nat) (r : RegName)
    (vals : List (Nat × Word)) (hr : r.exists_ = true) (hv : ∀ e ∈ vals, e.1 < 64) :
    OnlyRegs (fun r' l => r' = r ∧ (r.uniform = true ∨ ∃ e ∈ vals, e.1 = l)) s
      (retire i g c ((c.advance s).modWave c.w.id fun w => w.write t lat r vals)) c ∧
    ∀ r' l, (retire i g c ((c.advance s).modWave c.w.id fun w => w.write t lat r vals)).regIn c.w.id r' l =
      (c.w.setRegs r vals).reg r' l := by
  obtain ⟨k1, k2, k3, k4⟩ := c.moved.write_keeps t lat r vals
  obtain ⟨a1, a2⟩ := WCtx.aget_advance ha
  have hreg : ∀ r' l, (c.moved.write t lat r vals).reg r' l = (c.w.setRegs r vals).reg r' l := fun r' l => by
    rw [k1]; exact ((c.moved_regs.setRegs r vals).reg r' l)
  obtain ⟨h1, h2⟩ := retire_done ha ((c.advance s).modWave c.w.id fun w => w.write t lat r vals)
    (c.moved.write t lat r vals) (fun r' l => r' = r ∧ (r.uniform = true ∨ ∃ e ∈ vals, e.1 = l))
    ((WavesOnly.modWave ..).trans (WavesOnly.modWave ..))
    (by rw [State.aget_modWave, if_pos rfl, a1]; rfl) (fun k hk => by rw [State.aget_modWave, if_neg hk, a2 k hk])
    k2 k3 k4 (fun r' l he hn => by
      rw [hreg]
      refine Wave.reg_setRegs_other _ _ _ _ _ hr he hv ?_
      by_cases hrr : r' = r
      · right
        have : ¬ (r.uniform = true ∨ ∃ e ∈ vals, e.1 = l) := fun h => hn ⟨hrr, h⟩
        push Not at this
        exact ⟨by simpa using this.1, fun e he hl => this.2 e he hl.symm⟩
      · exact .inl hrr)
  exact ⟨h1, fun r' l => by rw [h2, hreg]⟩

/-- Lanes that a `zero` prefix names are not active. -/
theorem WCtx.zeroed_not_act (c : WCtx) (l : Nat) (h : inLanes c.zeroed l = true) : inLanes c.act l = false := by
  unfold WCtx.zeroed at h
  cases hp : c.pfx with
  | none => rw [hp] at h; simp [inLanes] at h
  | some p =>
    rw [hp] at h
    simp only [] at h
    split_ifs at h
    · exact inLanes_and_not _ _ _ h
    · simp [inLanes] at h

/-- The lanes a word writes, with its values: distinct, and below 64. -/
theorem WCtx.vals_ok (c : WCtx) (f : Nat → Word) :
    (∀ e ∈ (c.lanes.map fun l => (l, f l)) ++ (laneList c.zeroed).map fun l => (l, (0 : Word)), e.1 < 64) ∧
    (((c.lanes.map fun l => (l, f l)) ++ (laneList c.zeroed).map fun l => (l, (0 : Word))).map Prod.fst).Nodup ∧
    ∀ l, (∃ e ∈ (c.lanes.map fun l => (l, f l)) ++ (laneList c.zeroed).map fun l => (l, (0 : Word)), e.1 = l) ↔
      (inLanes c.act l || inLanes c.zeroed l) = true := by
  refine ⟨fun e he => ?_, ?_, fun l => ?_⟩
  · simp only [List.mem_append, List.mem_map] at he
    rcases he with ⟨l, hl, rfl⟩ | ⟨l, hl, rfl⟩ <;> exact inLanes_lt (mem_laneList.1 hl)
  · simp only [List.map_append, List.map_map, Function.comp_def, List.map_id']
    refine List.Nodup.append (laneList_nodup _) (laneList_nodup _) fun l h1 h2 => ?_
    have := c.zeroed_not_act l (mem_laneList.1 h2)
    rw [mem_laneList.1 h1] at this
    exact absurd this (by decide)
  · simp only [List.mem_append, List.mem_map, Bool.or_eq_true]
    constructor
    · rintro ⟨e, ⟨k, hk, rfl⟩ | ⟨k, hk, rfl⟩, rfl⟩
      exacts [.inl (mem_laneList.1 hk), .inr (mem_laneList.1 hk)]
    · rintro (h | h)
      exacts [⟨_, .inl ⟨l, mem_laneList.2 h, rfl⟩, rfl⟩, ⟨_, .inr ⟨l, mem_laneList.2 h, rfl⟩, rfl⟩]

/-- A word that writes vector register `d` of its active lanes has done so. -/
theorem vecWrite_done {i : Instr} {g : Sig} {s : State} {c : WCtx} (d : Nat) (hd : d < 128) (f : Nat → Word)
    (ha : AtWord i g s c) : VecDone d (fun l x => x = f l) s (retire i g c (vecWrite c d f (c.advance s))) c := by
  obtain ⟨v1, v2, v3⟩ := c.vals_ok f
  obtain ⟨h1, h2⟩ := advance_write ha c.t c.lat (.v d) _ (decide_eq_true hd) v1
  refine ⟨fun l hl => (h2 _ _).trans ?_, fun l hl => (h2 _ _).trans ?_,
    ⟨h1.rest, fun r l he hn => h1.regs r l he fun h => hn ⟨h.1, ?_⟩, h1.own, h1.waves⟩⟩
  · exact Wave.reg_setRegs_v _ _ hd _ v1 v2 _ _ (List.mem_append_left _ (List.mem_map.2 ⟨l, mem_laneList.2 hl, rfl⟩))
  · exact Wave.reg_setRegs_v _ _ hd _ v1 v2 _ _ (List.mem_append_right _ (List.mem_map.2 ⟨l, mem_laneList.2 hl, rfl⟩))
  · exact (v3 l).1 (h.2.resolve_left (by simp [RegName.uniform]))

/-- A word that writes predicate `d` of its active lanes has done so. -/
theorem predWrite_done {i : Instr} {g : Sig} {s : State} {c : WCtx} (d : Nat) (f : Nat → Bool)
    (ha : AtWord i g s c) : PredDone d f s (retire i g c (predWrite c d f (c.advance s))) c := by
  obtain ⟨v1, v2, v3⟩ := c.vals_ok fun l => boolW (f l)
  obtain ⟨h1, h2⟩ := advance_write ha c.t c.lat (.p d) _ rfl v1
  have hb : ∀ b : Bool, boolW (decide (boolW b ≠ 0)) = boolW b := by decide
  refine ⟨fun h0 l hl => (h2 _ _).trans ?_, fun h0 l hl => (h2 _ _).trans ?_, fun l => (h2 _ _).trans (Wave.reg_p0 _ _),
    ⟨h1.rest, fun r l he hn => ?_, h1.own, h1.waves⟩⟩
  · exact (Wave.reg_setRegs_p _ _ h0 _ v1 v2 _ _
      (List.mem_append_left _ (List.mem_map.2 ⟨l, mem_laneList.2 hl, rfl⟩))).trans (hb _)
  · exact Wave.reg_setRegs_p _ _ h0 _ v1 v2 _ _ (List.mem_append_right _ (List.mem_map.2 ⟨l, mem_laneList.2 hl, rfl⟩))
  · by_cases h0 : r = .p 0
    · subst h0
      refine (h2 _ _).trans ?_
      unfold State.regIn; rw [ha.wave]; rfl
    · refine h1.regs r l he fun h => hn ⟨h.1, fun hd => h0 (hd ▸ h.1), ?_⟩
      exact (v3 l).1 (h.2.resolve_left (by simp [RegName.uniform]))

/-- A word that writes uniform register `d` has done so. -/
theorem uniWrite_done {i : Instr} {g : Sig} {s : State} {c : WCtx} (d : Nat) (x : Word) (ha : AtWord i g s c) :
    UniDone d (fun y => y = x) s (retire i g c (uniWrite c d x (c.advance s))) c := by
  obtain ⟨h1, h2⟩ := advance_write ha c.t c.lat (.s d) [(0, x)] rfl (by simp)
  refine ⟨(h2 (.s d) 0).trans (Wave.reg_setReg_s c.w d 0 0 x), h1.rest, fun r l he hn => h1.regs r l he fun h => hn h.1, h1.own, h1.waves⟩

/-- THE EFFECT OF A WORD THAT WRITES A VECTOR REGISTER. -/
theorem vecOp_done {i : Instr} {g : Sig} {s : State} {c : WCtx} (o : OpsV) (f : WCtx → Nat → Word)
    (ha : AtWord i g s c) (hc : Clear i g c) :
    ∃ t, vecOp i o f s = .next t ∧ VecDone o.d.toNat (fun l x => x = f c l) s t c :=
  ⟨_, guarded_ok _ _ ha hc rfl, vecWrite_done _ o.d.isLt _ ha⟩

/-- THE EFFECT OF A WORD THAT WRITES A PREDICATE. -/
theorem predOp_done {i : Instr} {g : Sig} {s : State} {c : WCtx} (o : OpsV) (f : WCtx → Nat → Bool)
    (ha : AtWord i g s c) (hc : Clear i g c) :
    ∃ t, predOp i o f s = .next t ∧ PredDone o.d.toNat (f c) s t c :=
  ⟨_, guarded_ok _ _ ha hc rfl, predWrite_done _ _ ha⟩

/-- THE EFFECT OF A UNIFORM WORD. -/
theorem uniOp_done {i : Instr} {g : Sig} {s : State} {c : WCtx} (o : OpsG) (f : WCtx → State → Word)
    (ha : AtWord i g s c) (hc : Clear i g c) :
    ∃ t, uniOp i o f s = .next t ∧ UniDone o.d.toNat (fun x => x = f c (c.advance s)) s t c :=
  ⟨_, guarded_ok _ _ ha hc rfl, uniWrite_done _ _ ha⟩

end Sys2Proof.Machine
end

