-- ==== Sys2Proof/Tests/Slice0.lean ====
section
/-!
SUPPORT. Tests: words that the spec writes out and their decoding; terms that the form checks refuse; one step of a
few instructions, with results worked out from the spec; and for the statements, states and operands that meet their
hypotheses.
-/
set_option Elab.async false
namespace Sys2Proof.Tests
open Sys2Proof.Machine Sys2Proof.Claims

/-! ### Small states -/

/-- The loaded state with an instruction before its wave, the wave changed by `f` and the rest by `h`. -/
def standing (i : Instr) (f : Wave → Wave) (h : State → State) : State :=
  let x := (encode i).getD ⟨none, 0, none⟩
  let words := x.pfx.toList ++ x.word :: x.lit.toList
  let lits : BitVec 32 := if x.lit.isSome then (if x.pfx.isSome then 0x40 else 0x20) else 0
  let cl : Clause := ⟨BitVec.ofNat 32 words.length <<< 28 ||| BitVec.ofNat 32 (loadClass x.word * 2 ^ 25) ||| lits, words⟩
  let s := loadWord State.reset x.word
  h { s with
    cur := .wave 0 0 loadAt cl.hdr 1 (words.length + 1)
    waves := [(0, f { loadWave x.word with paths := [⟨0, widthMask 32, loadAt, 1, some cl, .run, false, true, 0⟩] })] }

/-- The plain one. -/
def before (i : Instr) : State := standing i id id

/-- What the word at the cursor knows, where nothing stands before its effect and `P` holds. -/
def readyFor (i : Instr) (s : State) (P : WCtx → Bool) : Bool := match i.sig, s.cur with
  | some g, .wave wid pid hdr hword idx next => match aget s.waves wid with
    | some w => match w.path pid with
      | some p => decide (w.id = wid) && decide (p.id = pid) && (match readyCheck i g (s.wctx w p g hdr hword idx next) with
        | .go => true
        | _ => false) && P (s.wctx w p g hdr hword idx next)
      | none => false
    | none => false
  | _, _ => false

/-- The words of the Awl and matrix classes that a vector-role wave may run (R39). -/
def isGo : Instr → Bool
  | .awlGo _ => true
  | _ => false
def isPop : Instr → Bool
  | .mxPop _ => true
  | _ => false

/-- The conditions of a statement about a word, from the checks it passes. -/
theorem clear_of_go {i : Instr} {g : Sig} {c : WCtx} (h : readyCheck i g c = .go) : Clear i g c := by
  unfold readyCheck at h
  split_ifs at h with h4 h5 h1 h2 h3 h6
  refine ⟨?_, ?_, ?_, ?_, ?_, ?_⟩
  · simpa using h1
  · have ha : roleRuns i g c.w.role = (match g.cls with
        | .awl => decide (c.w.role ≠ 0) || isGo i
        | .mtx => decide (c.w.role ≠ 3) || isPop i
        | _ => true) := by unfold roleRuns; cases i <;> rfl
    have hb : ¬ (decide (g.cls = .awl) && decide (c.w.role = 0) && !isGo i ||
        decide (g.cls = .mtx) && decide (c.w.role = 3) && !isPop i) = true := by
      intro hh; apply h2; refine Eq.trans ?_ hh; cases i <;> rfl
    rw [ha]
    cases hc : g.cls <;> simp [hc] at hb ⊢
    all_goals exact (Classical.em _).elim (fun h => .inr (hb h)) .inl
  · intro hs
    simp only [hs, Bool.true_and, Bool.or_eq_true, not_or, Bool.not_eq_true, List.any_eq_false] at h3
    exact ⟨fun r hr => by simpa using h3.1 r hr, fun r hr o ho => by simpa using h3.2 r hr o ho⟩
  · intro ht
    simpa [ht] using h4
  · intro k hk
    simpa [Wave.atCeiling, hk] using h5
  · intro hx
    simpa [hx] using h6

/-- Where a word is ready, its statement's conditions are met. -/
theorem ready_met {i : Instr} {s : State} {P : WCtx → Bool} (h : readyFor i s P = true) :
    ∃ g c, AtWord i g s c ∧ Clear i g c ∧ P c = true := by
  unfold readyFor at h
  split at h
  · rename_i g wid pid hdr hword idx next hg hc
    split at h
    · rename_i w hw
      split at h
      · rename_i p hp
        simp only [Bool.and_eq_true, decide_eq_true_eq] at h
        obtain ⟨⟨⟨h1, h2⟩, h3⟩, h4⟩ := h
        subst h1; subst h2
        refine ⟨g, s.wctx w p g hdr hword idx next, ⟨hg, hc, hw, hp, rfl⟩, clear_of_go ?_, h4⟩
        split at h3
        · assumption
        · cases h3
      · cases h
    · cases h
  · cases h

/-- Operands with small register numbers. -/
def oV : OpsV := ⟨0, 4, 5, 6, none, none⟩
def oVl : OpsV := ⟨0, 4, 5, 0, some 3, none⟩
def oV0 : OpsV := ⟨0, 4, 5, 0, none, none⟩
def oG : OpsG := ⟨0, 4, 5, 6, none⟩

/-- An instruction before its wave, with nothing in its way. -/
theorem word_met (i : Instr) (h : readyFor i (before i) (fun _ => true) = true) : ∃ g s c, AtWord i g s c ∧ Clear i g c :=
  have ⟨g, c, h1, h2, _⟩ := ready_met h
  ⟨g, _, c, h1, h2⟩

theorem word_metP (i : Instr) (s : State) (P : WCtx → Bool) (h : readyFor i s P = true) :
    ∃ g s c, AtWord i g s c ∧ Clear i g c ∧ P c = true :=
  have ⟨g, c, h1, h2, h3⟩ := ready_met h
  ⟨g, s, c, h1, h2, h3⟩

/-! ### Hypotheses of the statements on register words -/

theorem witness_IntegerWordsCompute : ∃ i t o sat f g s c, exactInt i = some (t, o, sat, f) ∧ AtWord i g s c ∧ Clear i g c :=
  have ⟨g, s, c, h⟩ := word_met (.add .i32 oV) (by decide)
  ⟨.add .i32 oV, _, _, _, _, g, s, c, rfl, h⟩

theorem witness_LogicWordsActOnEveryBit : ∃ i o f g s c, bitOf i = some (o, f) ∧ AtWord i g s c ∧ Clear i g c :=
  have ⟨g, s, c, h⟩ := word_met (.andn oV) (by decide)
  ⟨.andn oV, _, _, g, s, c, rfl, h⟩

theorem witness_BitCountShiftAndFieldWords : ∃ i o w sg rule g s c, elemRule i = some (o, w, sg, rule) ∧ AtWord i g s c ∧ Clear i g c :=
  have ⟨g, s, c, h⟩ := word_met (.bfi .n32 oV) (by decide)
  ⟨.bfi .n32 oV, _, _, _, _, g, s, c, rfl, h⟩

theorem witness_MoveAndCarryWords : ∃ i o rule g s c, regRule i = some (o, rule) ∧ AtWord i g s c ∧ Clear i g c :=
  have ⟨g, s, c, h⟩ := word_met (.addc oV) (by decide)
  ⟨.addc oV, _, _, g, s, c, rfl, h⟩

theorem witness_IntegerPredicateWords : ∃ i o f g s c, predRule i = some (o, f) ∧ AtWord i g s c ∧ Clear i g c :=
  have ⟨g, s, c, h⟩ := word_met (.cmpLt .i32 oV) (by decide)
  ⟨.cmpLt .i32 oV, _, _, g, s, c, rfl, h⟩

/-- p0 as the destination. -/
theorem witness_IntegerPredicateWords_p0 : ∃ g s c, AtWord (.cmpEq .i32 ⟨0, 0, 5, 6, none, none⟩) g s c ∧
    Clear (.cmpEq .i32 ⟨0, 0, 5, 6, none, none⟩) g c := word_met _ (by decide)

theorem witness_FloatWordsByElement : ∃ i t o f g s c, floatElem i = some (t, o, f) ∧ AtWord i g s c ∧ Clear i g c :=
  have ⟨g, s, c, h⟩ := word_met (.fma .f32 oV) (by decide)
  ⟨.fma .f32 oV, _, _, _, g, s, c, rfl, h⟩

theorem witness_BoundedFunctionWords : ∃ i f o k g s c, boundedElem i = some (f, o, k) ∧ AtWord i g s c ∧ Clear i g c :=
  have ⟨g, s, c, h⟩ := word_met (.fexp2 oV0) (by decide)
  ⟨.fexp2 oV0, _, _, _, g, s, c, rfl, h⟩

theorem witness_FloatPredicateWords : ∃ i o f g s c, floatPred i = some (o, f) ∧ AtWord i g s c ∧ Clear i g c :=
  have ⟨g, s, c, h⟩ := word_met (.fcmpUn .f16 oV) (by decide)
  ⟨.fcmpUn .f16 oV, _, _, g, s, c, rfl, h⟩

theorem witness_ConvertDotAndIndexWords : ∃ i o rule g s c, convertRule i = some (o, rule) ∧ AtWord i g s c ∧ Clear i g c :=
  have ⟨g, s, c, h⟩ := word_met (.dot .e4m3 ⟨2, 10, 2, 3, some 0x00005414, none⟩) (by decide)
  ⟨.dot .e4m3 ⟨2, 10, 2, 3, some 0x00005414, none⟩, _, _, g, s, c, rfl, h⟩
/-- Forms of CVT: one that narrows, one that widens, one to and one from an integer; a CVTS form of each kind. -/
theorem witness_ConvertDotAndIndexWords_cvt : (cvtFloat .f16f32).isSome = true ∧ (cvtFloat .f32e4m3).isSome = true ∧
    cvtInt .i32f32 = some (fmtF32, true, true) ∧ cvtInt .f64n64 = some (fmtF64, false, false) ∧
    (cvtsForm .e2m1f32).2 = true ∧ (cvtsForm .f32e5m2).2 = false := by decide
/-- SCL's values: the largest finite of both, and an infinity. -/
theorem witness_ConvertDotAndIndexWords_scl : fpLt (.num false 0 0) (fpDecode fmtF32 0x43E00000) = true ∧
    fpDecode fmtF32 0x7F800000 = .inf false := by decide

theorem witness_MaxIndexF64WritesAPair : ∃ o g s c, (Instr.fmaxix .f64 o).wf = true ∧ AtWord (.fmaxix .f64 o) g s c ∧
    Clear (.fmaxix .f64 o) g c :=
  have ⟨g, s, c, h⟩ := word_met (.fmaxix .f64 ⟨0, 4, 6, 8, none, none⟩) (by decide)
  ⟨⟨0, 4, 6, 8, none, none⟩, g, s, c, by decide, h⟩

/-- A third of the way from one value to the next: a finite result that is rounded. -/
theorem witness_RoundingFollowsTheMode : finite (fpDecode fmtE4M3 (fpWrite fmtE4M3 ⟨0, false, false, false⟩ (.num false 0x31 (-2)))) = true := by
  decide

theorem witness_ShufflesReadActiveLanes : ∃ i o src g s c, shuffleFrom i = some (o, src) ∧ AtWord i g s c ∧ Clear i g c :=
  have ⟨g, s, c, h⟩ := word_met (.shflUp ⟨0, 4, 5, 1, none, none⟩) (by decide)
  ⟨.shflUp ⟨0, 4, 5, 1, none, none⟩, _, _, g, s, c, rfl, h⟩

theorem witness_ReduxWords : ∃ g s c n, AtWord (.redux .addI32 oV0) g s c ∧ Clear (.redux .addI32 oV0) g c ∧ c.w.width = 2 ^ n ∧ n ≤ 6 :=
  have ⟨g, s, c, h1, h2, h3⟩ := word_metP (.redux .addI32 oV0) (before (.redux .addI32 oV0)) (fun c => decide (c.w.width = 2 ^ 5)) (by decide)
  ⟨g, s, c, 5, h1, h2, by simpa using h3, by decide⟩

theorem witness_PermAndControlReads : ∃ g s c, AtWord (.perm oV) g s c ∧ Clear (.perm oV) g c := word_met _ (by decide)
theorem witness_PermAndControlReads_fctl : ∃ g s c, AtWord (.fctlRd ⟨0, 4, 0, 0, none, none⟩) g s c ∧
    Clear (.fctlRd ⟨0, 4, 0, 0, none, none⟩) g c := word_met _ (by decide)

theorem witness_FctlWriteTakesFiveBits : ∃ g s c, AtWord (.fctlWr ⟨0, 0, 5, 0, none, none⟩) g s c ∧
    Clear (.fctlWr ⟨0, 0, 5, 0, none, none⟩) g c := word_met _ (by decide)

theorem witness_UniformWordsCompute : ∃ i o rule g s c, uniRule i = some (o, rule) ∧ AtWord i g s c ∧ Clear i g c :=
  have ⟨g, s, c, h⟩ := word_met (.usub oG) (by decide)
  ⟨.usub oG, _, _, g, s, c, rfl, h⟩

theorem witness_LeaAddsAScaledIndex : ∃ g s c, AtWord (.lea 3 ⟨0, 10, 2, 3, none, none⟩) g s c ∧
    Clear (.lea 3 ⟨0, 10, 2, 3, none, none⟩) g c := word_met _ (by decide)

theorem witness_VotesAnswerEveryLane : ∃ g s c, AtWord (.vote .bal oV0) g s c ∧ Clear (.vote .bal oV0) g c ∧
    (∀ l, c.w.width ≤ l → inLanes c.p.lanes l = false) :=
  have ⟨g, c, h1, h2, h3⟩ := ready_met (i := .vote .bal oV0) (s := before (.vote .bal oV0))
    (P := fun c => decide (c.w.width = 32) && decide (c.p.lanes = 0xFFFFFFFF#64)) (by decide)
  ⟨g, _, c, h1, h2, fun l hl => by
    simp only [Bool.and_eq_true, decide_eq_true_eq] at h3
    rw [h3.1] at hl
    rw [h3.2]
    by_cases h : l < 64
    · interval_cases l <;> decide
    · exact BitVec.getLsbD_of_ge _ _ (by omega)⟩

/-! ### Hypotheses of the statements on memory words -/

/-- A wave of two active lanes, whose v5 and s5 hold an address near the end of the mapped gigabyte. -/
def twoLanes (w : Wave) : Wave :=
  { w with
    v := sset (sset w.v 5 0x3FFFFFF0#64) (128 + 5) 0x3FFFFFE0#64
    s := sset w.s 5 0x3FFFFFE0#64
    paths := w.paths.map fun p => { p with lanes := 3 } }

/-- Each lane's translation. -/
def xlOf (s : State) (c : WCtx) (n : Nat) (acc : Acc) (lanes : List (Nat × Word)) (l : Nat) : List (Xlat × Nat) :=
  match lanes.find? fun e => e.1 = l with
  | some e => match s.laneX c.w.part e.2 n acc with
    | .ok x => x
    | _ => []
  | none => []

/-- The checks of R209 over all lanes. -/
def passB (s : State) (c : WCtx) (n : Nat) (acc : Acc) (aligned : Bool) (bad : Xlat → Bool) (lanes : List (Nat × Word)) : Bool :=
  !lanes.isEmpty && lanes.all fun e => decide (s.laneX c.w.part e.2 n acc = .ok (xlOf s c n acc lanes e.1)) &&
    (!aligned || e.2.toNat % n = 0) && (xlOf s c n acc lanes e.1).all (fun x => !bad x.1) && !s.locked c.w.core false e.2.toNat n

theorem pass_met {s : State} {c : WCtx} {n : Nat} {acc : Acc} {aligned : Bool} {bad : Xlat → Bool} {lanes : List (Nat × Word)}
    (h : passB s c n acc aligned bad lanes = true) : allPass s c n acc aligned bad lanes (xlOf s c n acc lanes) := by
  intro e he
  simp only [passB, Bool.and_eq_true, List.all_eq_true, decide_eq_true_eq, Bool.or_eq_true, Bool.not_eq_true'] at h
  obtain ⟨_, h⟩ := h
  obtain ⟨⟨⟨h1, h2⟩, h3⟩, h4⟩ := h e he
  exact ⟨h1, fun ha => h2.resolve_left (by simp [ha]), h3, h4⟩

theorem noT {b : Bool} (h : (!b) = true) : b = false := by simpa using h

theorem both {a b : Bool} (h : (a && b) = true) : a = true ∧ b = true := by simpa using h

def two (i : Instr) : State := standing i twoLanes id

def iLd : Instr := .ldG .i16 .v ⟨0, 4, 5, 3, none⟩
theorem witness_GlobalLoadsIssue : ∃ i f g s c xl, globalLoad i = some f ∧ AtWord i g s c ∧ Clear i g c ∧ c.w.twin = none ∧
    (∀ t o, i = .ldo t o → (c.w.strict && o.order.acquires && o.scope.wide) = false) ∧
    allPass s c f.n f.acc f.aligned f.bad (f.lanes c) xl :=
  have ⟨g, c, h1, h2, h3⟩ := ready_met (i := iLd) (s := two iLd) (P := fun c => decide (c.w.twin = none) &&
    passB (two iLd) c 2 .load false (fun _ => false) (c.addrs .v ⟨0, 4, 5, 3, none⟩ 2)) (by decide)
  ⟨iLd, _, g, _, c, _, rfl, h1, h2, of_decide_eq_true (both h3).1, nofun, pass_met (both h3).2⟩

def oLdo : OpsAT := ⟨0, 4, 5, .blk, .acq, 0⟩
/-- An acquire load outside strict mode. -/
theorem witness_GlobalLoadsIssue_ldo : ∃ g c xl, AtWord (.ldo .n64 oLdo) g (two (.ldo .n64 oLdo)) c ∧ Clear (.ldo .n64 oLdo) g c ∧
    c.w.twin = none ∧ (c.w.strict && oLdo.order.acquires && oLdo.scope.wide) = false ∧
    allPass (two (.ldo .n64 oLdo)) c 8 .ldo true (fun x => oLdo.order.acquires && oLdo.scope ≠ .sys && portMem x.pa) (c.addrsAT oLdo) xl :=
  have ⟨g, c, h1, h2, h3⟩ := ready_met (i := .ldo .n64 oLdo) (s := two (.ldo .n64 oLdo)) (P := fun c => decide (c.w.twin = none) &&
    (!(c.w.strict && oLdo.order.acquires && oLdo.scope.wide) &&
    passB (two (.ldo .n64 oLdo)) c 8 .ldo true (fun x => oLdo.order.acquires && oLdo.scope ≠ .sys && portMem x.pa) (c.addrsAT oLdo)))
    (by decide)
  ⟨g, c, _, h1, h2, of_decide_eq_true (both h3).1, noT (both (both h3).2).1, pass_met (both (both h3).2).2⟩

def iSt : Instr := .stG .n64 .v ⟨0, 4, 5, 0, none⟩
theorem witness_GlobalStoresEnterTheQueue : ∃ i f g s c xl, globalStore i = some f ∧ AtWord i g s c ∧ Clear i g c ∧ c.w.twin = none ∧
    allPass s c f.n f.acc f.aligned (fun _ => false) (f.lanes c) xl :=
  have ⟨g, c, h1, h2, h3⟩ := ready_met (i := iSt) (s := two iSt) (P := fun c => decide (c.w.twin = none) &&
    passB (two iSt) c 8 .store false (fun _ => false) (c.addrs .v ⟨0, 4, 5, 0, none⟩ 8)) (by decide)
  ⟨iSt, _, g, _, c, _, rfl, h1, h2, of_decide_eq_true (both h3).1, pass_met (both h3).2⟩

/-- A block with 4 KiB of scratchpad; every lane reaches its last 8 bytes. -/
def scratchState (i : Instr) : State := standing i (fun w => { twoLanes w with v := sset (sset w.v 5 4088#64) 133 4080#64 })
  fun s => { s with blocks := [(0, { loadBlock with size := 4096 })] }

def oLdS : OpsG := ⟨0, 4, 5, 0, none⟩
/-- The checks of R209 for scratchpad accesses. -/
def scratchB (s : State) (c : WCtx) (window read : Bool) (n : Nat) (lanes : List (Nat × Word)) (pl : Nat → Nat × Nat) : Bool :=
  !lanes.isEmpty && lanes.all fun e => decide (s.windowPlace c window e.2.toNat n = some (pl e.1)) && decide (e.2.toNat % n = 0) &&
    !s.locked (pl e.1).1 true (pl e.1).2 n && (!read || !s.eccHit (.scr (pl e.1).1 (pl e.1).2) n)

theorem scratch_met {s : State} {c : WCtx} {window read : Bool} {n : Nat} {lanes : List (Nat × Word)} {pl : Nat → Nat × Nat}
    (h : scratchB s c window read n lanes pl = true) : scratchPass s c window read n lanes pl := by
  intro e he
  simp only [scratchB, Bool.and_eq_true, List.all_eq_true, decide_eq_true_eq, Bool.or_eq_true, Bool.not_eq_true'] at h
  obtain ⟨⟨⟨h1, h2⟩, h3⟩, h4⟩ := h.2 e he
  exact ⟨h1, h2, h3, fun hr => h4.resolve_left (by simp [hr])⟩

theorem witness_ScratchLoadsIssue : ∃ i win o n sg dst g s c pl, scratchLoad i = some (win, o, n, sg, dst) ∧ AtWord i g s c ∧
    Clear i g c ∧ c.w.twin = none ∧ scratchPass s c win true n (c.addrs .v o n) pl :=
  have ⟨g, c, h1, h2, h3⟩ := ready_met (i := .ldS .n64 oLdS) (s := scratchState (.ldS .n64 oLdS)) (P := fun c => decide (c.w.twin = none) &&
    scratchB (scratchState (.ldS .n64 oLdS)) c false true 8 (c.addrs .v oLdS 8) fun l => (0, 4088 - 8 * l)) (by decide)
  ⟨.ldS .n64 oLdS, _, _, _, _, _, g, _, c, _, rfl, h1, h2, of_decide_eq_true (both h3).1, scratch_met (both h3).2⟩

theorem witness_ScratchStoresEnterTheQueue : ∃ i win o n data g s c pl, scratchStore i = some (win, o, n, data) ∧ AtWord i g s c ∧
    Clear i g c ∧ c.w.twin = none ∧ scratchPass s c win false n (c.addrs .v o n) pl :=
  have ⟨g, c, h1, h2, h3⟩ := ready_met (i := .stS .n64 oLdS) (s := scratchState (.stS .n64 oLdS)) (P := fun c => decide (c.w.twin = none) &&
    scratchB (scratchState (.stS .n64 oLdS)) c false false 8 (c.addrs .v oLdS 8) fun l => (0, 4088 - 8 * l)) (by decide)
  ⟨.stS .n64 oLdS, _, _, _, _, g, _, c, _, rfl, h1, h2, of_decide_eq_true (both h3).1, scratch_met (both h3).2⟩

def oAt : OpsAT := ⟨0, 4, 5, .dev, .acqrel, 0⟩
theorem witness_AtomicsIssueOneStepPerLane : ∃ i o f n y g s c xl, atomicForm i = some (o, f, n, y) ∧ AtWord i g s c ∧ Clear i g c ∧
    (c.w.strict && o.scope.wide) = false ∧
    allPass s c n .atomic true (fun x => o.scope ≠ .sys && portMem x.pa) (c.addrsAT o) xl :=
  have ⟨g, c, h1, h2, h3⟩ := ready_met (i := .cas .n64 oAt) (s := two (.cas .n64 oAt)) (P := fun c => !(c.w.strict && oAt.scope.wide) &&
    passB (two (.cas .n64 oAt)) c 8 .atomic true (fun x => oAt.scope ≠ .sys && portMem x.pa) (c.addrsAT oAt)) (by decide)
  ⟨.cas .n64 oAt, _, _, _, _, g, _, c, _, rfl, h1, h2, noT (both h3).1, pass_met (both h3).2⟩

def oRed : OpsAT := ⟨0, 4, 5, .dev, .rlx, 0⟩
theorem witness_ReductionsIssue : ∃ g c xl, AtWord (.redAddN64 oRed) g (two (.redAddN64 oRed)) c ∧ Clear (.redAddN64 oRed) g c ∧
    (two (.redAddN64 oRed)).genWaits c.w = false ∧
    allPass (two (.redAddN64 oRed)) c 8 .atomic true (fun x => portMem x.pa) (c.addrsAT oRed) xl :=
  have ⟨g, c, h1, h2, h3⟩ := ready_met (i := .redAddN64 oRed) (s := two (.redAddN64 oRed))
    (P := fun c => !(two (.redAddN64 oRed)).genWaits c.w &&
    passB (two (.redAddN64 oRed)) c 8 .atomic true (fun x => portMem x.pa) (c.addrsAT oRed)) (by decide)
  ⟨g, c, _, h1, h2, noT (both h3).1, pass_met (both h3).2⟩

def oSto : OpsAT := ⟨0, 4, 5, .blk, .rel, 0⟩
theorem witness_ReleaseStoresIssue : ∃ g c xl, oSto.order.releases = true ∧ AtWord (.sto .n64 oSto) g (two (.sto .n64 oSto)) c ∧
    Clear (.sto .n64 oSto) g c ∧ (c.w.strict && oSto.scope.wide) = false ∧
    allPass (two (.sto .n64 oSto)) c 8 .ldo true (fun x => oSto.scope ≠ .sys && portMem x.pa) (c.addrsAT oSto) xl :=
  have ⟨g, c, h1, h2, h3⟩ := ready_met (i := .sto .n64 oSto) (s := two (.sto .n64 oSto)) (P := fun c => !(c.w.strict && oSto.scope.wide) &&
    passB (two (.sto .n64 oSto)) c 8 .ldo true (fun x => oSto.scope ≠ .sys && portMem x.pa) (c.addrsAT oSto)) (by decide)
  ⟨g, c, _, rfl, h1, h2, noT (both h3).1, pass_met (both h3).2⟩

theorem witness_RedFlush : ∃ g s c, AtWord (.redFlush ⟨0, 0, 0, 0, none⟩) g s c ∧ Clear (.redFlush ⟨0, 0, 0, 0, none⟩) g c ∧
    s.genWaits c.w = false :=
  have ⟨g, c, h1, h2, h3⟩ := ready_met (i := .redFlush ⟨0, 0, 0, 0, none⟩) (s := before (.redFlush ⟨0, 0, 0, 0, none⟩))
    (P := fun c => !(before (.redFlush ⟨0, 0, 0, 0, none⟩)).genWaits c.w) (by decide)
  ⟨g, _, c, h1, h2, noT h3⟩

/-- A store that waits in a wave's queue. -/
def aStore : StoreEnt := ⟨7, 0, .glob 0x20000, [1, 2], none, false⟩
def iFence : Instr := .fence ⟨0, 9⟩
/-- A write to host memory that a die's port holds. -/
def aHeld : PortWrite := ⟨0, 0x100000000000, [1], false, 0⟩

theorem witness_FencesWait : ∃ g s c, AtWord iFence g s c ∧ Clear iFence g c ∧ c.w.drained = false :=
  have ⟨g, c, h1, h2, h3⟩ := ready_met (i := iFence) (s := standing iFence (fun w => { w with queue := [aStore] }) id)
    (P := fun c => !c.w.drained) (by decide)
  ⟨g, _, c, h1, h2, noT h3⟩

theorem witness_FencesGoOn : ∃ g s c, AtWord iFence g s c ∧ Clear iFence g c ∧ c.w.drained = true ∧ ∀ p ∈ s.msys.ports, p.die ≠ c.w.die :=
  have ⟨g, c, h1, h2, h3⟩ := ready_met (i := iFence) (s := before iFence) (P := fun c => c.w.drained) (by decide)
  ⟨g, _, c, h1, h2, h3, fun p hp => by cases hp⟩

/-- A release at .dev (imm21 = 6) while its die's port holds a write. -/
theorem witness_FencesGoOn_port : ∃ g s c, AtWord (.fence ⟨0, 6⟩) g s c ∧ Clear (.fence ⟨0, 6⟩) g c ∧ ∃ p ∈ s.msys.ports, p.die = c.w.die :=
  have ⟨g, c, h1, h2, h3⟩ := ready_met (i := .fence ⟨0, 6⟩) (s := standing (.fence ⟨0, 6⟩) id
    fun s => s.setMsys { s.msys with ports := [aHeld] }) (P := fun c => decide (c.w.die = 0)) (by decide)
  ⟨g, _, c, h1, h2, _, List.mem_singleton.mpr rfl, (of_decide_eq_true h3).symm⟩

theorem witness_FenceScSys : ∃ g s c, AtWord (.fenceScSys ⟨0, 15⟩) g s c ∧ Clear (.fenceScSys ⟨0, 15⟩) g c ∧ c.w.drained = true ∧
    ∀ p ∈ s.msys.ports, p.die ≠ c.w.die :=
  have ⟨g, c, h1, h2, h3⟩ := ready_met (i := .fenceScSys ⟨0, 15⟩) (s := before (.fenceScSys ⟨0, 15⟩)) (P := fun c => c.w.drained) (by decide)
  ⟨g, _, c, h1, h2, h3, fun p hp => by cases hp⟩

theorem witness_FenceScSys_port : ∃ g s c, AtWord (.fenceScSys ⟨0, 15⟩) g s c ∧ Clear (.fenceScSys ⟨0, 15⟩) g c ∧
    ∃ p ∈ s.msys.ports, p.die = c.w.die :=
  have ⟨g, c, h1, h2, h3⟩ := ready_met (i := .fenceScSys ⟨0, 15⟩) (s := standing (.fenceScSys ⟨0, 15⟩) id
    fun s => s.setMsys { s.msys with ports := [aHeld] }) (P := fun c => decide (c.w.die = 0)) (by decide)
  ⟨g, _, c, h1, h2, _, List.mem_singleton.mpr rfl, (of_decide_eq_true h3).symm⟩

/-- Lane 1's address lies beyond 52 bits. -/
def badLane (w : Wave) : Wave := { twoLanes w with v := sset (sset w.v 5 0x20000#64) 133 0x10000000000000#64 }

/-- The lanes of a global word that a check turns away: rights, alignment, the region's scope, a lock. -/
def refused (k : Nat) (f : Access) (s : State) (c : WCtx) : List (Nat × Word) := (f.lanes c).filter fun e => match k with
  | 0 => decide (s.laneX c.w.part e.2 f.n f.acc = .rights)
  | 1 => decide (e.2.toNat % f.n ≠ 0)
  | 2 => (match s.laneX c.w.part e.2 f.n f.acc with | .ok y => y.any fun p => f.bad p.1 | _ => false)
  | _ => s.locked c.w.core false e.2.toNat f.n

/-- The `k`-th check is the first that turns lanes of a global word away. -/
def turnsAway (k : Nat) (i : Instr) (f : Access) (s : State) : Bool := readyFor i s fun c => !f.early c &&
  (List.range 4).all fun j => if j < k then (refused j f s c).isEmpty || (j = 1 && !f.aligned)
    else j ≠ k || (!(refused j f s c).isEmpty && (j ≠ 1 || f.aligned))

theorem refused_met {k : Nat} {i : Instr} {f : Access} {s : State} (hk : k < 4) (hf : accessOf i = some f)
    (h : turnsAway k i f s = true) :
    ∃ f g s c, accessOf i = some f ∧ AtWord i g s c ∧ Clear i g c ∧ f.early c = false ∧ refused k f s c ≠ [] ∧
      (k = 1 → f.aligned = true) ∧ ∀ j < k, refused j f s c = [] ∨ (j = 1 ∧ f.aligned = false) := by
  obtain ⟨g, c, h1, h2, h3⟩ := ready_met h
  obtain ⟨h3, h4⟩ := both h3
  rw [List.all_eq_true] at h4
  have h5 := h4 k (List.mem_range.mpr hk)
  simp only [lt_irrefl, if_false, ne_eq, not_true_eq_false, decide_false, Bool.false_or, Bool.and_eq_true, Bool.not_eq_true',
    List.isEmpty_eq_false_iff, Bool.or_eq_true, decide_eq_true_eq] at h5
  refine ⟨f, g, s, c, hf, h1, h2, noT h3, h5.1, fun e => h5.2.resolve_left (by simpa using e), fun j hj => ?_⟩
  have := h4 j (List.mem_range.mpr (by omega))
  simpa [hj] using this

def iLdv : Instr := .ldG .n64 .v ⟨0, 4, 5, 0, none⟩
theorem witness_RefusedAccessesFaultPrecisely : ∃ f g s c, accessOf iLdv = some f ∧ AtWord iLdv g s c ∧ Clear iLdv g c ∧
    f.early c = false ∧ refused 0 f s c ≠ [] ∧ ((0 : Nat) = 1 → f.aligned = true) ∧
    ∀ j < 0, refused j f s c = [] ∨ (j = 1 ∧ f.aligned = false) :=
  refused_met (s := standing iLdv badLane id) (by decide) rfl (by decide)

def iLdoN : Instr := .ldo .n64 oLdo
theorem witness_RefusedAccessesFaultPrecisely_aligned : ∃ f g s c, accessOf iLdoN = some f ∧ AtWord iLdoN g s c ∧ Clear iLdoN g c ∧
    f.early c = false ∧ refused 1 f s c ≠ [] ∧ ((1 : Nat) = 1 → f.aligned = true) ∧
    ∀ j < 1, refused j f s c = [] ∨ (j = 1 ∧ f.aligned = false) :=
  refused_met (s := standing iLdoN (fun w => { twoLanes w with v := sset w.v 5 0x3FFFFFF1#64 }) id) (by decide) rfl (by decide)

/-- The second gigabyte of addresses maps the first of host memory. -/
def hostMapped (s : State) : State :=
  { s.setDword 0x3008 0x800010000000009D#64 with parts := [(0, { loadPart with entry := loadPart.entry ++ [(12, 1#64)] })] }
theorem witness_RefusedAccessesFaultPrecisely_scope : ∃ f g s c, accessOf iLdoN = some f ∧ AtWord iLdoN g s c ∧ Clear iLdoN g c ∧
    f.early c = false ∧ refused 2 f s c ≠ [] ∧ ((2 : Nat) = 1 → f.aligned = true) ∧
    ∀ j < 2, refused j f s c = [] ∨ (j = 1 ∧ f.aligned = false) :=
  refused_met (s := standing iLdoN (fun w => { twoLanes w with v := sset (sset w.v 5 0x40000000#64) 133 0x40000008#64 }) hostMapped)
    (by decide) rfl (by decide)

/-- A lock on lane 1's word. -/
def aLock : Lock := ⟨0, false, 0x3FFFFFE0, 8, 0⟩
theorem witness_RefusedAccessesFaultPrecisely_locked : ∃ f g s c, accessOf iLdv = some f ∧ AtWord iLdv g s c ∧ Clear iLdv g c ∧
    f.early c = false ∧ refused 3 f s c ≠ [] ∧ ((3 : Nat) = 1 → f.aligned = true) ∧
    ∀ j < 3, refused j f s c = [] ∨ (j = 1 ∧ f.aligned = false) :=
  refused_met (s := standing iLdv twoLanes fun s => s.setMsys { s.msys with locks := [aLock] }) (by decide) rfl (by decide)

/-- A strict wave, and a scope wider than its block's. -/
theorem witness_RefusedAccessesFaultPrecisely_strict : ∃ f g s c, accessOf (.cas .n64 oAt) = some f ∧ AtWord (.cas .n64 oAt) g s c ∧
    Clear (.cas .n64 oAt) g c ∧ f.early c = true :=
  have ⟨g, c, h1, h2, h3⟩ := ready_met (i := .cas .n64 oAt) (s := standing (.cas .n64 oAt) (fun w => { twoLanes w with launch := (153, 1#64) :: w.launch }) id)
    (P := fun c => c.w.strict && oAt.scope.wide) (by decide)
  ⟨_, g, _, c, rfl, h1, h2, h3⟩

/-- The lanes of a scratchpad word that a check turns away: bounds, alignment, a lock, an error. -/
def refusedS (k n : Nat) (s : State) (c : WCtx) (o : OpsG) : List (Nat × Word) := (c.addrs .v o n).filter fun e => match k with
  | 0 => (s.windowPlace c false e.2.toNat n).isNone
  | 1 => decide (e.2.toNat % n ≠ 0)
  | 2 => (s.windowPlace c false e.2.toNat n).any fun p => s.locked p.1 true p.2 n
  | _ => (s.windowPlace c false e.2.toNat n).any fun p => s.eccHit (.scr p.1 p.2) n

theorem refusedS_met {k : Nat} {s : State} (h : readyFor (.ldS .n64 oLdS) s (fun c => !(refusedS k 8 s c oLdS).isEmpty &&
      (List.range k).all fun j => (refusedS j 8 s c oLdS).isEmpty) = true) :
    ∃ g s c, AtWord (.ldS .n64 oLdS) g s c ∧ Clear (.ldS .n64 oLdS) g c ∧ refusedS k 8 s c oLdS ≠ [] ∧
      ∀ j < k, refusedS j 8 s c oLdS = [] := by
  obtain ⟨g, c, h1, h2, h3⟩ := ready_met h
  simp only [Bool.and_eq_true, Bool.not_eq_true', List.isEmpty_eq_false_iff, List.all_eq_true, List.mem_range, List.isEmpty_iff] at h3
  exact ⟨g, s, c, h1, h2, h3.1, h3.2⟩

def scratchAt (a b : Word) (m : MemSys → MemSys) : State := standing (.ldS .n64 oLdS)
  (fun w => { twoLanes w with v := sset (sset w.v 5 a) 133 b }) fun s => { s with blocks := [(0, { loadBlock with size := 4096 })], msys := m s.msys }
theorem witness_RefusedAccessesFaultPrecisely_bounds : ∃ g s c, AtWord (.ldS .n64 oLdS) g s c ∧ Clear (.ldS .n64 oLdS) g c ∧
    refusedS 0 8 s c oLdS ≠ [] ∧ ∀ j < 0, refusedS j 8 s c oLdS = [] := refusedS_met (s := scratchAt 4088 4089 id) (by decide)
theorem witness_RefusedAccessesFaultPrecisely_alignedS : ∃ g s c, AtWord (.ldS .n64 oLdS) g s c ∧ Clear (.ldS .n64 oLdS) g c ∧
    refusedS 1 8 s c oLdS ≠ [] ∧ ∀ j < 1, refusedS j 8 s c oLdS = [] := refusedS_met (s := scratchAt 4088 4087 id) (by decide)
theorem witness_RefusedAccessesFaultPrecisely_lockedS : ∃ g s c, AtWord (.ldS .n64 oLdS) g s c ∧ Clear (.ldS .n64 oLdS) g c ∧
    refusedS 2 8 s c oLdS ≠ [] ∧ ∀ j < 2, refusedS j 8 s c oLdS = [] :=
  refusedS_met (s := scratchAt 4088 0 fun m => { m with locks := [⟨0, true, 0, 8, 0⟩] }) (by decide)
theorem witness_RefusedAccessesFaultPrecisely_ecc : ∃ g s c, AtWord (.ldS .n64 oLdS) g s c ∧ Clear (.ldS .n64 oLdS) g c ∧
    refusedS 3 8 s c oLdS ≠ [] ∧ ∀ j < 3, refusedS j 8 s c oLdS = [] :=
  refusedS_met (s := scratchAt 4088 0 fun m => { m with eccBad := [511] }) (by decide)

/-! ### A twin's words -/

/-- A twin with `n` store words in its buffer and `m` granules in its load set. -/
def aTwin (n m : Nat) : Twin := ⟨9, [], (List.range m).map fun k => .scr 0 (32 * k),
  (List.range n).map fun k => ⟨k, 0, .glob 0x20000, [1], none, false⟩, none, [], [], []⟩
def twinOf (n m : Nat) (w : Wave) : Wave := { twoLanes w with twin := some (aTwin n m) }

theorem witness_TwinsLoadIntoTheirSet : ∃ f g s c xl t, globalLoad iLdv = some f ∧ AtWord iLdv g s c ∧ Clear iLdv g c ∧
    c.w.twin = some t ∧ allPass s c f.n f.acc f.aligned f.bad (f.lanes c) xl ∧
    t.loads.length + ((granulesOf (accs (f.lanes c) xl) f.n).eraseDups.filter fun g => !t.loads.contains g).length ≤ 256 :=
  have ⟨g, c, h1, h2, h3⟩ := ready_met (i := iLdv) (s := standing iLdv (twinOf 0 3) id) (P := fun c => decide (c.w.twin = some (aTwin 0 3)) &&
    (passB (standing iLdv (twinOf 0 3) id) c 8 .load false (fun _ => false) (c.addrs .v ⟨0, 4, 5, 0, none⟩ 8) &&
    decide (3 + ((granulesOf (accs (c.addrs .v ⟨0, 4, 5, 0, none⟩ 8) (xlOf (standing iLdv (twinOf 0 3) id) c 8 .load
      (c.addrs .v ⟨0, 4, 5, 0, none⟩ 8))) 8).eraseDups.filter fun g => !(aTwin 0 3).loads.contains g).length ≤ 256))) (by decide)
  ⟨_, g, _, c, _, _, rfl, h1, h2, of_decide_eq_true (both h3).1, pass_met (both (both h3).2).1, of_decide_eq_true (both (both h3).2).2⟩

/-- A set that is full. -/
def fullSet : State := standing (.ldS .n64 oLdS) (fun w => { twinOf 0 256 w with v := sset (sset w.v 5 4088#64) 133 4080#64 })
  fun s => { s with blocks := [(0, { loadBlock with size := 4096 })] }
set_option maxRecDepth 4000 in
theorem witness_TwinsLoadIntoTheirSet_full : ∃ g s c pl t, AtWord (.ldS .n64 oLdS) g s c ∧ Clear (.ldS .n64 oLdS) g c ∧ c.w.twin = some t ∧
    scratchPass s c false true 8 (c.addrs .v oLdS 8) pl ∧ ∀ k, 256 < t.loads.length + (k + 1) :=
  have ⟨g, c, h1, h2, h3⟩ := ready_met (i := .ldS .n64 oLdS) (s := fullSet)
    (P := fun c => c.w.twin.any (fun t => decide (t.loads.length = 256)) &&
      scratchB fullSet c false true 8 (c.addrs .v oLdS 8) fun l => (0, 4088 - 8 * l)) (by decide)
  have ⟨t, ht, hl⟩ := (Option.any_eq_true _ _).mp (both h3).1
  ⟨g, _, c, _, t, h1, h2, ht, scratch_met (both h3).2, fun k => by have := of_decide_eq_true hl; omega⟩

theorem witness_TwinsBufferTheirStores : ∃ f g s c xl t, globalStore iSt = some f ∧ AtWord iSt g s c ∧ Clear iSt g c ∧ c.w.twin = some t ∧
    allPass s c f.n f.acc f.aligned (fun _ => false) (f.lanes c) xl ∧ (t.buf.map StoreEnt.op).eraseDups.length < 64 :=
  have ⟨g, c, h1, h2, h3⟩ := ready_met (i := iSt) (s := standing iSt (twinOf 2 0) id) (P := fun c => decide (c.w.twin = some (aTwin 2 0)) &&
    passB (standing iSt (twinOf 2 0) id) c 8 .store false (fun _ => false) (c.addrs .v ⟨0, 4, 5, 0, none⟩ 8)) (by decide)
  ⟨_, g, _, c, _, _, rfl, h1, h2, of_decide_eq_true (both h3).1, pass_met (both h3).2, by decide⟩

/-- A buffer that is full. -/
theorem witness_TwinsBufferTheirStores_full : ∃ f g s c xl t, globalStore iSt = some f ∧ AtWord iSt g s c ∧ Clear iSt g c ∧ c.w.twin = some t ∧
    allPass s c f.n f.acc f.aligned (fun _ => false) (f.lanes c) xl ∧ 64 ≤ (t.buf.map StoreEnt.op).eraseDups.length :=
  have ⟨g, c, h1, h2, h3⟩ := ready_met (i := iSt) (s := standing iSt (twinOf 64 0) id) (P := fun c => decide (c.w.twin = some (aTwin 64 0)) &&
    passB (standing iSt (twinOf 64 0) id) c 8 .store false (fun _ => false) (c.addrs .v ⟨0, 4, 5, 0, none⟩ 8)) (by decide)
  ⟨_, g, _, c, _, _, rfl, h1, h2, of_decide_eq_true (both h3).1, pass_met (both h3).2, by decide⟩

theorem witness_TwinsHoldFaults : ∃ f g s c t, accessOf iLdv = some f ∧ AtWord iLdv g s c ∧ Clear iLdv g c ∧ c.w.twin = some t ∧
    f.early c = false ∧ refused 0 f s c ≠ [] :=
  have ⟨g, c, h1, h2, h3⟩ := ready_met (i := iLdv) (s := standing iLdv (fun w => { badLane w with twin := some (aTwin 0 0) }) id)
    (P := fun c => decide (c.w.twin = some (aTwin 0 0)) && !((c.addrs .v ⟨0, 4, 5, 0, none⟩ 8).filter fun e =>
      decide ((standing iLdv (fun w => { badLane w with twin := some (aTwin 0 0) }) id).laneX c.w.part e.2 8 .load = .rights)).isEmpty) (by decide)
  ⟨_, g, _, c, _, rfl, h1, h2, of_decide_eq_true (both h3).1, Bool.and_false _, by
    have := (both h3).2; rwa [Bool.not_eq_true', List.isEmpty_eq_false_iff] at this⟩

/-- The loaded machine with an event's operands at the cursor, wave 0 changed by `f` and the rest by `h`. -/
def event0 (a : EvArg) (f : Wave → Wave) (h : State → State) : State :=
  let s := loadWord State.reset 0
  h { s with cur := .event a, waves := [(0, f (loadWave 0))] }

def aLoad (data : Option (List Byte)) : PendOp :=
  ⟨3, some 0, 0, 1, 0, false, .load true 2 [.v 4] false [⟨0, 0, 2, .glob 0x20000, data⟩], [], [.v 4], [], 0⟩
def wLoading (data : Option (List Byte)) : Wave := { loadWave 0 with ops := [aLoad data], ctr := [1, 0, 0, 0, 0, 0] }
def loading (a : EvArg) (data : Option (List Byte)) : State := event0 a (fun _ => wLoading data) id

theorem witness_ServedPiecesReadMemory : ∃ (s : State) (w : Wave) (o : PendOp) (id k : Nat) (sg : Bool) (n : Nat) (dst : List RegName)
    (l1 : Bool) (pieces : List Piece) (p : Piece), s.cur = .event (.service w.id id k false) ∧
    s.liveWave w.id = some w ∧ w.op id = some o ∧ o.id = id ∧ w.mayServe o = true ∧ o.kind = .load sg n dst l1 pieces ∧
    pieces[k]? = some p ∧ p.data = none ∧ (∀ q ∈ pieces, p.with q = true → s.spoiled q.loc q.n = false) ∧ l1 = false ∧
    (∀ pa, p.loc = .glob pa → localMem pa = true) :=
  ⟨loading (.service 0 3 0 false) none, wLoading none, aLoad none, 3, 0, _, _, _, _, _, _, rfl, rfl, rfl, rfl, rfl, rfl, rfl, rfl,
    fun q hq _ => by cases List.mem_singleton.mp hq; rfl, rfl, fun pa h => by cases h; rfl⟩

def anAtomic (todo : List AtomStep) (writes : List RegWrite) : PendOp :=
  ⟨3, some 2, 0, 1, 0, true, .atomic .cas 8 (.v 4) todo, writes, [.v 4], [], 0⟩
def wAtomic (todo : List AtomStep) (writes : List RegWrite) : Wave :=
  { loadWave 0 with ops := [anAtomic todo writes], ctr := [0, 0, 1, 0, 0, 0] }
def anAtom : AtomStep := ⟨0, .glob 0x20000, 0, 5⟩
/-- A piece in a sector. -/
theorem witness_ServedPiecesReadMemory_sector : ∃ (s t : State) (w : Wave) (o : PendOp) (id k : Nat) (sg : Bool) (n : Nat) (dst : List RegName)
    (l1 : Bool) (pieces : List Piece) (p : Piece) (b : Nat), s.cur = .event (.service w.id id k false) ∧ t = { s with fresh := s.fresh + 1 } ∧
    s.liveWave w.id = some w ∧ w.op id = some o ∧ o.id = id ∧ w.mayServe o = true ∧ o.kind = .load sg n dst l1 pieces ∧
    pieces[k]? = some p ∧ p.data = none ∧ (∀ q ∈ pieces, p.with q = true → s.spoiled q.loc q.n = false) ∧ p.sector = some b ∧
    t.refusedAt (.glob (32 * b)) = false :=
  ⟨loading (.service 0 3 0 false) none, _, wLoading none, aLoad none, 3, 0, _, _, _, _, _, _, 0x1000, rfl, rfl, rfl, rfl, rfl, rfl, rfl, rfl, rfl,
    fun q hq _ => by cases List.mem_singleton.mp hq; rfl, rfl, rfl⟩
/-- One in a module whose ports have failed. -/
def farLoad : PendOp := ⟨3, some 0, 0, 1, 0, false, .load true 2 [.v 4] true [⟨0, 0, 2, .glob 0x4040000000000, none⟩], [], [.v 4], [], 0⟩
theorem witness_ServedPiecesReadMemory_refused : ∃ (s t : State) (w : Wave) (o : PendOp) (id k : Nat) (sg : Bool) (n : Nat) (dst : List RegName)
    (l1 : Bool) (pieces : List Piece) (p : Piece) (b : Nat), s.cur = .event (.service w.id id k false) ∧ t = { s with fresh := s.fresh + 1 } ∧
    s.liveWave w.id = some w ∧ w.op id = some o ∧ o.id = id ∧ w.mayServe o = true ∧ o.kind = .load sg n dst l1 pieces ∧
    pieces[k]? = some p ∧ p.data = none ∧ (∀ q ∈ pieces, p.with q = true → s.spoiled q.loc q.n = false) ∧ p.sector = some b ∧
    t.refusedAt (.glob (32 * b)) = true :=
  ⟨event0 (.service 0 3 0 false) (fun _ => { wLoading none with ops := [farLoad] }) fun s => { s with hw := { s.hw with failed := List.range 36 } },
    _, { wLoading none with ops := [farLoad] }, farLoad, 3, 0, _, _, _, _, _, _, 0x4040000000000 / 32, rfl, rfl, rfl, rfl, rfl, rfl, rfl, rfl, rfl,
    fun q hq _ => by cases List.mem_singleton.mp hq; rfl, rfl, rfl⟩

theorem witness_ServedAtomics : ∃ (s : State) (w : Wave) (o : PendOp) (id k n : Nat) (f : AtomFn) (dst : RegName) (a : AtomStep)
    (rest : List AtomStep) (pa v : Nat), s.cur = .event (.service w.id id k false) ∧
    s.liveWave w.id = some w ∧ w.op id = some o ∧ o.id = id ∧ w.mayServe o = true ∧ o.kind = .atomic f n dst (a :: rest) ∧ a.loc = .glob pa ∧
    s.spoiled a.loc n = false ∧ localMem pa = true ∧ (n = 4 ∨ n = 8) ∧ w.spills = [] ∧ (o.rel = 2 → ∀ p ∈ s.msys.ports, p.die ≠ w.die) ∧
    s.portHolds w.die a.loc n = false ∧
    atomicResult f n (ofBytes (s.bytes a.loc n)) a.x.toNat a.y.toNat = some v :=
  ⟨event0 (.service 0 3 0 false) (fun _ => wAtomic [anAtom] []) id, wAtomic [anAtom] [], anAtomic [anAtom] [], 3, 0, 8, _, _, anAtom, [], _, _,
    rfl, rfl, rfl, rfl, rfl, rfl, rfl, rfl, rfl, .inr rfl, rfl, nofun, rfl, rfl⟩

/-- One that releases, while its die's port holds a write. -/
theorem witness_ServedAtomics_port : ∃ (s : State) (w : Wave) (o : PendOp) (id k n : Nat) (f : AtomFn) (dst : RegName) (a : AtomStep)
    (rest : List AtomStep) (pa : Nat), s.cur = .event (.service w.id id k false) ∧
    s.liveWave w.id = some w ∧ w.op id = some o ∧ o.id = id ∧ w.mayServe o = true ∧ o.kind = .atomic f n dst (a :: rest) ∧ a.loc = .glob pa ∧
    s.spoiled a.loc n = false ∧ localMem pa = true ∧ (n = 4 ∨ n = 8) ∧ w.spills = [] ∧ o.rel = 2 ∧ ∃ p ∈ s.msys.ports, p.die = w.die :=
  ⟨event0 (.service 0 3 0 false) (fun _ => { loadWave 0 with ops := [{ anAtomic [anAtom] [] with rel := 2 }], ctr := [0, 0, 1, 0, 0, 0] })
      fun s => s.setMsys { s.msys with ports := [aHeld] }, { loadWave 0 with ops := [{ anAtomic [anAtom] [] with rel := 2 }], ctr := [0, 0, 1, 0, 0, 0] },
    { anAtomic [anAtom] [] with rel := 2 }, 3, 0, 8, _, _, anAtom, [], _, rfl, rfl, rfl, rfl, rfl, rfl, rfl, rfl, rfl, .inr rfl, rfl, rfl, aHeld, List.mem_singleton.mpr rfl, rfl⟩

/-- Two stores of one word, of two lanes in one sector. -/
theorem witness_StoresLeaveInOrder : ∃ (s : State) (w : Wave) (e : StoreEnt) (rest g left : List StoreEnt), s.cur = .event (.wave w.id) ∧
    s.liveWave w.id = some w ∧ w.queue = e :: rest ∧ (∀ o ∈ w.ops, o.id < e.op → o.performed = true) ∧
    (g, left) = (if e.sector = none then ([e], rest) else w.queue.partition fun x => x.op = e.op && x.sector = e.sector) ∧
    e.spill = false ∧ w.spills = [] ∧ (∀ x ∈ g, ∀ pa, x.loc = .glob pa → localMem pa = true) ∧ g.length = 2 :=
  ⟨event0 (.wave 0) (fun w => { w with queue := [aStore, { aStore with lane := 1 }] }) id,
    { loadWave 0 with queue := [aStore, { aStore with lane := 1 }] }, aStore, [{ aStore with lane := 1 }], [aStore, { aStore with lane := 1 }], [],
    rfl, rfl, rfl, nofun, by decide, rfl, rfl, fun x hx pa h => by
      simp only [List.mem_cons, List.not_mem_nil, or_false] at hx
      rcases hx with rfl | rfl <;> cases h <;> rfl, rfl⟩

/-- A spill of a return stack. -/
theorem witness_StoresLeaveInOrder_spill : ∃ (s : State) (w : Wave) (e : StoreEnt) (rest g left : List StoreEnt), s.cur = .event (.wave w.id) ∧
    s.liveWave w.id = some w ∧ w.queue = e :: rest ∧ (∀ o ∈ w.ops, o.id < e.op → o.performed = true) ∧
    (g, left) = (if e.sector = none then ([e], rest) else w.queue.partition fun x => x.op = e.op && x.sector = e.sector) ∧ e.spill = true :=
  ⟨event0 (.wave 0) (fun w => { w with queue := [{ aStore with spill := true }] }) id, { loadWave 0 with queue := [{ aStore with spill := true }] },
    { aStore with spill := true }, [], _, _, rfl, rfl, rfl, nofun, rfl, rfl⟩

theorem witness_StoresWait : ∃ (s : State) (w : Wave) (k : Nat) (e : StoreEnt), s.cur = .event (.op w.id k) ∧ s.liveWave w.id = some w ∧
    w.queue[k]? = some e ∧ ∃ x ∈ w.queue.take k, x.op ≠ e.op :=
  ⟨event0 (.op 0 1) (fun w => { w with queue := [aStore, { aStore with op := 9 }] }) id,
    { loadWave 0 with queue := [aStore, { aStore with op := 9 }] }, 1, { aStore with op := 9 }, rfl, rfl, rfl, aStore, .head _, by decide⟩

/-- The hypotheses of a load that completes. -/
def completes (s : State) (w : Wave) (o : PendOp) (id n : Nat) (sg : Bool) (dst : List RegName) (l1 : Bool) (pieces : List Piece) : Prop :=
  s.cur = .event (.op w.id id) ∧ s.liveWave w.id = some w ∧ w.op id = some o ∧ o.id = id ∧ o.kind = .load sg n dst l1 pieces ∧
  ((∃ m, m < 128 ∧ dst = [.v m]) ∨ (∃ m, m < 127 ∧ dst = [.v m, .v (m + 1)]) ∨ ∃ m, dst = [.s m] ∧ ∀ p ∈ pieces, p.lane = 0) ∧
  (∀ p ∈ pieces, p.data.isSome = true ∧ p.lane < 64) ∧ w.live ≠ 0

theorem witness_LoadsComplete : ∃ s w o id n sg dst l1 pieces, completes s w o id n sg dst l1 pieces ∧ ∃ m, dst = [.v m] :=
  ⟨loading (.op 0 3) (some [1, 0x80]), wLoading (some [1, 0x80]), aLoad (some [1, 0x80]), 3, 2, _, _, _, _,
    ⟨rfl, rfl, rfl, rfl, rfl, .inl ⟨4, by decide, rfl⟩, fun p hp => by cases List.mem_singleton.mp hp; exact ⟨rfl, by decide⟩, by decide⟩, 4, rfl⟩
/-- A pair, of which a later word has written the first register; a uniform destination. -/
def loadsTo (dst : List RegName) (n : Nat) : Wave := { wLoading none with
  ops := [⟨3, some 0, 0, 1, 0, false, .load false n dst false [⟨0, 0, n, .glob 0x20000, some (List.replicate n 1)⟩], [], dst, [(.v 4, 1)], 0⟩] }
theorem witness_LoadsComplete_pair : ∃ s w o id n sg dst l1 pieces, completes s w o id n sg dst l1 pieces ∧ (∃ m, dst = [.v m, .v (m + 1)]) ∧
    o.raced ≠ [] :=
  ⟨event0 (.op 0 3) (fun _ => loadsTo [.v 4, .v 5] 16) id, loadsTo [.v 4, .v 5] 16, _, 3, 16, _, _, _, _,
    ⟨rfl, rfl, rfl, rfl, rfl, .inr (.inl ⟨4, by decide, rfl⟩), fun p hp => by cases List.mem_singleton.mp hp; exact ⟨rfl, by decide⟩, by decide⟩,
    ⟨4, rfl⟩, nofun⟩
theorem witness_LoadsComplete_uniform : ∃ s w o id n sg dst l1 pieces, completes s w o id n sg dst l1 pieces ∧ ∃ m, dst = [.s m] :=
  ⟨event0 (.op 0 3) (fun _ => loadsTo [.s 6] 8) id, loadsTo [.s 6] 8, _, 3, 8, _, _, _, _,
    ⟨rfl, rfl, rfl, rfl, rfl, .inr (.inr ⟨6, rfl, fun p hp => by cases List.mem_singleton.mp hp; rfl⟩),
      fun p hp => by cases List.mem_singleton.mp hp; exact ⟨rfl, by decide⟩, by decide⟩, 6, rfl⟩

theorem witness_CompletedWords : ∃ (s : State) (w : Wave) (o : PendOp) (id : Nat), s.cur = .event (.op w.id id) ∧ s.liveWave w.id = some w ∧
    w.op id = some o ∧ o.id = id ∧ (o.kind = .done ∨ ∃ f n d, o.kind = .atomic f n d []) ∧ o.raced = [] ∧ w.live ≠ 0 ∧
    (∀ x ∈ o.writes, x.lane < 64 ∧ ∃ m, m < 128 ∧ x.reg = .v m) ∧ (o.writes.map fun x => (x.reg, x.lane)).Nodup ∧ o.writes ≠ [] :=
  ⟨event0 (.op 0 3) (fun _ => wAtomic [] [⟨.v 4, 0, 9⟩]) id, wAtomic [] [⟨.v 4, 0, 9⟩], anAtomic [] [⟨.v 4, 0, 9⟩], 3, rfl, rfl, rfl, rfl,
    .inr ⟨_, _, _, rfl⟩, rfl, by decide, fun x hx => by cases List.mem_singleton.mp hx; exact ⟨by decide, 4, by decide, rfl⟩, by decide, nofun⟩

theorem witness_PortsDeliver : ∃ (s : State) (d : Nat) (p : PortWrite), s.cur = .event (.delivery d 0) ∧
    (s.msys.ports.filter fun q => q.die = d).head? = some p ∧ s.refusedAt (.glob p.pa) = false :=
  ⟨event0 (.delivery 0 0) id fun s => s.setMsys { s.msys with ports := [aHeld] }, 0, aHeld, rfl, rfl, rfl⟩

/-- A store for module 1 with every Cinch port failed. -/
theorem witness_PortsDeliver_refused : ∃ (s : State) (d : Nat) (p : PortWrite), s.cur = .event (.delivery d 0) ∧
    (s.msys.ports.filter fun q => q.die = d).head? = some p ∧ s.refusedAt (.glob p.pa) = true :=
  ⟨event0 (.delivery 0 0) id fun s => { s with msys := { s.msys with ports := [⟨0, 0x4040000000000, [1], false, 0⟩] }, hw := { s.hw with failed := List.range 36 } }, 0,
    ⟨0, 0x4040000000000, [1], false, 0⟩, rfl, rfl, rfl⟩

/-- A write behind one to the same byte. -/
theorem witness_PortsDeliver_order : ∃ (s : State) (d k : Nat) (p : PortWrite), s.cur = .event (.delivery d k) ∧
    (s.msys.ports.filter fun q => q.die = d)[k]? = some p ∧
    ∃ q ∈ (s.msys.ports.filter fun q => q.die = d).take k, q.rel = true ∨ overlaps q.pa q.bytes.length p.pa p.bytes.length = true :=
  ⟨event0 (.delivery 0 1) id fun s => s.setMsys { s.msys with ports := [aHeld, aHeld] }, 0, 1, aHeld, rfl, rfl, aHeld, .head _, .inr rfl⟩

/-! ### Hypotheses of the statements on control words -/

/-- Said of each lane of the active mask, said of every lane. -/
theorem lanes_all {m : Lanes} {P : Nat → Prop} [DecidablePred P] (h : ((laneList m).all fun l => decide (P l)) = true) :
    ∀ l, inLanes m l = true → P l := by
  intro l hl
  have h64 : l < 64 := BitVec.lt_of_getLsbD hl
  simp only [List.all_eq_true, decide_eq_true_eq] at h
  exact h l (by simp [laneList, h64, hl])

theorem lane_in {m : Lanes} (h : (laneList m).isEmpty = false) : m ≠ 0 := by
  rintro rfl
  exact absurd h (by decide)

theorem witness_DirectBranches_taken : ∃ i off taken g s c, branchForm i = some (off, taken) ∧ AtWord i g s c ∧ Clear i g c ∧ taken c :=
  have ⟨g, c, h1, h2, h3⟩ := ready_met (i := .braNz ⟨0, 5, 4⟩) (s := two (.braNz ⟨0, 5, 4⟩)) (P := fun c => decide (c.s 5 ≠ 0)) (by decide)
  ⟨.braNz ⟨0, 5, 4⟩, _, _, g, _, c, rfl, h1, h2, of_decide_eq_true h3⟩

theorem witness_DirectBranches_not : ∃ i off taken g s c, branchForm i = some (off, taken) ∧ AtWord i g s c ∧ Clear i g c ∧ ¬ taken c :=
  have ⟨g, c, h1, h2, h3⟩ := ready_met (i := .braZ ⟨0, 5, 4⟩) (s := two (.braZ ⟨0, 5, 4⟩)) (P := fun c => decide (c.s 5 ≠ 0)) (by decide)
  ⟨.braZ ⟨0, 5, 4⟩, _, _, g, _, c, rfl, h1, h2, of_decide_eq_true h3⟩

theorem witness_Calls : ∃ i f g s c, callForm i = some f ∧ AtWord i g s c ∧ Clear i g c ∧
    (∀ o, f = .inr o → ∀ l, inLanes c.act l = true → (laneTarget c o l).toNat % 4 = 0) ∧ stackRoom c ∧ spillLanes s c = [] ∧
    (∀ l, inLanes c.act l = true → 1 ≤ c.w.cached l ∨ stackOf c.w l = []) :=
  have ⟨g, c, h1, h2, h3⟩ := ready_met (i := .callx ⟨0, 0, 5, 0, none⟩) (s := two (.callx ⟨0, 0, 5, 0, none⟩))
    (P := fun c => ((laneList c.act).all fun l => decide ((laneTarget c ⟨0, 0, 5, 0, none⟩ l).toNat % 4 = 0)) &&
      (((laneList c.act).all fun l => decide ((stackOf c.w l).length < c.w.rets)) &&
      (decide (spillLanes (two (.callx ⟨0, 0, 5, 0, none⟩)) c = []) && (laneList c.act).all fun l => decide (1 ≤ c.w.cached l ∨ stackOf c.w l = [])))) (by decide)
  have h4 := both (both h3).2
  ⟨.callx ⟨0, 0, 5, 0, none⟩, _, g, _, c, rfl, h1, h2, fun o h => by cases h; exact lanes_all (both h3).1, lanes_all h4.1,
    of_decide_eq_true (both h4.2).1, lanes_all (both h4.2).2⟩

/-- Two lanes with 8 return points each, all cached, and a spill area at 0x30000; c2 at `k`. -/
def deep (k : Nat) (w : Wave) : Wave :=
  { twoLanes w with stack := [(0, List.replicate 8 0x10040#64), (1, List.replicate 8 0x10080#64)], ctr := [0, 0, k, 0, 0, 0] }
def deepState (i : Instr) (k : Nat) : State := standing i (deep k) fun s => { s with blocks := [(0, { loadBlock with spill := 0x30000 })] }
theorem witness_Calls_spill : ∃ g s c xl, AtWord (.call ⟨0, 4⟩) g s c ∧ Clear (.call ⟨0, 4⟩) g c ∧ stackRoom c ∧ c.w.twin = none ∧
    spillLanes s c ≠ [] ∧ c.w.ctr.getD 2 0 < 63 ∧ allPass s c 8 .store false (fun _ => false) (spillLanes s c) xl :=
  have ⟨g, c, h1, h2, h3⟩ := ready_met (i := .call ⟨0, 4⟩) (s := deepState (.call ⟨0, 4⟩) 0) (P := fun c =>
    ((laneList c.act).all fun l => decide ((stackOf c.w l).length < c.w.rets)) && (decide (c.w.twin = none ∧
      spillLanes (deepState (.call ⟨0, 4⟩) 0) c ≠ [] ∧ c.w.ctr.getD 2 0 < 63) &&
      passB (deepState (.call ⟨0, 4⟩) 0) c 8 .store false (fun _ => false) (spillLanes (deepState (.call ⟨0, 4⟩) 0) c))) (by decide)
  have h4 := of_decide_eq_true (both (both h3).2).1
  ⟨g, _, c, _, h1, h2, lanes_all (both h3).1, h4.1, h4.2.1, h4.2.2, pass_met (both (both h3).2).2⟩

/-- FCALL's, with no entry to refill. -/
theorem witness_Calls_spill_fcall : ∃ g s c xl, AtWord (.fcall ⟨0, 4⟩) g s c ∧ Clear (.fcall ⟨0, 4⟩) g c ∧ refillLanes s c 1 = [] ∧ stackRoom c ∧
    c.w.twin = none ∧ spillLanes s c ≠ [] ∧ c.w.ctr.getD 2 0 < 63 ∧ allPass s c 8 .store false (fun _ => false) (spillLanes s c) xl :=
  have ⟨g, c, h1, h2, h3⟩ := ready_met (i := .fcall ⟨0, 4⟩) (s := deepState (.fcall ⟨0, 4⟩) 0) (P := fun c =>
    ((laneList c.act).all fun l => decide ((stackOf c.w l).length < c.w.rets)) && (decide (refillLanes (deepState (.fcall ⟨0, 4⟩) 0) c 1 = [] ∧
      c.w.twin = none ∧ spillLanes (deepState (.fcall ⟨0, 4⟩) 0) c ≠ [] ∧ c.w.ctr.getD 2 0 < 63) &&
      passB (deepState (.fcall ⟨0, 4⟩) 0) c 8 .store false (fun _ => false) (spillLanes (deepState (.fcall ⟨0, 4⟩) 0) c))) (by decide)
  have h4 := of_decide_eq_true (both (both h3).2).1
  ⟨g, _, c, _, h1, h2, h4.1, lanes_all (both h3).1, h4.2.1, h4.2.2.1, h4.2.2.2, pass_met (both (both h3).2).2⟩

theorem witness_Calls_spill_waits : ∃ g s c, AtWord (.call ⟨0, 4⟩) g s c ∧ Clear (.call ⟨0, 4⟩) g c ∧ stackRoom c ∧ c.w.twin = none ∧
    spillLanes s c ≠ [] ∧ 63 ≤ c.w.ctr.getD 2 0 :=
  have ⟨g, c, h1, h2, h3⟩ := ready_met (i := .call ⟨0, 4⟩) (s := deepState (.call ⟨0, 4⟩) 63) (P := fun c =>
    ((laneList c.act).all fun l => decide ((stackOf c.w l).length < c.w.rets)) && decide (c.w.twin = none ∧
      spillLanes (deepState (.call ⟨0, 4⟩) 63) c ≠ [] ∧ 63 ≤ c.w.ctr.getD 2 0)) (by decide)
  ⟨g, _, c, h1, h2, lanes_all (both h3).1, of_decide_eq_true (both h3).2⟩

theorem witness_Calls_full : ∃ g s c m, AtWord (.call ⟨0, 4⟩) g s c ∧ Clear (.call ⟨0, 4⟩) g c ∧
    (∀ l, inLanes m l = (inLanes c.act l && decide (c.w.rets ≤ (stackOf c.w l).length))) ∧ m ≠ 0 :=
  have ⟨g, c, h1, h2, h3⟩ := ready_met (i := .call ⟨0, 4⟩) (s := standing (.call ⟨0, 4⟩) (fun w => { w with rets := 0 }) id)
    (P := fun c => decide (c.w.rets = 0) && !(laneList c.act).isEmpty) (by decide)
  ⟨g, _, c, c.act, h1, h2, fun l => by rw [of_decide_eq_true (both h3).1]; simp, lane_in (noT (both h3).2)⟩

theorem witness_Brx : ∃ o g s c, AtWord (.brx o) g s c ∧ Clear (.brx o) g c ∧ c.p.handler = false ∧
    (∀ l, inLanes c.act l = true → (laneTarget c o l).toNat % 4 = 0) :=
  have ⟨g, c, h1, h2, h3⟩ := ready_met (i := .brx ⟨0, 0, 5, 0, none⟩) (s := two (.brx ⟨0, 0, 5, 0, none⟩)) (P := fun c => !c.p.handler &&
    (laneList c.act).all fun l => decide ((laneTarget c ⟨0, 0, 5, 0, none⟩ l).toNat % 4 = 0)) (by decide)
  ⟨⟨0, 0, 5, 0, none⟩, g, _, c, h1, h2, noT (both h3).1, lanes_all (both h3).2⟩

def oRet : OpsN := ⟨0, 0⟩
/-- The lanes' return stacks. -/
def stacked (w : Wave) : Wave := { twoLanes w with stack := [(0, [0x10040#64]), (1, [0x10080#64, 0x10040#64])] }
theorem witness_Ret : ∃ g s c, AtWord (.ret oRet) g s c ∧ Clear (.ret oRet) g c ∧ c.w.records = [] ∧ refillLanes s c 2 = [] ∧
    (∀ l, inLanes c.act l = true → ∃ a rest, stackOf c.w l = a :: rest ∧ a.toNat % 4 = 0) :=
  have ⟨g, c, h1, h2, h3⟩ := ready_met (i := .ret oRet) (s := standing (.ret oRet) stacked id) (P := fun c => decide (c.w.records = [] ∧
      refillLanes (standing (.ret oRet) stacked id) c 2 = []) && (laneList c.act).all fun l => decide (stackOf c.w l = (stackOf c.w l).headD 0 :: (stackOf c.w l).tail ∧
      ((stackOf c.w l).headD 0).toNat % 4 = 0)) (by decide)
  have h4 := of_decide_eq_true (both h3).1
  ⟨g, _, c, h1, h2, h4.1, h4.2, fun l hl => ⟨_, _, lanes_all (both h3).2 l hl⟩⟩

/-- Lane 0's 9 entries, of which the lowest 8 are spilled. -/
def spilledRet : State := standing (.ret oRet) (fun w => { stacked w with
  stack := [(0, List.replicate 9 0x10040#64), (1, [0x10080#64])], spilled := [(0, 8)] }) fun s => { s with
    blocks := [(0, { loadBlock with spill := 0x30000 })] }
theorem witness_Ret_refill : ∃ g s c xl, AtWord (.ret oRet) g s c ∧ Clear (.ret oRet) g c ∧ c.w.twin = none ∧ refillLanes s c 2 ≠ [] ∧
    (∀ l, inLanes c.act l = true → stackOf c.w l ≠ []) ∧ allPass s c 8 .load false (fun _ => false) (refillLanes s c 2) xl :=
  have ⟨g, c, h1, h2, h3⟩ := ready_met (i := .ret oRet) (s := spilledRet) (P := fun c => decide (c.w.twin = none ∧ refillLanes spilledRet c 2 ≠ []) &&
    (((laneList c.act).all fun l => decide (stackOf c.w l ≠ [])) && passB spilledRet c 8 .load false (fun _ => false) (refillLanes spilledRet c 2))) (by decide)
  have h4 := of_decide_eq_true (both h3).1
  ⟨g, _, c, _, h1, h2, h4.1, h4.2, lanes_all (both (both h3).2).1, pass_met (both (both h3).2).2⟩

theorem witness_Ret_empty : ∃ g s c m, AtWord (.ret oRet) g s c ∧ Clear (.ret oRet) g c ∧
    (∀ l, inLanes m l = (inLanes c.act l && decide (stackOf c.w l = []))) ∧ m ≠ 0 :=
  have ⟨g, c, h1, h2, h3⟩ := ready_met (i := .ret oRet) (s := before (.ret oRet)) (P := fun c => decide (c.w.stack = []) &&
    !(laneList c.act).isEmpty) (by decide)
  ⟨g, _, c, c.act, h1, h2, fun l => by rw [stackOf, of_decide_eq_true (both h3).1]; simp, lane_in (noT (both h3).2)⟩

theorem witness_Brx_misaligned : ∃ o g s c m l, AtWord (.brx o) g s c ∧ Clear (.brx o) g c ∧
    (∀ k, inLanes m k = (inLanes c.act k && decide ((laneTarget c o k).toNat % 4 ≠ 0))) ∧ inLanes m l = true ∧
    (∀ k, k < l → inLanes m k = false) :=
  have ⟨g, c, h1, h2, h3⟩ := ready_met (i := .brx ⟨0, 0, 5, 1, none⟩) (s := standing (.brx ⟨0, 0, 5, 1, none⟩)
    (fun w => { twoLanes w with s := [(5, 0x10042#64)] }) id) (P := fun c => decide ((c.s 5).toNat % 4 ≠ 0) && inLanes c.act 0) (by decide)
  ⟨⟨0, 0, 5, 1, none⟩, g, _, c, c.act, 0, h1, h2, fun k => by
    rw [show laneTarget c ⟨0, 0, 5, 1, none⟩ k = c.s 5 from rfl, decide_eq_true (of_decide_eq_true (both h3).1)]; simp,
    (both h3).2, nofun⟩

/-- RET to a return point that is not a multiple of 4; CALLX's target. -/
theorem witness_Ret_misaligned : ∃ g s c m l, AtWord (.ret oRet) g s c ∧ Clear (.ret oRet) g c ∧ (∀ k, inLanes c.act k = true → stackOf c.w k ≠ []) ∧
    refillLanes s c 2 = [] ∧ (∀ k, inLanes m k = (inLanes c.act k && decide (((stackOf c.w k).headD 0).toNat % 4 ≠ 0))) ∧ inLanes m l = true ∧
    (∀ k, k < l → inLanes m k = false) :=
  have ⟨g, c, h1, h2, h3⟩ := ready_met (i := .ret oRet) (s := standing (.ret oRet)
      (fun w => { twoLanes w with stack := [(0, [0x10042#64]), (1, [0x10080#64])] }) id)
    (P := fun c => decide (c.w.stack = [(0, [0x10042#64]), (1, [0x10080#64])] ∧ c.act = 3 ∧ refillLanes (standing (.ret oRet)
      (fun w => { twoLanes w with stack := [(0, [0x10042#64]), (1, [0x10080#64])] }) id) c 2 = [])) (by decide)
  have h4 := of_decide_eq_true h3
  ⟨g, _, c, 1, 0, h1, h2, fun k hk => by
      rw [h4.2.1] at hk
      have : k < 64 := BitVec.lt_of_getLsbD hk
      rw [stackOf, h4.1]
      interval_cases k <;> first | decide | (exfalso; revert hk; decide), h4.2.2, fun k => by
      rw [stackOf, h4.1, h4.2.1]
      by_cases h : k < 64
      · interval_cases k <;> decide
      · have h1 : inLanes 1 k = false := BitVec.getLsbD_of_ge _ _ (by omega)
        have h2 : inLanes 3 k = false := BitVec.getLsbD_of_ge _ _ (by omega)
        rw [h1, h2]; rfl, rfl, nofun⟩

theorem witness_Callx_misaligned : ∃ o g s c m l, AtWord (.callx o) g s c ∧ Clear (.callx o) g c ∧
    (∀ k, inLanes m k = (inLanes c.act k && decide ((laneTarget c o k).toNat % 4 ≠ 0))) ∧ inLanes m l = true ∧
    (∀ k, k < l → inLanes m k = false) :=
  have ⟨g, c, h1, h2, h3⟩ := ready_met (i := .callx ⟨0, 0, 5, 1, none⟩) (s := standing (.callx ⟨0, 0, 5, 1, none⟩)
    (fun w => { twoLanes w with s := [(5, 0x10042#64)] }) id) (P := fun c => decide ((c.s 5).toNat % 4 ≠ 0) && inLanes c.act 0) (by decide)
  ⟨⟨0, 0, 5, 1, none⟩, g, _, c, c.act, 0, h1, h2, fun k => by
    rw [show laneTarget c ⟨0, 0, 5, 1, none⟩ k = c.s 5 from rfl, decide_eq_true (of_decide_eq_true (both h3).1)]; simp,
    (both h3).2, nofun⟩

/-- A wave in handler mode after a TRAP at the word at 0x10004. -/
def aTrap : Trap := ⟨0x100060#64, 0x10004#64, 3, 0x12#64, 0x20000, 0x20000, 0x1000, 0x60, .run, false⟩
def handling (w : Wave) : Wave :=
  { w with
    trap := some aTrap, s := [(3, 0x10004#64)]
    paths := w.paths.map fun p => { p with lanes := 3, handler := true } }
theorem witness_BrxLeavesHandlerMode : ∃ o g s c t, AtWord (.brx o) g s c ∧ Clear (.brx o) g c ∧ c.w.trap = some t ∧
    c.p.handler = true ∧ (∀ q ∈ c.w.paths, q.handler = true → q.id = c.p.id) ∧ c.act ≠ 0 ∧
    (∀ l, inLanes c.act l = true → (laneTarget c o l).toNat % 4 = 0 ∧
      ((laneTarget c o l).toNat < t.base ∨ t.base + t.size ≤ (laneTarget c o l).toNat)) :=
  have ⟨g, c, h1, h2, h3⟩ := ready_met (i := .brx ⟨0, 0, 3, 1, none⟩) (s := standing (.brx ⟨0, 0, 3, 1, none⟩) handling id)
    (P := fun c => decide (c.w.trap = some aTrap) && (c.p.handler && (decide (∀ q ∈ c.w.paths, q.handler = true → q.id = c.p.id) &&
      (!(laneList c.act).isEmpty && (laneList c.act).all fun l => decide ((laneTarget c ⟨0, 0, 3, 1, none⟩ l).toNat % 4 = 0 ∧
      ((laneTarget c ⟨0, 0, 3, 1, none⟩ l).toNat < aTrap.base ∨ aTrap.base + aTrap.size ≤ (laneTarget c ⟨0, 0, 3, 1, none⟩ l).toNat)))))) (by decide)
  have h4 := both h3
  have h5 := both h4.2
  have h6 := both h5.2
  have h7 := both h6.2
  ⟨⟨0, 0, 3, 1, none⟩, g, _, c, aTrap, h1, h2, of_decide_eq_true h4.1, h5.1, of_decide_eq_true h6.1, lane_in (noT h7.1), lanes_all h7.2⟩

/-- A partition with a cactus region for forks' frames on die 0. -/
def cactus (s : State) : State := s.modPart 0 fun p => { p with ctx := [(5, 0x100000#64), (9, 0x10000#64)] }
theorem witness_ForksStart : ∃ (g : Sig) (s : State) (c : WCtx) (f : Nat → Nat → Word) (slot frame : Nat) (s1 : State),
    AtWord (.fcallP ⟨0, 5, 4⟩) g s c ∧ Clear (.fcallP ⟨0, 5, 4⟩) g c ∧ stackRoom c ∧ spillLanes s c = [] ∧ refillLanes s c 1 = [] ∧
    (∀ k l, f k l = if k = 0 then c.s 5 else c.w.reg (.v k) l) ∧ c.w.twin = none ∧ c.act = c.w.live ∧ c.w.ctr.all (· = 0) = true ∧
    c.w.forks.length < 2 ∧ (((c.advance s).onSub c.w.core c.w.sub).filter fun w => w.twin.isSome).length < 4 ∧
    (c.advance s).freeSlot c.w.core c.w.sub c.w.vregs c.w.width = some slot ∧
    (c.advance s).alloc c.w.part c.w.die (c.w.rets * 8 * c.w.width) 256 (.fork c.w.id) = (.at frame, s1) :=
  have ⟨g, c, h1, h2, h3⟩ := ready_met (i := .fcallP ⟨0, 5, 4⟩) (s := standing (.fcallP ⟨0, 5, 4⟩) id cactus) (P := fun c =>
    (((laneList c.act).all fun l => decide ((stackOf c.w l).length < c.w.rets)) && decide (spillLanes (standing (.fcallP ⟨0, 5, 4⟩) id cactus) c = [] ∧
      refillLanes (standing (.fcallP ⟨0, 5, 4⟩) id cactus) c 1 = [])) && (decide (c.w.twin = none ∧ c.act = c.w.live ∧
      c.w.ctr.all (· = 0) = true ∧ c.w.forks.length < 2 ∧
      (((c.advance (standing (.fcallP ⟨0, 5, 4⟩) id cactus)).onSub c.w.core c.w.sub).filter fun w => w.twin.isSome).length < 4 ∧
      (c.advance (standing (.fcallP ⟨0, 5, 4⟩) id cactus)).freeSlot c.w.core c.w.sub c.w.vregs c.w.width = some 1) &&
      decide (((c.advance (standing (.fcallP ⟨0, 5, 4⟩) id cactus)).alloc c.w.part c.w.die (c.w.rets * 8 * c.w.width) 256 (.fork c.w.id)).1 =
        .at 0x100000))) (by decide)
  have h4 := of_decide_eq_true (both (both h3).2).1
  ⟨g, _, c, _, 1, 0x100000, _, h1, h2, lanes_all (both (both h3).1).1, (of_decide_eq_true (both (both h3).1).2).1,
    (of_decide_eq_true (both (both h3).1).2).2, fun _ _ => rfl, h4.1, h4.2.1, h4.2.2.1, h4.2.2.2.1, h4.2.2.2.2.1, h4.2.2.2.2.2,
    Prod.ext (of_decide_eq_true (both (both h3).2).2) rfl⟩

/-- A wave with one open fork, whose twin is wave 1. -/
def aFork (twin : Option Nat) : ForkRec := ⟨0x10004, 0x10008, 3, [], [], twin, false, 0, [], 0, [], 0⟩
theorem witness_ForkKill_youngest : ∃ o g s c pre f post t, AtWord (.forkKill o) g s c ∧ Clear (.forkKill o) g c ∧ o.b = 0 ∧
    c.w.forks = pre ++ f :: post ∧ f.twin = some t ∧ (∀ e ∈ pre, e.twin ≠ some t) ∧ (∀ e ∈ post, e.twin = none) :=
  have ⟨g, c, h1, h2, h3⟩ := ready_met (i := .forkKill ⟨0, 0, 0, 0, none⟩) (s := standing (.forkKill ⟨0, 0, 0, 0, none⟩)
    (fun w => { w with forks := [aFork (some 1), aFork none] }) id) (P := fun c => decide (c.w.forks = [aFork (some 1), aFork none])) (by decide)
  ⟨⟨0, 0, 0, 0, none⟩, g, _, c, [], aFork (some 1), [aFork none], 1, h1, h2, rfl, of_decide_eq_true h3, rfl, nofun,
    fun e he => by cases List.mem_singleton.mp he; rfl⟩

theorem witness_ForkStat : ∃ g s c, AtWord (.forkStat ⟨0, 4, 0, 3, none⟩) g s c ∧ Clear (.forkStat ⟨0, 4, 0, 3, none⟩) g c := word_met _ (by decide)
theorem witness_ForkKill_all : ∃ g s c, AtWord (.forkKill ⟨0, 0, 0, 1, none⟩) g s c ∧ Clear (.forkKill ⟨0, 0, 0, 1, none⟩) g c := word_met _ (by decide)
theorem witness_ForkClr : ∃ g s c, AtWord (.forkClr ⟨0, 0, 5, 1, none⟩) g s c ∧ Clear (.forkClr ⟨0, 0, 5, 1, none⟩) g c := word_met _ (by decide)

/-- A fork whose two lanes are back, and its twin; `v1` is what the lanes returned with in v1. -/
def backFork : ForkRec := { aFork (some 1) with back := 3 }
def forking (v1 : Word) : Wave := { loadWave 0 with forks := [backFork], v := sset [] 1 v1 }
def plainTwin : Twin := ⟨0, [], [], [], none, [], [], []⟩
def twinWave : Wave := { loadWave 0 with id := 1, slot := 1, twin := some plainTwin }
def forkState (v1 : Word) : State := event0 (.wave 0) (fun _ => forking v1) fun s => { s with waves := s.waves ++ [(1, twinWave)] }
theorem witness_ForksCommit : ∃ (s : State) (w : Wave) (r : ForkRec) (t : Nat) (x : Wave) (tw : Twin), s.cur = .event (.wave w.id) ∧
    s.liveWave w.id = some w ∧ w.resolvable = some r ∧ r.twin = some t ∧ t ≠ w.id ∧ aget s.waves t = some x ∧ x.id = t ∧ x.twin = some tw ∧
    r.clash = 0 ∧ (∀ e ∈ r.wrote, e.1.exists_ = true) ∧
    (∀ l k, inLanes r.back l = true → k < 4 → w.reg (.v k) l = sget tw.start (l * 4 + k)) ∧ regClash r.wrote tw.rd = false ∧ tw.held = none :=
  ⟨forkState 0, forking 0, backFork, 1, twinWave, plainTwin, rfl, rfl, rfl, rfl, by decide, rfl, rfl, rfl, rfl, nofun, fun _ _ _ _ => rfl, rfl, rfl⟩

theorem witness_ForksSquashed : ∃ (s : State) (w : Wave) (r : ForkRec) (t : Nat) (x : Wave) (tw : Twin), s.cur = .event (.wave w.id) ∧
    s.liveWave w.id = some w ∧ w.resolvable = some r ∧ r.twin = some t ∧ t ≠ w.id ∧ aget s.waves t = some x ∧ x.id = t ∧ x.twin = some tw ∧
    r.clash = 0 ∧ (∀ e ∈ r.wrote, e.1.exists_ = true) ∧
    (∃ l k, inLanes r.back l = true ∧ k < 4 ∧ w.reg (.v k) l ≠ sget tw.start (l * 4 + k)) :=
  ⟨forkState 9, forking 9, backFork, 1, twinWave, plainTwin, rfl, rfl, rfl, rfl, by decide, rfl, rfl, rfl, rfl, nofun, 0, 1, rfl, by decide, by decide⟩

theorem witness_Split : ∃ o g s c, AtWord (.split o) g s c ∧ Clear (.split o) g c ∧
    (∃ l, inLanes c.act l = true ∧ c.pred l o.p.toNat = true) ∧ (∃ l, inLanes c.act l = true ∧ c.pred l o.p.toNat = false) :=
  have ⟨g, c, h1, h2, h3⟩ := ready_met (i := .split ⟨0, 1, 2, 5⟩) (s := standing (.split ⟨0, 1, 2, 5⟩) (fun w => { twoLanes w with p := [(1, 1)] }) id)
    (P := fun c => (inLanes c.act 0 && c.pred 0 1) && (inLanes c.act 1 && !c.pred 1 1)) (by decide)
  ⟨⟨0, 1, 2, 5⟩, g, _, c, h1, h2, ⟨0, both (both h3).1⟩, ⟨1, (both (both h3).2).1, noT (both (both h3).2).2⟩⟩

def oJoin : OpsG := ⟨0, 2, 0, 0, none⟩
theorem witness_Join_waits : ∃ g s c, AtWord (.join oJoin) g s c ∧ Clear (.join oJoin) g c ∧
    (∀ q ∈ c.w.paths, q.id ≠ c.p.id → q.st = .run) ∧
    (∃ l, inLanes (sget c.w.j oJoin.d.toNat ||| sget c.w.jp oJoin.d.toNat) l = true ∧ inLanes c.w.exited l = false ∧ inLanes c.p.lanes l = false) :=
  have ⟨g, c, h1, h2, h3⟩ := ready_met (i := .join oJoin) (s := standing (.join oJoin) (fun w => { twoLanes w with
      j := [(2, 4)], jp := [(2, 3)], paths := (twoLanes w).paths ++ [⟨1, 4, 0x20000, 0, none, .run, false, false, 0⟩] }) id)
    (P := fun c => decide (∀ q ∈ c.w.paths, q.id ≠ c.p.id → q.st = .run) && decide (inLanes (sget c.w.j oJoin.d.toNat ||| sget c.w.jp oJoin.d.toNat) 2 = true ∧
      inLanes c.w.exited 2 = false ∧ inLanes c.p.lanes 2 = false)) (by decide)
  ⟨g, _, c, h1, h2, of_decide_eq_true (both h3).1, 2, of_decide_eq_true (both h3).2⟩

theorem witness_Join_goes : ∃ g s c, AtWord (.join oJoin) g s c ∧ Clear (.join oJoin) g c ∧
    (∀ q ∈ c.w.paths, q.id ≠ c.p.id → (∃ m, q.st = .join oJoin.d.toNat m) ∧ q.hdr = c.after ∧ q.handler = c.p.handler) ∧
    (∀ l, inLanes (sget c.w.j oJoin.d.toNat ||| sget c.w.jp oJoin.d.toNat) l = true → inLanes c.w.exited l = true ∨
      inLanes c.p.lanes l = true ∨ ∃ q ∈ c.w.paths, q.id ≠ c.p.id ∧ inLanes q.lanes l = true) :=
  have ⟨g, c, h1, h2, h3⟩ := ready_met (i := .join oJoin) (s := standing (.join oJoin) (fun w => { twoLanes w with
      j := [(2, 4)], jp := [(2, 3)], paths := (twoLanes w).paths ++ [⟨1, 4, 0x10008, 0, none, .join 2 7, false, false, 0⟩] }) id)
    (P := fun c => decide (∀ q ∈ c.w.paths, q.id ≠ c.p.id → q.st = .join oJoin.d.toNat 7 ∧ q.hdr = c.after ∧ q.handler = c.p.handler) &&
      (laneList (sget c.w.j oJoin.d.toNat ||| sget c.w.jp oJoin.d.toNat)).all fun l => decide (inLanes c.w.exited l = true ∨
      inLanes c.p.lanes l = true ∨ ∃ q ∈ c.w.paths, q.id ≠ c.p.id ∧ inLanes q.lanes l = true)) (by decide)
  ⟨g, _, c, h1, h2, fun q hq hi => have h := of_decide_eq_true (both h3).1 q hq hi; ⟨⟨7, h.1⟩, h.2⟩, lanes_all (both h3).2⟩

theorem witness_Meet : ∃ o g s c, AtWord (.meetV o) g s c ∧ Clear (.meetV o) g c ∧ allRun c.w :=
  have ⟨g, c, h1, h2, h3⟩ := ready_met (i := .meetV ⟨0, 0, 9, 0, none⟩) (s := two (.meetV ⟨0, 0, 9, 0, none⟩))
    (P := fun c => decide (∀ q ∈ c.w.paths, q.st = .run)) (by decide)
  ⟨⟨0, 0, 9, 0, none⟩, g, _, c, h1, h2, (of_decide_eq_true h3 : ∀ q ∈ c.w.paths, q.st = .run)⟩

/-- BAR.SYNC of the only wave of its block: the last to arrive. -/
theorem witness_BarSync_last : ∃ (o : OpsN) (g : Sig) (s : State) (c : WCtx) (b : Block), AtWord (.barSync o) g s c ∧ Clear (.barSync o) g c ∧
    c.p.handler = false ∧ aget s.blocks c.w.block = some b ∧ c.w.drained = true ∧ c.w.owesOld = false ∧ (b.bar o.imm.toNat).cur.contains c.w.idx = false ∧
    b.id = c.w.block ∧ (∀ i, i < b.nwaves → i = c.w.idx ∨ (b.bar o.imm.toNat).cur.contains i = true ∨ ∀ x ∈ s.wavesOf b.id, x.idx = i → x.live = 0) :=
  have ⟨g, c, h1, h2, h3⟩ := ready_met (i := .barSync ⟨0, 3⟩) (s := before (.barSync ⟨0, 3⟩)) (P := fun c =>
    decide (c.p.handler = false ∧ aget (before (.barSync ⟨0, 3⟩)).blocks c.w.block = some loadBlock ∧ c.w.drained = true ∧ c.w.owesOld = false ∧ c.w.idx = 0 ∧ c.w.block = 0)) (by decide)
  have h := of_decide_eq_true h3
  ⟨⟨0, 3⟩, g, _, c, loadBlock, h1, h2, h.1, h.2.1, h.2.2.1, h.2.2.2.1, rfl, h.2.2.2.2.2.symm, fun i hi => .inl (by
    rw [h.2.2.2.2.1]; exact Nat.lt_one_iff.mp hi)⟩

/-- Of two waves, the first to arrive. -/
theorem witness_BarSync_first : ∃ (o : OpsN) (g : Sig) (s : State) (c : WCtx) (b : Block), AtWord (.barSync o) g s c ∧ Clear (.barSync o) g c ∧
    c.p.handler = false ∧ aget s.blocks c.w.block = some b ∧ c.w.drained = true ∧ c.w.owesOld = false ∧ b.id = c.w.block ∧
    (∃ i, i < b.nwaves ∧ i ≠ c.w.idx ∧ (b.bar o.imm.toNat).cur.contains i = false ∧ ∃ x ∈ s.wavesOf b.id, x.idx = i ∧ x.live ≠ 0) :=
  let s := standing (.barSync ⟨0, 3⟩) id fun s => { s with
    blocks := [(0, { loadBlock with nwaves := 2 })]
    waves := s.waves ++ [(1, { loadWave 0 with id := 1, slot := 1, launch := sset (loadWave 0).launch 138 1 })] }
  have ⟨g, c, h1, h2, h3⟩ := ready_met (i := .barSync ⟨0, 3⟩) (s := s) (P := fun c =>
    decide (c.p.handler = false ∧ aget s.blocks c.w.block = some { loadBlock with nwaves := 2 } ∧ c.w.drained = true ∧ c.w.owesOld = false ∧ c.w.idx = 0 ∧ c.w.block = 0 ∧
      ∃ x ∈ s.wavesOf 0, x.idx = 1 ∧ x.live ≠ 0)) (by decide)
  have h := of_decide_eq_true h3
  ⟨⟨0, 3⟩, g, _, c, { loadBlock with nwaves := 2 }, h1, h2, h.1, h.2.1, h.2.2.1, h.2.2.2.1, h.2.2.2.2.2.1.symm, 1, by decide, by rw [h.2.2.2.2.1]; decide, rfl,
    h.2.2.2.2.2.2⟩

theorem witness_BarSync_waits : ∃ (g : Sig) (s : State) (c : WCtx), AtWord (.barSync ⟨0, 3⟩) g s c ∧ Clear (.barSync ⟨0, 3⟩) g c ∧
    c.p.handler = false ∧ aget s.blocks c.w.block = some loadBlock ∧ c.w.drained = false :=
  have ⟨g, c, h1, h2, h3⟩ := ready_met (i := .barSync ⟨0, 3⟩) (s := standing (.barSync ⟨0, 3⟩) (fun w => { w with queue := [aStore] }) id) (P := fun c =>
    decide (c.p.handler = false ∧ aget (before (.barSync ⟨0, 3⟩)).blocks c.w.block = some loadBlock ∧ c.w.drained = false)) (by decide)
  ⟨g, _, c, h1, h2, of_decide_eq_true h3⟩

/-- An atomic whose old value has not come back. -/
theorem witness_BarSync_old : ∃ (g : Sig) (s : State) (c : WCtx), AtWord (.barSync ⟨0, 3⟩) g s c ∧ Clear (.barSync ⟨0, 3⟩) g c ∧
    c.p.handler = false ∧ aget s.blocks c.w.block = some loadBlock ∧ c.w.owesOld = true :=
  have ⟨g, c, h1, h2, h3⟩ := ready_met (i := .barSync ⟨0, 3⟩) (s := standing (.barSync ⟨0, 3⟩) (fun w => { w with ops := [anAtomic [] []] }) id) (P := fun c =>
    decide (c.p.handler = false ∧ aget (before (.barSync ⟨0, 3⟩)).blocks c.w.block = some loadBlock ∧ c.w.owesOld = true)) (by decide)
  ⟨g, _, c, h1, h2, of_decide_eq_true h3⟩

theorem witness_Nop : ∃ g s c, AtWord (.nop ⟨0, 0⟩) g s c ∧ Clear (.nop ⟨0, 0⟩) g c := word_met _ (by decide)
theorem witness_Yield : ∃ g s c, AtWord (.yield ⟨0, 0⟩) g s c ∧ Clear (.yield ⟨0, 0⟩) g c ∧ (!c.p.handler && !c.w.strict) = true :=
  word_metP _ (before (.yield ⟨0, 0⟩)) _ (by decide)
/-- Two waves of a strict block, the lower of which yields. -/
theorem witness_Yield_strict : ∃ (g : Sig) (s : State) (c : WCtx) (k : Nat) (b : Block), AtWord (.yield ⟨0, 0⟩) g s c ∧ Clear (.yield ⟨0, 0⟩) g c ∧
    c.p.handler = false ∧ c.w.strict = true ∧ (c.advance s).lowestAble c.w.block (c.w.idx + 1) = some k ∧ aget s.blocks c.w.block = some b :=
  let s := standing (.yield ⟨0, 0⟩) (fun w => { w with launch := sset w.launch 153 1 }) fun s => { s with
    blocks := [(0, { loadBlock with nwaves := 2 })]
    waves := s.waves ++ [(1, { loadWave 0 with id := 1, slot := 1, launch := sset (sset (loadWave 0).launch 138 1) 153 1 })] }
  have ⟨g, c, h1, h2, h3⟩ := ready_met (i := .yield ⟨0, 0⟩) (s := s) (P := fun c => decide (c.p.handler = false ∧ c.w.strict = true ∧
    (c.advance s).lowestAble c.w.block (c.w.idx + 1) = some 1 ∧ aget s.blocks c.w.block = some { loadBlock with nwaves := 2 })) (by decide)
  ⟨g, _, c, 1, _, h1, h2, of_decide_eq_true h3⟩

theorem witness_Rng : ∃ g s c, AtWord (.rng ⟨0, 4, 5, 0, none⟩) g s c ∧ Clear (.rng ⟨0, 4, 5, 0, none⟩) g c := word_met _ (by decide)

theorem witness_Exit_some : ∃ g s c, AtWord (.exit ⟨0, 0⟩) g s c ∧ Clear (.exit ⟨0, 0⟩) g c ∧ decide (c.w.live &&& ~~~c.act ≠ 0) = true :=
  word_metP _ (two (.exit ⟨0, 0⟩)) _ (by decide)
theorem witness_Exit_last : ∃ g s c, AtWord (.exit ⟨0, 0⟩) g s c ∧ Clear (.exit ⟨0, 0⟩) g c ∧
    decide (c.w.live &&& ~~~c.act = 0 ∧ c.w.ctr.all (· = 0) = true ∧ c.w.queue = [] ∧ c.w.ops = []) = true :=
  word_metP _ (before (.exit ⟨0, 0⟩)) _ (by decide)

def iTrap : Instr := .trap ⟨0, 0x12⟩
theorem witness_Traps : ∃ (g : Sig) (s : State) (c : WCtx), AtWord iTrap g s c ∧ Clear iTrap g c ∧ c.w.forks = [] ∧ c.w.trap = none ∧
    (s.part c.w.part).hentry ≠ 0 :=
  let s := standing iTrap id fun s => s.modPart 0 fun p => { p with ctx := [(0, 0x20000#64), (1, 0x20000#64), (2, 0x1000#64)] }
  have ⟨g, c, h1, h2, h3⟩ := ready_met (i := iTrap) (s := s) (P := fun c => decide (c.w.forks = [] ∧ c.w.trap = none ∧ (s.part c.w.part).hentry ≠ 0)) (by decide)
  ⟨g, _, c, h1, h2, of_decide_eq_true h3⟩
theorem witness_Traps_none : ∃ (g : Sig) (s : State) (c : WCtx), AtWord iTrap g s c ∧ Clear iTrap g c ∧ c.w.forks = [] ∧ c.w.trap = none ∧
    (s.part c.w.part).hentry = 0 :=
  have ⟨g, c, h1, h2, h3⟩ := ready_met (i := iTrap) (s := before iTrap) (P := fun c =>
    decide (c.w.forks = [] ∧ c.w.trap = none ∧ ((before iTrap).part c.w.part).hentry = 0)) (by decide)
  ⟨g, _, c, h1, h2, of_decide_eq_true h3⟩
theorem witness_Traps_again : ∃ (g : Sig) (s : State) (c : WCtx) (t : Trap), AtWord iTrap g s c ∧ Clear iTrap g c ∧ c.w.forks = [] ∧
    c.w.trap = some t ∧ c.p.handler = true :=
  have ⟨g, c, h1, h2, h3⟩ := ready_met (i := iTrap) (s := standing iTrap handling id) (P := fun c =>
    decide (c.w.forks = [] ∧ c.w.trap = some aTrap ∧ c.p.handler = true)) (by decide)
  ⟨g, _, c, aTrap, h1, h2, of_decide_eq_true h3⟩

theorem witness_Hints : ∃ g s c, AtWord (.icPin ⟨0, 0, 5, 2, none⟩) g s c ∧ Clear (.icPin ⟨0, 0, 5, 2, none⟩) g c := word_met _ (by decide)

/-! ### Hypotheses of the statements on objects in memory -/

/-- The answer is a result of which `P` holds. -/
def okB {ε α : Type} (e : Except ε α) (P : α → Bool) : Bool := match e with
  | .ok x => P x
  | .error _ => false

theorem ok_and {ε α : Type} {e : Except ε α} {P : α → Bool} (h : okB e P = true) : ∃ x, e = .ok x ∧ P x = true := by
  cases e with
  | ok x => exact ⟨x, rfl, h⟩
  | error _ => cases h

/-- Dwords of memory. -/
def withDwords (l : List (Nat × Word)) (s : State) : State := l.foldl (fun (s : State) e => s.setDword e.1 e.2) s

/-- A wave whose ring table is at 0x20000, with s5 and s6. -/
def objWave (s5 s6 : Word) (w : Wave) : Wave :=
  { twoLanes w with launch := w.launch ++ [(155, 0x20000#64)], s := [(5, s5), (6, s6)] }

/-- A ring of four slots of 512 bytes at 0x21000: its table, count and the state byte of slot 3. -/
def ringMem (chan : Bool) (count : Nat) (byte3 : Nat) (s : State) : State :=
  (withDwords [(0x20000, 1), (0x20010, 0x21000#64), (0x20018, BitVec.ofNat 64 (0x90003 + if chan then 0x2000000 else 0)),
    (0x21000, BitVec.ofNat 64 count), (0x21008, BitVec.ofNat 64 count)] s).setBytes (.glob 0x21043) [BitVec.ofNat 8 byte3]

def oRing : OpsG := ⟨0, 4, 5, 0, none⟩
def ringState (i : Instr) (s5 : Word) (chan : Bool) (count byte3 : Nat) : State := standing i (objWave s5 0) (ringMem chan count byte3)

/-- The thread has nothing pending there (`nonePending`). -/
def noneB (s : State) (c : WCtx) (a : Word) (n : Nat) : Bool := !c.ownPending (c.advance s) a n
/-- A release of the wave may act (`releases`). -/
def relB (s : State) (c : WCtx) : Bool := c.w.drained && decide (∀ p ∈ s.msys.ports, p.die ≠ c.w.die)

theorem rel_met {s : State} {c : WCtx} (h : relB s c = true) : releases s c := ⟨(both h).1, of_decide_eq_true (both h).2⟩

/-- The ring that the word names passes its checks, its memory stands at `x`, and `Q` holds of it. -/
def ringB (s : State) (c : WCtx) (o : OpsG) (chan : Bool) (Q : Ring → State → Xlat → Bool) : Bool :=
  okB ((c.advance s).ring c.w.part c.w.die (BitVec.ofNat 64 c.w.rings) (ringIdx o) chan) fun rs =>
    !c.w.strict && (!rs.2.locked c.w.core false rs.1.base 512 && (noneB s c (BitVec.ofNat 64 c.w.rings) 8 &&
      (noneB s c rs.1.ent 16 && (noneB s c (BitVec.ofNat 64 rs.1.base) 512 && okB (rs.2.ringMem c.w.part rs.1) fun x =>
        !rs.2.poisoned (.glob x.pa) 512 && Q rs.1 rs.2 x))))

theorem ring_met {s : State} {c : WCtx} {o : OpsG} {chan : Bool} {Q : Ring → State → Xlat → Bool} (h : ringB s c o chan Q = true) :
    ∃ r s1 x, ringAt s c o chan r s1 x ∧ Q r s1 x = true :=
  have ⟨⟨r, s1⟩, h1, h2⟩ := ok_and h
  have h3 := both (both h2).2
  have h4 := both h3.2
  have h5 := both h4.2
  have h6 := both h5.2
  have ⟨x, h7, h8⟩ := ok_and h6.2
  ⟨r, s1, x, ⟨h1, fun hs => absurd hs (by simp [noT (both h2).1]), noT h3.1, noT h4.1, noT h5.1, noT h6.1, h7, noT (both h8).1⟩, (both h8).2⟩

/-- The last slot of the second round, empty in its phase: claimed at once. -/
theorem witness_RingClaim : ∃ (g : Sig) (s : State) (c : WCtx) (r : Ring) (s1 : State) (x : Xlat) (n : Nat) (m : State),
    AtWord (.ringClaim oRing) g s c ∧ Clear (.ringClaim oRing) g c ∧ ringAt s c oRing false r s1 x ∧
    n = (s1.dword x.pa).toNat ∧ (s1.slotByte x.pa (n % r.slots)).toNat < 4 ∧ m = (s1.touch c.w.part x true).setDword x.pa (s1.dword x.pa + 1) ∧
    m.slotIs x.pa (n % r.slots) false (n / r.slots % 2 = 1) = true ∧ m.waiterBefore (x.pa + 64 + n % r.slots) m.nextId = false :=
  have ⟨g, c, h1, h2, h3⟩ := ready_met (i := .ringClaim oRing) (s := ringState (.ringClaim oRing) 0 false 7 2)
    (P := fun c => ringB (ringState (.ringClaim oRing) 0 false 7 2) c oRing false fun r s1 x =>
      decide ((s1.slotByte x.pa ((s1.dword x.pa).toNat % r.slots)).toNat < 4) &&
      (((s1.touch c.w.part x true).setDword x.pa (s1.dword x.pa + 1)).slotIs x.pa ((s1.dword x.pa).toNat % r.slots) false
        ((s1.dword x.pa).toNat / r.slots % 2 = 1) && !((s1.touch c.w.part x true).setDword x.pa (s1.dword x.pa + 1)).waiterBefore
          (x.pa + 64 + (s1.dword x.pa).toNat % r.slots) ((s1.touch c.w.part x true).setDword x.pa (s1.dword x.pa + 1)).nextId)) (by decide +kernel)
  have ⟨r, s1, x, h4, h7⟩ := ring_met h3
  ⟨g, _, c, r, s1, x, _, _, h1, h2, h4, rfl, of_decide_eq_true (both h7).1, rfl, (both (both h7).2).1, noT (both (both h7).2).2⟩

/-- The same slot, still full: the claim waits. -/
theorem witness_RingClaim_waits : ∃ (g : Sig) (s : State) (c : WCtx) (r : Ring) (s1 : State) (x : Xlat) (n : Nat) (m : State),
    AtWord (.ringClaim oRing) g s c ∧ Clear (.ringClaim oRing) g c ∧ ringAt s c oRing false r s1 x ∧
    n = (s1.dword x.pa).toNat ∧ (s1.slotByte x.pa (n % r.slots)).toNat < 4 ∧ m = (s1.touch c.w.part x true).setDword x.pa (s1.dword x.pa + 1) ∧
    m.slotIs x.pa (n % r.slots) false (n / r.slots % 2 = 1) = false ∧ c.p.handler = false :=
  have ⟨g, c, h1, h2, h3⟩ := ready_met (i := .ringClaim oRing) (s := ringState (.ringClaim oRing) 0 false 7 1)
    (P := fun c => ringB (ringState (.ringClaim oRing) 0 false 7 1) c oRing false fun r s1 x =>
      decide ((s1.slotByte x.pa ((s1.dword x.pa).toNat % r.slots)).toNat < 4) &&
      (!((s1.touch c.w.part x true).setDword x.pa (s1.dword x.pa + 1)).slotIs x.pa ((s1.dword x.pa).toNat % r.slots) false
        ((s1.dword x.pa).toNat / r.slots % 2 = 1) && !c.p.handler)) (by decide +kernel)
  have ⟨r, s1, x, h4, h7⟩ := ring_met h3
  ⟨g, _, c, r, s1, x, _, _, h1, h2, h4, rfl, of_decide_eq_true (both h7).1, rfl, noT (both (both h7).2).1, noT (both (both h7).2).2⟩

theorem witness_RingAwait : ∃ (g : Sig) (s : State) (c : WCtx) (r : Ring) (s1 : State) (x : Xlat) (n : Nat) (m : State),
    AtWord (.ringAwait oRing) g s c ∧ Clear (.ringAwait oRing) g c ∧ ringAt s c oRing false r s1 x ∧
    n = (c.s oRing.a).toNat ∧ (s1.slotByte x.pa (n % r.slots)).toNat < 4 ∧ m = s1.touch c.w.part x true ∧
    m.slotIs x.pa (n % r.slots) true (n / r.slots % 2 = 1) = true ∧ m.waiterBefore (x.pa + 64 + n % r.slots) m.nextId = false :=
  have ⟨g, c, h1, h2, h3⟩ := ready_met (i := .ringAwait oRing) (s := ringState (.ringAwait oRing) 7 false 9 3)
    (P := fun c => ringB (ringState (.ringAwait oRing) 7 false 9 3) c oRing false fun r s1 x =>
      decide ((s1.slotByte x.pa ((c.s oRing.a).toNat % r.slots)).toNat < 4) &&
      ((s1.touch c.w.part x true).slotIs x.pa ((c.s oRing.a).toNat % r.slots) true ((c.s oRing.a).toNat / r.slots % 2 = 1) &&
        !(s1.touch c.w.part x true).waiterBefore (x.pa + 64 + (c.s oRing.a).toNat % r.slots) (s1.touch c.w.part x true).nextId)) (by decide +kernel)
  have ⟨r, s1, x, h4, h7⟩ := ring_met h3
  ⟨g, _, c, r, s1, x, _, _, h1, h2, h4, rfl, of_decide_eq_true (both h7).1, rfl, (both (both h7).2).1, noT (both (both h7).2).2⟩

theorem witness_RingAwait_waits : ∃ (g : Sig) (s : State) (c : WCtx) (r : Ring) (s1 : State) (x : Xlat) (n : Nat) (m : State),
    AtWord (.ringAwait oRing) g s c ∧ Clear (.ringAwait oRing) g c ∧ ringAt s c oRing false r s1 x ∧
    n = (c.s oRing.a).toNat ∧ (s1.slotByte x.pa (n % r.slots)).toNat < 4 ∧ m = s1.touch c.w.part x true ∧
    m.slotIs x.pa (n % r.slots) true (n / r.slots % 2 = 1) = false ∧ c.p.handler = false :=
  have ⟨g, c, h1, h2, h3⟩ := ready_met (i := .ringAwait oRing) (s := ringState (.ringAwait oRing) 7 false 9 2)
    (P := fun c => ringB (ringState (.ringAwait oRing) 7 false 9 2) c oRing false fun r s1 x =>
      decide ((s1.slotByte x.pa ((c.s oRing.a).toNat % r.slots)).toNat < 4) &&
      (!(s1.touch c.w.part x true).slotIs x.pa ((c.s oRing.a).toNat % r.slots) true ((c.s oRing.a).toNat / r.slots % 2 = 1) && !c.p.handler)) (by decide +kernel)
  have ⟨r, s1, x, h4, h7⟩ := ring_met h3
  ⟨g, _, c, r, s1, x, _, _, h1, h2, h4, rfl, of_decide_eq_true (both h7).1, rfl, noT (both (both h7).2).1, noT (both (both h7).2).2⟩

def SlotMet (i : Instr) (full : Bool) : Prop := ∃ (g : Sig) (s : State) (c : WCtx) (r : Ring) (s1 : State) (x : Xlat) (k : Nat) (b : Byte), AtWord i g s c ∧ Clear i g c ∧ c.w.drained = true ∧
    (r.dev = true → ∀ p ∈ s.msys.ports, p.die ≠ c.w.die) ∧ ringAt s c oRing false r s1 x ∧ k < r.slots ∧ (c.s oRing.a).toNat = r.base + 512 + k * 2 ^ r.lsize ∧
    b = s1.slotByte x.pa k ∧ b.toNat < 4 ∧ b.getLsbD 0 = full

/-- Slot 3 of the ring at 0x21000, in a state that suits the word or not. -/
theorem slot_met (i : Instr) (byte3 : Nat) (full : Bool) (h : readyFor i (ringState i 0x21800#64 false 0 byte3) (fun c => relB (ringState i 0x21800#64 false 0 byte3) c &&
    ringB (ringState i 0x21800#64 false 0 byte3) c oRing false fun r s1 x => decide (3 < r.slots ∧
      (c.s oRing.a).toNat = r.base + 512 + 3 * 2 ^ r.lsize ∧ (s1.slotByte x.pa 3).toNat < 4 ∧ (s1.slotByte x.pa 3).getLsbD 0 = full)) = true) :
    SlotMet i full :=
  have ⟨g, c, h1, h2, h3⟩ := ready_met h
  have ⟨r, s1, x, h4, h7⟩ := ring_met (both h3).2
  have h8 := of_decide_eq_true h7
  ⟨g, _, c, r, s1, x, 3, _, h1, h2, (rel_met (both h3).1).1, fun _ => (rel_met (both h3).1).2, h4, h8.1, h8.2.1, rfl, h8.2.2⟩

theorem witness_RingPost : SlotMet (.ringPost oRing) false := slot_met (.ringPost oRing) 2 false (by decide +kernel)
theorem witness_RingPost_refused : SlotMet (.ringPost oRing) true := slot_met (.ringPost oRing) 3 true (by decide +kernel)
theorem witness_RingRel : SlotMet (.ringRel oRing) true := slot_met (.ringRel oRing) 3 true (by decide +kernel)
theorem witness_RingRel_refused : SlotMet (.ringRel oRing) false := slot_met (.ringRel oRing) 0 false (by decide +kernel)
theorem witness_RingPost_waits : ∃ g s c, AtWord (.ringPost oRing) g s c ∧ Clear (.ringPost oRing) g c ∧ (!c.w.drained) = true :=
  word_metP _ (standing (.ringPost oRing) (fun w => { objWave 0 0 w with queue := [aStore] }) id) _ (by decide +kernel)

/-- A post on a .dev ring while its die's port holds a write. -/
def devState : State := standing (.ringPost oRing) (objWave 0x21800#64 0) fun s =>
  ((ringMem false 0 2 s).setDword 0x20018 0x1090003).setMsys { s.msys with ports := [aHeld] }
theorem witness_RingPost_port : ∃ (g : Sig) (s : State) (c : WCtx) (r : Ring) (s1 : State) (x : Xlat) (k : Nat) (b : Byte),
    AtWord (.ringPost oRing) g s c ∧ Clear (.ringPost oRing) g c ∧ c.w.drained = true ∧ ringAt s c oRing false r s1 x ∧ k < r.slots ∧
    (c.s oRing.a).toNat = r.base + 512 + k * 2 ^ r.lsize ∧ b = s1.slotByte x.pa k ∧ b.toNat < 4 ∧ b.getLsbD 0 = false ∧ r.dev = true ∧
    ∃ p ∈ s.msys.ports, p.die = c.w.die :=
  have ⟨g, c, h1, h2, h3⟩ := ready_met (i := .ringPost oRing) (s := devState) (P := fun c => decide (c.w.drained = true ∧ c.w.die = 0) &&
    ringB devState c oRing false fun r s1 x => decide (3 < r.slots ∧ (c.s oRing.a).toNat = r.base + 512 + 3 * 2 ^ r.lsize ∧
      (s1.slotByte x.pa 3).toNat < 4 ∧ (s1.slotByte x.pa 3).getLsbD 0 = false ∧ r.dev = true)) (by decide +kernel)
  have ⟨r, s1, x, h4, h7⟩ := ring_met (both h3).2
  have h5 := of_decide_eq_true (both h3).1
  have h8 := of_decide_eq_true h7
  ⟨g, _, c, r, s1, x, 3, _, h1, h2, h5.1, h4, h8.1, h8.2.1, rfl, h8.2.2.1, h8.2.2.2.1, h8.2.2.2.2, aHeld, List.mem_singleton.mpr rfl, h5.2.symm⟩

/-- The channel's state once a word has taken its slot. -/
def slotTaken (s1 : State) (c : WCtx) (x y : Xlat) (which : Nat) : State :=
  (((s1.touch c.w.part x true).setDword (x.pa + which) (s1.dword (x.pa + which) + 1)).touch c.w.part y true).publish c.w.id c.act

def ChanMet (i : Instr) (which : Nat) (full here : Bool) : Prop := ∃ (g : Sig) (s : State) (c : WCtx) (r : Ring) (s1 : State) (x : Xlat)
    (k : Nat) (ph : Bool) (y : Xlat) (m : State), AtWord i g s c ∧ Clear i g c ∧
    releases s c ∧ c.p.handler = false ∧ ringAt s c oRing true r s1 x ∧ NextSlot s1 c r x which k ph y m ∧ m.slotIs x.pa k full ph = here ∧
    m.waiterBefore (x.pa + 64 + k) m.nextId = false ∧ ∀ l, inLanes c.act l = true → m.poisoned (.glob (y.pa + 8 * l)) 8 = false

/-- The channel's next count, and what the word finds in the slot. -/
theorem chan_met (i : Instr) (which byte3 : Nat) (full here : Bool) (h : readyFor i (ringState i 0 true 7 byte3) (fun c => relB (ringState i 0 true 7 byte3) c && (!c.p.handler &&
    ringB (ringState i 0 true 7 byte3) c oRing true fun r s1 x =>
      okB (s1.objXlat c.w.part (BitVec.ofNat 64 (r.base + 512 + (s1.dword (x.pa + which)).toNat % r.slots * 2 ^ r.lsize)) .atomic) fun y =>
        decide ((s1.slotByte x.pa ((s1.dword (x.pa + which)).toNat % r.slots)).toNat < 4 ∧ 8 * c.w.width ≤ 2 ^ r.lsize ∧
          s1.locked c.w.core false (r.base + 512 + (s1.dword (x.pa + which)).toNat % r.slots * 2 ^ r.lsize) (2 ^ r.lsize) = false) &&
        (decide ((slotTaken s1 c x y which).slotIs x.pa ((s1.dword (x.pa + which)).toNat % r.slots) full
          (decide ((s1.dword (x.pa + which)).toNat / r.slots % 2 = 1)) = here) &&
        (!(slotTaken s1 c x y which).waiterBefore (x.pa + 64 + (s1.dword (x.pa + which)).toNat % r.slots) (slotTaken s1 c x y which).nextId &&
          (laneList c.act).all fun l => decide ((slotTaken s1 c x y which).poisoned (.glob (y.pa + 8 * l)) 8 = false))))) = true) :
    ChanMet i which full here :=
  have ⟨g, c, h1, h2, h3⟩ := ready_met h
  have ⟨r, s1, x, h4, h5⟩ := ring_met (both (both h3).2).2
  have ⟨y, h6, h7⟩ := ok_and h5
  have h8 := of_decide_eq_true (both h7).1
  have h9 := both (both h7).2
  have h10 := both h9.2
  ⟨g, _, c, r, s1, x, _, _, y, _, h1, h2, rel_met (both h3).1, noT (both (both h3).2).1, h4, ⟨rfl, rfl, h8.1, h8.2.1, h6, h8.2.2, rfl⟩,
    of_decide_eq_true h9.1, noT h10.1, lanes_all h10.2⟩

/-- A word on a channel whose wave has not drained, or whose die's port holds a write. -/
theorem witness_Send_undrained : ∃ g s c, AtWord (.send oRing) g s c ∧ Clear (.send oRing) g c ∧ (!c.w.drained) = true :=
  word_metP _ (standing (.send oRing) (fun w => { objWave 0 0 w with queue := [aStore] }) id) _ (by decide +kernel)
def portChan : State := standing (.send oRing) (objWave 0 0) fun s => (ringMem true 7 2 s).setMsys { s.msys with ports := [aHeld] }
theorem witness_Send_port : ∃ (g : Sig) (s : State) (c : WCtx) (r : Ring) (s1 : State) (x : Xlat) (k : Nat) (ph : Bool) (y : Xlat) (m : State),
    AtWord (.send oRing) g s c ∧ Clear (.send oRing) g c ∧ c.w.drained = true ∧ (∃ p ∈ s.msys.ports, p.die = c.w.die) ∧
    ringAt s c oRing true r s1 x ∧ NextSlot s1 c r x 0 k ph y m :=
  have ⟨g, c, h1, h2, h3⟩ := ready_met (i := .send oRing) (s := portChan) (P := fun c => decide (c.w.drained = true ∧ c.w.die = 0) &&
    ringB portChan c oRing true fun r s1 x =>
      okB (s1.objXlat c.w.part (BitVec.ofNat 64 (r.base + 512 + (s1.dword (x.pa + 0)).toNat % r.slots * 2 ^ r.lsize)) .atomic) fun _ =>
        decide ((s1.slotByte x.pa ((s1.dword (x.pa + 0)).toNat % r.slots)).toNat < 4 ∧ 8 * c.w.width ≤ 2 ^ r.lsize ∧
          s1.locked c.w.core false (r.base + 512 + (s1.dword (x.pa + 0)).toNat % r.slots * 2 ^ r.lsize) (2 ^ r.lsize) = false)) (by decide +kernel)
  have ⟨r, s1, x, h4, h5⟩ := ring_met (both h3).2
  have ⟨y, h6, h7⟩ := ok_and h5
  have h8 := of_decide_eq_true h7
  have h9 := of_decide_eq_true (both h3).1
  ⟨g, _, c, r, s1, x, _, _, y, _, h1, h2, h9.1, ⟨aHeld, List.mem_singleton.mpr rfl, h9.2.symm⟩, h4, ⟨rfl, rfl, h8.1, h8.2.1, h6, h8.2.2, rfl⟩⟩

theorem witness_Send : ChanMet (.send oRing) 0 false true := chan_met (.send oRing) 0 2 false true (by decide +kernel)
theorem witness_Send_waits : ChanMet (.send oRing) 0 false false := chan_met (.send oRing) 0 1 false false (by decide +kernel)
theorem witness_Recv : ChanMet (.recv ⟨0, 4, 0, 0, none⟩) 8 true true := chan_met (.recv ⟨0, 4, 0, 0, none⟩) 8 3 true true (by decide +kernel)
theorem witness_Recv_waits : ChanMet (.recv ⟨0, 4, 0, 0, none⟩) 8 true false := chan_met (.recv ⟨0, 4, 0, 0, none⟩) 8 2 true false (by decide +kernel)

/-- A counted barrier's access passes its checks (`barAt`), and `Q` holds of its translation. -/
def barB (s : State) (c : WCtx) (a : Word) (Q : Xlat → Bool) : Bool := okB ((c.advance s).objXlat c.w.part a .atomic) fun x =>
  decide (a.toNat % 16 = 0) && (!s.locked c.w.core false a.toNat 16 && (!s.poisoned (.glob x.pa) 16 && (noneB s c a 16 && (decide ((s.dword x.pa).toNat / 2 ^ 60 % 8 = 0 ∧
    (s.dword (x.pa + 8)).toNat / 2 ^ 25 = 0 ∧ barExp (s.dword (x.pa + 8)) ≠ 0) && (!c.w.strict && Q x)))))

theorem bar_met {s : State} {c : WCtx} {a : Word} {Q : Xlat → Bool} (h : barB s c a Q = true) : ∃ x, barAt s c a x ∧ Q x = true :=
  have ⟨x, h1, h2⟩ := ok_and h
  have h3 := both h2
  have h4 := both h3.2
  have h5 := both h4.2
  have h6 := both h5.2
  have h7 := both h6.2
  have h8 := both h7.2
  ⟨x, ⟨h1, of_decide_eq_true h3.1, noT h4.1, noT h5.1, noT h6.1, of_decide_eq_true h7.1, fun hs => absurd hs (by simp [noT h8.1])⟩, h8.2⟩

/-- A barrier at 0x30000 of expected count 2, with `r` remaining and `p` pending. -/
def barState (i : Instr) (r p : Nat) (f : Wave → Wave) : State := standing i (fun w => f (objWave 0x30000 1 w))
  (withDwords [(0x30000, BitVec.ofNat 64 (r * 2 ^ 36 + p)), (0x30008, 2)])

def BarMet (i : Instr) (P : WCtx → Prop) (Q : State → Xlat → Prop) : Prop := ∃ (g : Sig) (s : State) (c : WCtx) (x : Xlat), AtWord i g s c ∧
  Clear i g c ∧ P c ∧ barAt s c (c.s oRing.a) x ∧ Q s x

theorem barrier_met (i : Instr) (r p : Nat) (P : WCtx → Prop) (Q : State → Xlat → Prop) [DecidablePred P] [∀ s, DecidablePred (Q s)]
    (h : readyFor i (barState i r p id) (fun c => decide (P c) && barB (barState i r p id) c (c.s oRing.a)
      fun x => decide (Q (barState i r p id) x)) = true) : BarMet i P Q :=
  have ⟨g, c, h1, h2, h3⟩ := ready_met h
  have ⟨x, h4, h5⟩ := bar_met (both h3).2
  ⟨g, _, c, x, h1, h2, of_decide_eq_true (both h3).1, h4, of_decide_eq_true h5⟩

/-- The last arrival. -/
theorem witness_BarArrive : BarMet (.barArrive oRing) (fun c => c.w.drained = true) fun s x => (s.dword (x.pa + 8)).getLsbD 24 = false ∧ 1 ≤ barRem (s.dword x.pa) :=
  barrier_met _ 1 0 _ _ (by decide +kernel)
theorem witness_BarArrive_none : BarMet (.barArrive oRing) (fun c => c.w.drained = true) fun s x => (s.dword (x.pa + 8)).getLsbD 24 = false ∧ barRem (s.dword x.pa) = 0 :=
  barrier_met _ 0 1 _ _ (by decide +kernel)
/-- The greatest pending count. -/
theorem witness_BarExpect : BarMet (.barExpect ⟨0, 0, 5, 0, some 1⟩) (fun _ => True) fun s x => barPend (s.dword x.pa) + (1 : Nat) < 2 ^ 35 :=
  barrier_met _ 1 (2 ^ 35 - 2) _ _ (by decide +kernel)
theorem witness_BarExpect_over : ∃ (g : Sig) (s : State) (c : WCtx) (x : Xlat), AtWord (.barExpect ⟨0, 0, 5, 6, none⟩) g s c ∧
    Clear (.barExpect ⟨0, 0, 5, 6, none⟩) g c ∧ barAt s c (c.s 5) x ∧ 2 ^ 35 ≤ (c.s 6).toNat :=
  let s := standing (.barExpect ⟨0, 0, 5, 6, none⟩) (objWave 0x30000 0x800000000#64) (withDwords [(0x30000, 0x1000000000#64), (0x30008, 2)])
  have ⟨g, c, h1, h2, h3⟩ := ready_met (i := .barExpect ⟨0, 0, 5, 6, none⟩) (s := s) (P := fun c => decide (2 ^ 35 ≤ (c.s 6).toNat) &&
    barB s c (c.s 5) fun _ => true) (by decide +kernel)
  have ⟨x, h4, _⟩ := bar_met (both h3).2
  ⟨g, s, c, x, h1, h2, h4, of_decide_eq_true (both h3).1⟩
theorem witness_BarWait : BarMet (.barWait ⟨0, 0, 5, 6, none⟩) (fun c => c.p.handler = false ∧ (c.s 6).getLsbD 0 = true)
    fun s x => barPhase (s.dword x.pa) ≠ true := barrier_met _ 1 0 _ _ (by decide +kernel)
theorem witness_BarWait_waits : ∃ (g : Sig) (s : State) (c : WCtx) (x y : Xlat), AtWord (.barWait ⟨0, 0, 5, 6, none⟩) g s c ∧
    Clear (.barWait ⟨0, 0, 5, 6, none⟩) g c ∧ c.p.handler = false ∧ barAt s c (c.s 5) x ∧ barPhase (s.dword x.pa) = (c.s 6).getLsbD 0 ∧
    ((c.advance s).touch c.w.part x false).objXlat c.w.part (c.s 5) .atomic = .ok y :=
  let s := standing (.barWait ⟨0, 0, 5, 6, none⟩) (objWave 0x30000 0) (withDwords [(0x30000, 0x1000000000#64), (0x30008, 2)])
  have ⟨g, c, h1, h2, h3⟩ := ready_met (i := .barWait ⟨0, 0, 5, 6, none⟩) (s := s) (P := fun c => !c.p.handler && barB s c (c.s 5) fun x =>
    decide (barPhase (s.dword x.pa) = (c.s 6).getLsbD 0) && okB (((c.advance s).touch c.w.part x false).objXlat c.w.part (c.s 5) .atomic) fun _ => true)
    (by decide +kernel)
  have ⟨x, h4, h5⟩ := bar_met (both h3).2
  have ⟨y, h6, _⟩ := ok_and (both h5).2
  ⟨g, s, c, x, y, h1, h2, noT (both h3).1, h4, of_decide_eq_true (both h5).1, h6⟩

/-- A future's access passes its checks (`futAt`) and its word is as `Q` says. -/
def FutMet (i : Instr) (P : WCtx → Prop) (Q : Word → Prop) : Prop := ∃ (g : Sig) (s : State) (c : WCtx) (x : Xlat), AtWord i g s c ∧
  Clear i g c ∧ releases s c ∧ P c ∧ futAt s c (c.s oRing.a) x ∧ Q (s.dword x.pa)

/-- A future at 0x30000. -/
def futState (i : Instr) (w : Word) : State := standing i (objWave 0x30000 1) (withDwords [(0x30000, w)])

theorem fut_met (i : Instr) (w : Word) (P : WCtx → Prop) (Q : Word → Prop) [DecidablePred P] [DecidablePred Q]
    (h : readyFor i (futState i w) (fun c => (relB (futState i w) c && decide (P c)) && okB ((c.advance (futState i w)).futXlat c.w.part (c.s oRing.a))
      fun x => !(futState i w).locked c.w.core false (c.s oRing.a).toNat 8 && (noneB (futState i w) c (c.s oRing.a) 8 && (!(futState i w).poisoned (.glob x.pa) 8 && decide (Q ((futState i w).dword x.pa))))) = true) : FutMet i P Q :=
  have ⟨g, c, h1, h2, h3⟩ := ready_met h
  have ⟨x, h4, h5⟩ := ok_and (both h3).2
  ⟨g, _, c, x, h1, h2, rel_met (both (both h3).1).1, of_decide_eq_true (both (both h3).1).2, ⟨h4, noT (both h5).1, noT (both (both h5).2).1,
    noT (both (both (both h5).2).2).1⟩, of_decide_eq_true (both (both (both h5).2).2).2⟩

/-- The three forms, as conditions that can be decided. -/
def isWaiting (w : Word) : Prop := w.toNat / 2 ^ 62 = 1 ∧ w.toNat / 2 ^ 40 % 2 ^ 22 ≠ 0 ∧ w.toNat % 2 ^ 40 ≠ 0

theorem witness_FutNew : FutMet (.futNew ⟨0, 0, 5, 0, none⟩) (fun _ => True) futEmpty := fut_met _ 0 _ (fun w => w = 0) (by decide +kernel)
theorem witness_FutNew_waiting : FutMet (.futNew ⟨0, 0, 5, 0, none⟩) (fun _ => True) futWaiting :=
  fut_met _ 0x4000010000000401#64 _ (fun w => w.toNat / 2 ^ 62 = 1 ∧ w.toNat / 2 ^ 40 % 2 ^ 22 ≠ 0 ∧ w.toNat % 2 ^ 40 ≠ 0) (by decide +kernel)
theorem witness_FutNew_done : FutMet (.futNew ⟨0, 0, 5, 0, none⟩) (fun _ => True) futDone :=
  fut_met _ 0xC000000000000401#64 _ (fun w => 2 ≤ w.toNat / 2 ^ 62 ∧ w.toNat / 2 ^ 40 % 2 ^ 22 = 0) (by decide +kernel)
theorem witness_FutResolve : FutMet (.futResolve ⟨0, 0, 5, 6, none⟩) (fun _ => True) futWaiting :=
  fut_met _ 0x4000010000000401#64 _ (fun w => w.toNat / 2 ^ 62 = 1 ∧ w.toNat / 2 ^ 40 % 2 ^ 22 ≠ 0 ∧ w.toNat % 2 ^ 40 ≠ 0) (by decide +kernel)
theorem witness_FutFail : FutMet (.futFail ⟨0, 0, 5, 6, none⟩) (fun _ => True) futEmpty := fut_met _ 0 _ (fun w => w = 0) (by decide +kernel)
theorem witness_FutResolve_twice : FutMet (.futResolve ⟨0, 0, 5, 6, none⟩) (fun _ => True) futDone :=
  fut_met _ 0x8000000000000000#64 _ (fun w => 2 ≤ w.toNat / 2 ^ 62 ∧ w.toNat / 2 ^ 40 % 2 ^ 22 = 0) (by decide +kernel)
theorem witness_FutPoll : FutMet (.futPoll oRing) (fun _ => True) futEmpty := fut_met _ 0 _ (fun w => w = 0) (by decide +kernel)
theorem witness_FutAwait : FutMet (.futAwait oRing) (fun _ => True) futDone :=
  fut_met _ 0x8000000000000000#64 _ (fun w => 2 ≤ w.toNat / 2 ^ 62 ∧ w.toNat / 2 ^ 40 % 2 ^ 22 = 0) (by decide +kernel)
theorem witness_FutAwait_waits : FutMet (.futAwait oRing) (fun c => c.p.handler = false) futEmpty := fut_met _ 0 _ (fun w => w = 0) (by decide +kernel)

/-- A wave of level 1 whose display names the frame at 0x40000 of a grid with 64 bytes of locals. -/
def frameState (i : Instr) (level : Nat) : State := standing i
  (fun w => { twoLanes w with launch := sset w.launch 140 (BitVec.ofNat 64 level), dsp := [(1, 0x40000#64)] })
  fun s => { s with grids := [(0, { loadGrid with frame := 0x40000, kern := { loadKernel with frame := 64, level := 1 } })] }
def oF : OpsF := ⟨0, 4, 1, 7, none⟩
def theFrame : Grid := { loadGrid with frame := 0x40000, kern := { loadKernel with frame := 64, level := 1 } }

/-- The last dword of the frame. -/
def FrameMet (i : Instr) (acc : Acc) : Prop := ∃ (g : Sig) (s : State) (c : WCtx) (xl : Nat → List (Xlat × Nat)) (F : Word) (h : Grid) (off : Nat) (a : Word),
  F = sget c.w.dsp oF.level.toNat ∧ off = 8 * oF.off.toNat ∧ oF.level.toNat ≤ c.w.level ∧ F ≠ 0 ∧
  (s.frameGrid c.w.part F.toNat).bind (aget s.grids) = some h ∧ off + 8 ≤ h.kern.frame ∧ a = F + BitVec.ofNat 64 (256 + off) ∧
  AtWord i g s c ∧ Clear i g c ∧ c.w.strict = false ∧ allPass s c 8 acc true (fun _ => false) (c.lanes.map fun l => (l, a)) xl

theorem frame_met (i : Instr) (acc : Acc) (h : readyFor i (frameState i 1) (fun c => decide (oF.level.toNat ≤ c.w.level ∧ sget c.w.dsp 1 ≠ 0 ∧
    ((frameState i 1).frameGrid c.w.part (sget c.w.dsp oF.level.toNat).toNat).bind (aget (frameState i 1).grids) = some theFrame ∧ c.w.strict = false) &&
    passB (frameState i 1) c 8 acc true (fun _ => false) (c.lanes.map fun l => (l, sget c.w.dsp oF.level.toNat + 312#64))) = true) : FrameMet i acc :=
  have ⟨g, c, h1, h2, h3⟩ := ready_met h
  have h4 := of_decide_eq_true (both h3).1
  ⟨g, _, c, _, _, theFrame, _, _, rfl, rfl, h4.1, h4.2.1, h4.2.2.1, by decide, rfl, h1, h2, h4.2.2.2, pass_met (both h3).2⟩

theorem witness_Ldf : FrameMet (.ldf oF) .load := frame_met _ _ (by decide +kernel)
theorem witness_Stf : FrameMet (.stf oF) .store := frame_met _ _ (by decide +kernel)
theorem witness_Atomf : FrameMet (.atomf oF) .atomic := frame_met _ _ (by decide +kernel)
theorem witness_Ldf_level : ∃ g s c, AtWord (.ldf oF) g s c ∧ Clear (.ldf oF) g c ∧ decide (c.w.level < oF.level.toNat) = true :=
  word_metP _ (frameState (.ldf oF) 0) _ (by decide +kernel)
/-- A word behind the frame; a level too deep of ATOMF. -/
theorem witness_Stf_outside : ∃ g s c, AtWord (.stf ⟨0, 4, 1, 8, none⟩) g s c ∧ Clear (.stf ⟨0, 4, 1, 8, none⟩) g c ∧
    ∀ h, (s.frameGrid c.w.part (sget c.w.dsp 1).toNat).bind (aget s.grids) = some h → h.kern.frame < 8 * 8 + 8 :=
  have ⟨g, c, h1, h2, h3⟩ := ready_met (i := .stf ⟨0, 4, 1, 8, none⟩) (s := frameState (.stf ⟨0, 4, 1, 8, none⟩) 1) (P := fun c =>
    ((((frameState (.stf ⟨0, 4, 1, 8, none⟩) 1).frameGrid c.w.part (sget c.w.dsp 1).toNat).bind
      (aget (frameState (.stf ⟨0, 4, 1, 8, none⟩) 1).grids))).all fun (h : Grid) => Nat.blt h.kern.frame 72) (by decide +kernel)
  ⟨g, _, c, h1, h2, fun h hh => by rw [hh] at h3; exact Nat.blt_eq.mp h3⟩
theorem witness_Atomf_level : ∃ g s c, AtWord (.atomf oF) g s c ∧ Clear (.atomf oF) g c ∧
    decide (c.w.strict = false ∧ c.w.level < oF.level.toNat) = true := word_metP _ (frameState (.atomf oF) 0) _ (by decide +kernel)
theorem witness_Movd : ∃ g s c, AtWord (.movd ⟨0, 4, 0, 1, none⟩) g s c ∧ Clear (.movd ⟨0, 4, 0, 1, none⟩) g c := word_met _ (by decide)

/-- Words that release, before the wave has drained. -/
theorem releases_not {i : Instr} (h : readyFor i (standing i (fun w => { w with queue := [aStore] }) id) (fun c => !c.w.drained) = true) :
    ∃ g s c, AtWord i g s c ∧ Clear i g c ∧ ¬ releases s c :=
  have ⟨g, c, h1, h2, h3⟩ := ready_met h
  ⟨g, _, c, h1, h2, fun hr => by rw [hr.1] at h3; cases h3⟩
theorem witness_FutResolve_waits : ∃ g s c, AtWord (.futResolve ⟨0, 0, 5, 6, none⟩) g s c ∧ Clear (.futResolve ⟨0, 0, 5, 6, none⟩) g c ∧
    ¬ releases s c := releases_not (by decide +kernel)
theorem witness_Nlaunch_waits : ∃ g s c, AtWord (.nlaunch ⟨0, 4, 5, 0, none⟩) g s c ∧ Clear (.nlaunch ⟨0, 4, 5, 0, none⟩) g c ∧
    ¬ releases s c := releases_not (by decide +kernel)

/-- A nested launch's descriptor at 0x30000 and its kernel at 0x40000, with a region of 64 KiB for frames at 0x80000, or none. -/
def launchState (i : Instr) (gx room : Nat) : State := standing i (objWave 0x30000 0x12344#64)
  fun s => withDwords [(0x30000, 0x40000), (0x30008, BitVec.ofNat 64 (gx * 2 ^ 32 + 2 ^ 16 + 1)), (0x30010, 0x77),
    (0x40000, 0x10000#64), (0x40008, 0x0020000100010002#64), (0x40010, 0x0808000000000000#64), (0x40018, 1), (0x40020, 0x200000#64)]
    { s with parts := [(0, { loadPart with ctx := [(5, 0x80000#64), (9, BitVec.ofNat 64 room)] })] }
def oNl : OpsG := ⟨0, 4, 5, 0, none⟩

/-- The launch's reads succeed, and `Q` holds of the descriptor and of the state. -/
def launchB (s : State) (c : WCtx) (Q : List Word → State → Bool) : Bool :=
  relB s c && (match (c.advance s).checkObj c (c.s oNl.a) 64 64 with
    | .ok _ => true
    | _ => false) && (okB ((c.advance s).readDwords c.w.part c.w.die (c.s oNl.a) 8 .atomic) fun y =>
      decide (aget s.grids c.w.grid = some loadGrid) && Q y.1 y.2)

theorem launch_met {s : State} {c : WCtx} {Q : List Word → State → Bool} (h : launchB s c Q = true) : ∃ x d s1, releases s c ∧
    (c.advance s).checkObj c (c.s oNl.a) 64 64 = .ok x ∧ (c.advance s).readDwords c.w.part c.w.die (c.s oNl.a) 8 .atomic = .ok (d, s1) ∧
    aget s.grids c.w.grid = some loadGrid ∧ Q d s1 = true := by
  unfold launchB at h
  obtain ⟨h1, h2⟩ := both h
  obtain ⟨⟨d, s1⟩, h3, h4⟩ := ok_and h2
  obtain ⟨h5, h6⟩ := both h1
  split at h6
  · rename_i x hx
    exact ⟨x, d, s1, rel_met h5, hx, h3, of_decide_eq_true (both h4).1, (both h4).2⟩
  · cases h6

/-- A grid of no blocks. -/
theorem witness_Nlaunch_malformed : ∃ (g : Sig) (s : State) (c : WCtx) (x : Xlat) (d : List Word) (s1 : State), AtWord (.nlaunchDet oNl) g s c ∧
    Clear (.nlaunchDet oNl) g c ∧ releases s c ∧ (c.advance s).checkObj c (c.s oNl.a) 64 64 = .ok x ∧
    (c.advance s).readDwords c.w.part c.w.die (c.s oNl.a) 8 .atomic = .ok (d, s1) ∧ aget s.grids c.w.grid = some loadGrid ∧ descBad d = true :=
  have ⟨g, c, h1, h2, h3⟩ := ready_met (i := .nlaunchDet oNl) (s := launchState (.nlaunchDet oNl) 0 256)
    (P := fun c => launchB (launchState (.nlaunchDet oNl) 0 256) c fun d _ => descBad d) (by decide +kernel)
  have ⟨x, d, s1, h4⟩ := launch_met h3
  ⟨g, _, c, x, d, s1, h1, h2, h4⟩

def LaunchMet (i : Instr) (f : NForm) (starts : Bool) : Prop := ∃ (g : Sig) (s : State) (c : WCtx) (x : Xlat) (d : List Word) (s1 : State) (k : Kernel) (s2 : State),
  AtWord i g s c ∧ Clear i g c ∧ releases s c ∧ (c.advance s).checkObj c (c.s oNl.a) 64 64 = .ok x ∧
  (c.advance s).readDwords c.w.part c.w.die (c.s oNl.a) 8 .atomic = .ok (d, s1) ∧ aget s.grids c.w.grid = some loadGrid ∧ descBad d = false ∧
  s1.readKernel c.w.part c.w.die (bitsOf (dw d 0) 51 6 * 64) .atomic = .ok (k, s2) ∧
  (s2.launchChild (childGrid s2 c.w loadGrid d k f)).isSome = starts

theorem nlaunch_met (i : Instr) (f : NForm) (room : Nat) (starts : Bool) (h : readyFor i (launchState i 2 room) (fun c => launchB (launchState i 2 room) c fun d s1 =>
    !descBad d && okB (s1.readKernel c.w.part c.w.die (bitsOf (dw d 0) 51 6 * 64) .atomic) fun y =>
      decide ((y.2.launchChild (childGrid y.2 c.w loadGrid d y.1 f)).isSome = starts)) = true) : LaunchMet i f starts :=
  have ⟨g, c, h1, h2, h3⟩ := ready_met h
  have ⟨x, d, s1, h4, h5, h6, h7, h8⟩ := launch_met h3
  have ⟨⟨k, s2⟩, h9, h10⟩ := ok_and (both h8).2
  ⟨g, _, c, x, d, s1, k, s2, h1, h2, h4, h5, h6, h7, noT (both h8).1, h9, of_decide_eq_true h10⟩

theorem witness_Nlaunch : LaunchMet (.nlaunch oNl) .plain true := nlaunch_met _ _ 256 _ (by decide +kernel)
theorem witness_Nlaunch_noRoom : LaunchMet (.nlaunch oNl) .plain false := nlaunch_met _ _ 0 _ (by decide +kernel)
theorem witness_NlaunchSeq : LaunchMet (.nlaunchSeq oNl) .seq true := nlaunch_met _ _ 256 _ (by decide +kernel)
theorem witness_NlaunchDet : LaunchMet (.nlaunchDet oNl) .det true := nlaunch_met _ _ 256 _ (by decide +kernel)

/-! #### Continuations -/

/-- A record at 0x30000 with no futures, and the state of its first dword. -/
def recState (i : Instr) (st : Nat) : State := standing i (objWave 0x30000 0x12344#64) (withDwords [(0x30000, BitVec.ofNat 64 (st * 2 ^ 62))])
def oCont : OpsG := ⟨0, 4, 5, 6, none⟩

theorem witness_ContSave : ∃ (g : Sig) (s : State) (c : WCtx) (x : Xlat) (d : List Word) (s1 s2 : State) (made settled : Nat), AtWord (.contSave oCont) g s c ∧
    Clear (.contSave oCont) g c ∧ releases s c ∧ (c.advance s).checkObj c (c.s oCont.a) 256 256 = .ok x ∧
    (c.advance s).readDwords c.w.part c.w.die (c.s oCont.a) 6 .atomic = .ok (d, s1) ∧ (c.s oCont.a).toNat < 2 ^ 46 ∧ recBad d = false ∧
    recFirst d + recCount d ≤ c.w.vregs ∧ (c.s oCont.b).toNat % 4 = 0 ∧ (∀ e ∈ recFuts d, e.2.toNat % 8 = 0) ∧ s1.checkFuts c (recFuts d) = none ∧
    s1.locked c.w.core false (c.s oCont.a).toNat (256 + recCount d * c.w.width * 8) = false ∧
    (∃ l, s1.translateAll c.w.part (c.s oCont.a) (256 + recCount d * c.w.width * 8) .atomic = .ok l) ∧
    ((c.forgets s1 ((c.s oCont.a).toNat :: (recFuts d).map fun e => e.2.toNat)).writeRec c (c.s oCont.a).toNat (c.s oCont.b).toNat (recFuts d).length (recFirst d) (recCount d)).linkAll c.w.part c.w.die (c.s oCont.a).toNat
      (recFuts d) 0 0 = (s2, made, settled, none) := by
  obtain ⟨g, c, h1, h2, h3⟩ := ready_met (i := .contSave oCont) (s := recState (.contSave oCont) 0) (P := fun c => relB (recState (.contSave oCont) 0) c && ((match
      (c.advance (recState (.contSave oCont) 0)).checkObj c (c.s oCont.a) 256 256 with
    | .ok _ => true
    | _ => false) && (okB ((c.advance (recState (.contSave oCont) 0)).readDwords c.w.part c.w.die (c.s oCont.a) 6 .atomic) fun y =>
      decide ((c.s oCont.a).toNat < 2 ^ 46 ∧ recBad y.1 = false ∧ recFirst y.1 + recCount y.1 ≤ c.w.vregs ∧ (c.s oCont.b).toNat % 4 = 0 ∧
        recFuts y.1 = [] ∧ y.2.locked c.w.core false (c.s oCont.a).toNat (256 + recCount y.1 * c.w.width * 8) = false) &&
      okB (y.2.translateAll c.w.part (c.s oCont.a) (256 + recCount y.1 * c.w.width * 8) .atomic) fun _ => true))) (by decide +kernel)
  obtain ⟨h4, h5⟩ := both h3
  obtain ⟨h6, h7⟩ := both h5
  obtain ⟨⟨d, s1⟩, h8, h9⟩ := ok_and h7
  obtain ⟨h10, h11⟩ := both h9
  obtain ⟨l, h12, _⟩ := ok_and h11
  have h13 := of_decide_eq_true h10
  split at h6
  · rename_i x hx
    refine ⟨g, _, c, x, d, s1, (c.forgets s1 [(c.s oCont.a).toNat]).writeRec c (c.s oCont.a).toNat (c.s oCont.b).toNat 0 (recFirst d) (recCount d), 0, 0, h1, h2, rel_met h4, hx, h8, h13.1, h13.2.1, h13.2.2.1, h13.2.2.2.1, ?_, ?_, h13.2.2.2.2.2, ⟨l, h12⟩, ?_⟩
    · rw [h13.2.2.2.2.1]; nofun
    · rw [h13.2.2.2.2.1]; rfl
    · rw [h13.2.2.2.2.1]; rfl
  · cases h6

theorem wake_met (st : Nat) (h : readyFor (.contWake oCont) (recState (.contWake oCont) st) (fun c => (match
      (c.advance (recState (.contWake oCont) st)).checkObj c (c.s oCont.a) 8 256 with
    | .ok x => decide ((recState (.contWake oCont) st).poisoned (.glob x.pa) 8 = false ∧ ((recState (.contWake oCont) st).dword x.pa).toNat / 2 ^ 62 = st)
    | _ => false) && (decide ((c.s oCont.a).toNat < 2 ^ 46) && noneB (recState (.contWake oCont) st) c (c.s oCont.a) 8)) = true) : ∃ (g : Sig) (s : State) (c : WCtx) (x : Xlat), AtWord (.contWake oCont) g s c ∧
    Clear (.contWake oCont) g c ∧ (c.advance s).checkObj c (c.s oCont.a) 8 256 = .ok x ∧ (c.s oCont.a).toNat < 2 ^ 46 ∧ nonePending s c (c.s oCont.a) 8 ∧
    s.poisoned (.glob x.pa) 8 = false ∧ (s.dword x.pa).toNat / 2 ^ 62 = st := by
  obtain ⟨g, c, h1, h2, h3⟩ := ready_met h
  obtain ⟨h4, h5⟩ := both h3
  split at h4
  · rename_i x hx
    exact ⟨g, _, c, x, h1, h2, hx, of_decide_eq_true (both h5).1, noT (both h5).2, of_decide_eq_true h4⟩
  · cases h4

theorem witness_ContWake_ready : ∃ (g : Sig) (s : State) (c : WCtx) (x : Xlat), AtWord (.contWake oCont) g s c ∧
    Clear (.contWake oCont) g c ∧ (c.advance s).checkObj c (c.s oCont.a) 8 256 = .ok x ∧ (c.s oCont.a).toNat < 2 ^ 46 ∧ nonePending s c (c.s oCont.a) 8 ∧
    s.poisoned (.glob x.pa) 8 = false ∧ (s.dword x.pa).toNat / 2 ^ 62 = 3 := wake_met 3 (by decide +kernel)
theorem witness_ContWake_linked : ∃ (g : Sig) (s : State) (c : WCtx) (x : Xlat), AtWord (.contWake oCont) g s c ∧
    Clear (.contWake oCont) g c ∧ (c.advance s).checkObj c (c.s oCont.a) 8 256 = .ok x ∧ (c.s oCont.a).toNat < 2 ^ 46 ∧ nonePending s c (c.s oCont.a) 8 ∧
    s.poisoned (.glob x.pa) 8 = false ∧ (s.dword x.pa).toNat / 2 ^ 62 = 1 := wake_met 1 (by decide +kernel)

/-! ### Hypotheses of the statements on matrix and Awl words -/

/-- A block with 64 KiB of scratchpad on core 0, whose matrix engine is `m`. -/
def mxBlk : Block := { loadBlock with size := 0x10000 }
def mxState (i : Instr) (m : Matrix) (f : Wave → Wave) : State := standing i f
  fun s => { s.setCore 0 { Core.reset with mx := m } with blocks := [(0, mxBlk)] }
def anOp (t : Nat) : MxOp := ⟨t, .zero 0, 0, 0, 0, 0, 0, [0], 0, 0, 1, 0⟩
/-- Queues of 15 and of 16 operations. -/
def mx15 : Matrix := { Matrix.reset with accepted := 15, ops := (List.range 15).map fun k => anOp (k + 1) }
def mx16 : Matrix := { Matrix.reset with accepted := 16, ops := (List.range 16).map fun k => anOp (k + 1) }
/-- s5 such that its 16 KiB end where the window ends. -/
def tileWave (w : Wave) : Wave := { w with s := [(5, 0xC000#64)] }
def oLa : OpsG := ⟨7, 7, 5, 0, none⟩

def MxMet (i : Instr) (room : Bool) : Prop := ∃ (g : Sig) (s : State) (c : WCtx) (b : Block), AtWord i g s c ∧ Clear i g c ∧
  aget s.blocks c.w.block = some b ∧ ((c.s oLa.a).toNat % 4 = 0 ∧ (c.w.lreg 143).toNat ≤ (c.s oLa.a).toNat ∧
    (c.s oLa.a).toNat + 16384 ≤ (c.w.lreg 143).toNat + b.size) ∧ decide ((s.core c.w.core).mx.ops.length < 16) = room

theorem mx_met (i : Instr) (m : Matrix) (room : Bool) (h : readyFor i (mxState i m tileWave) (fun c => decide (aget (mxState i m tileWave).blocks c.w.block = some mxBlk ∧
    ((c.s oLa.a).toNat % 4 = 0 ∧ (c.w.lreg 143).toNat ≤ (c.s oLa.a).toNat ∧ (c.s oLa.a).toNat + 16384 ≤ (c.w.lreg 143).toNat + mxBlk.size) ∧
    decide (((mxState i m tileWave).core c.w.core).mx.ops.length < 16) = room)) = true) : MxMet i room :=
  have ⟨g, c, h1, h2, h3⟩ := ready_met h
  ⟨g, _, c, mxBlk, h1, h2, of_decide_eq_true h3⟩

theorem witness_MxZero : MxMet (.mxZero ⟨0, 0, 0, 7, none⟩) true := mx_met _ mx15 _ (by decide +kernel)
theorem witness_MxZero_full : MxMet (.mxZero ⟨0, 0, 0, 7, none⟩) false := mx_met _ mx16 _ (by decide +kernel)
theorem witness_MxLoadacc : MxMet (.mxLoadacc oLa) true := mx_met _ mx15 _ (by decide +kernel)
theorem witness_MxStacc : MxMet (.mxStacc oLa) true := mx_met _ mx15 _ (by decide +kernel)

/-- A parameter block in scratchpad is read as it stands there. -/
theorem mxBlock_scratch {c : WCtx} {s : State} {b : Block} {a : Word} (h1 : a.getLsbD 63 = true)
    (h2 : ¬ (bitsOf a 62 32 ≠ 0 ∨ bitsOf a 31 0 < (c.w.lreg 143).toNat ∨ (c.w.lreg 143).toNat + b.size < bitsOf a 31 0 + 64))
    (h3 : ¬ bitsOf a 31 0 % 64 ≠ 0) (h4 : s.locked c.w.core true (bitsOf a 31 0) 64 = false)
    (h5 : s.eccHit (.scr c.w.core (bitsOf a 31 0)) 64 = false) :
    ∀ f, c.mxBlock s b a f = f s (dwordsOf (s.bytes (.scr c.w.core (bitsOf a 31 0)) 64)) := by
  intro f
  unfold WCtx.mxBlock
  rw [if_pos h1]
  simp only [if_neg h2, if_neg h3, h4, h5, Bool.false_eq_true, if_false]

/-- The block that s5 names, in the scratchpad window of the wave: one product of two bf16 rows of one element, at
`A` and 0x80; or, with `bad`, of no elements. -/
def mulWave (w : Wave) : Wave := { w with s := [(5, 0x8000000000000000#64)] }
def mulState (k : Nat) : State := (fun (s : State) => (s.setBytes (.scr 0 0) (bytesOf 8 k)).setBytes (.scr 0 24) [0])
  ((((mxState (.mxIssue ⟨0, 4, 5, 6, none⟩) mx15 mulWave).setBytes (.scr 0 8) (bytesOf 8 64))).setBytes (.scr 0 16) (bytesOf 8 128))
def oMul : OpsG := ⟨0, 4, 5, 6, none⟩

def IssueMet (Q : State → WCtx → List Word → Prop) : Prop := ∃ (g : Sig) (s : State) (c : WCtx) (b : Block) (s1 : State) (d : List Word),
  AtWord (.mxIssue oMul) g s c ∧ Clear (.mxIssue oMul) g c ∧ aget s.blocks c.w.block = some b ∧ c.w.drained = true ∧
  (∀ f, c.mxBlock (c.advance s) b (c.s oMul.a) f = f s1 d) ∧ s1 = c.advance s ∧ b = mxBlk ∧ Q s1 c d

theorem issue_met (k : Nat) (Q : State → WCtx → List Word → Prop) [∀ s c d, Decidable (Q s c d)] (h : readyFor (.mxIssue oMul) (mulState k) (fun c =>
    decide (aget (mulState k).blocks c.w.block = some mxBlk ∧ c.w.drained = true ∧ (c.s oMul.a).getLsbD 63 = true ∧
      ¬ (bitsOf (c.s oMul.a) 62 32 ≠ 0 ∨ bitsOf (c.s oMul.a) 31 0 < (c.w.lreg 143).toNat ∨ (c.w.lreg 143).toNat + mxBlk.size < bitsOf (c.s oMul.a) 31 0 + 64) ∧
      ¬ bitsOf (c.s oMul.a) 31 0 % 64 ≠ 0 ∧ (c.advance (mulState k)).locked c.w.core true (bitsOf (c.s oMul.a) 31 0) 64 = false ∧
      (c.advance (mulState k)).eccHit (.scr c.w.core (bitsOf (c.s oMul.a) 31 0)) 64 = false ∧
      Q (c.advance (mulState k)) c (dwordsOf ((c.advance (mulState k)).bytes (.scr c.w.core (bitsOf (c.s oMul.a) 31 0)) 64)))) = true) : IssueMet Q :=
  have ⟨g, c, h1, h2, h3⟩ := ready_met h
  have h4 := of_decide_eq_true h3
  ⟨g, _, c, mxBlk, _, _, h1, h2, h4.1, h4.2.1, mxBlock_scratch h4.2.2.1 h4.2.2.2.1 h4.2.2.2.2.1 h4.2.2.2.2.2.1 h4.2.2.2.2.2.2.1, rfl, rfl, h4.2.2.2.2.2.2.2⟩

/-- K = 0. -/
theorem witness_MxIssue_bad : IssueMet fun _ c d => mxParamBad d ((c.s oMul.b).toNat % 2 ^ 20) ((c.s oMul.b).toNat / 2 ^ 20 % 2 ^ 20) = true :=
  issue_met 0x0000000000000000 _ (by decide +kernel)

/-- K = 1, no action and no gate. -/
theorem witness_MxIssue : IssueMet fun s1 c d => mxParamBad d ((c.s oMul.b).toNat % 2 ^ 20) ((c.s oMul.b).toNat / 2 ^ 20 % 2 ^ 20) = false ∧
    mxRings d = [] ∧ (mxA d).addr + (c.s oMul.b).toNat % 2 ^ 20 < 2 ^ 20 ∧ (mxB d).addr + (c.s oMul.b).toNat / 2 ^ 20 % 2 ^ 20 < 2 ^ 20 ∧
    (mxA (mxDelta d ((c.s oMul.b).toNat % 2 ^ 20) ((c.s oMul.b).toNat / 2 ^ 20 % 2 ^ 20))).outside (mxK d) mxBlk.cores.length (c.w.lreg 143).toNat mxBlk.size = false ∧
    (mxB (mxDelta d ((c.s oMul.b).toNat % 2 ^ 20) ((c.s oMul.b).toNat / 2 ^ 20 % 2 ^ 20))).outside (mxK d) mxBlk.cores.length (c.w.lreg 143).toNat mxBlk.size = false ∧
    (s1.core c.w.core).mx.ops.length < 16 := issue_met 0x810001 _ (by decide +kernel)

/-- An operation without rings passes their checks. -/
theorem mxRingCheck_none {c : WCtx} {s : State} {d : List Word} (h : mxRings d = []) : ∀ f, c.mxRingCheck s d f = f := by
  intro f
  simp [WCtx.mxRingCheck, h]

/-- Another wave of the block is its matrix wave. -/
def popState (i : Instr) (pops : List (Nat × Nat)) (role : Nat) : State := standing i (fun w => { w with launch := [(139, 32#64), (149, 3#64)] }) fun s =>
  { s.setCore 0 { Core.reset with mx := { Matrix.reset with pops := pops } } with
    waves := s.waves ++ [(1, { loadWave 0 with id := 1, launch := [(139, 32#64), (149, BitVec.ofNat 64 role)] })] }
def oPop : OpsG := ⟨0, 4, 0, 0, none⟩

def PopMet (Q : State → WCtx → Prop) : Prop := ∃ (g : Sig) (s : State) (c : WCtx), AtWord (.mxPop oPop) g s c ∧ Clear (.mxPop oPop) g c ∧ Q s c
theorem pop_met (pops : List (Nat × Nat)) (role : Nat) (Q : State → WCtx → Prop) [∀ s c, Decidable (Q s c)]
    (h : readyFor (.mxPop oPop) (popState (.mxPop oPop) pops role) (fun c => decide (Q (popState (.mxPop oPop) pops role) c)) = true) : PopMet Q :=
  have ⟨g, c, h1, h2, h3⟩ := ready_met h
  ⟨g, _, c, h1, h2, of_decide_eq_true h3⟩

theorem witness_MxPop : PopMet fun s c => (∃ x ∈ s.wavesOf c.w.block, x.core = c.w.core ∧ x.role = 2 ∧ x.live ≠ 0) ∧
    (s.core c.w.core).mx.pops = [(7, 63)] := pop_met [(7, 63)] 2 _ (by decide +kernel)
theorem witness_MxPop_waits : PopMet fun s c => (∃ x ∈ s.wavesOf c.w.block, x.core = c.w.core ∧ x.role = 2 ∧ x.live ≠ 0) ∧
    (s.core c.w.core).mx.pops = [] ∧ c.p.handler = false := pop_met [] 2 _ (by decide +kernel)
theorem witness_MxPop_alone : PopMet fun s c => ∀ x ∈ s.wavesOf c.w.block, ¬ (x.core = c.w.core ∧ x.role = 2 ∧ x.live ≠ 0) :=
  pop_met [] 3 _ (by decide +kernel)

/-- Accepted 3, completed `n`; s5 = 3. -/
def ticketState (i : Instr) (n : Nat) : State := mxState i { Matrix.reset with accepted := 3, completed := n } fun w => { w with s := [(5, 3#64)] }
def TicketMet (i : Instr) (Q : State → WCtx → Prop) : Prop := ∃ (g : Sig) (s : State) (c : WCtx), AtWord i g s c ∧ Clear i g c ∧ Q s c
theorem ticket_met (i : Instr) (n : Nat) (Q : State → WCtx → Prop) [∀ s c, Decidable (Q s c)]
    (h : readyFor i (ticketState i n) (fun c => decide (Q (ticketState i n) c)) = true) : TicketMet i Q :=
  have ⟨g, c, h1, h2, h3⟩ := ready_met h
  ⟨g, _, c, h1, h2, of_decide_eq_true h3⟩

theorem witness_MxFence : TicketMet (.mxFence ⟨0, 0, 0, 0, none⟩) fun s c => (s.core c.w.core).mx.accepted ≤ (s.core c.w.core).mx.completed :=
  ticket_met _ 3 _ (by decide +kernel)
theorem witness_MxFence_waits : TicketMet (.mxFence ⟨0, 0, 0, 0, none⟩) fun s c => (s.core c.w.core).mx.completed < (s.core c.w.core).mx.accepted :=
  ticket_met _ 2 _ (by decide +kernel)
theorem witness_MxWait : TicketMet (.mxWait ⟨0, 0, 5, 0, none⟩) fun s c => (c.s 5).toNat ≤ (s.core c.w.core).mx.accepted ∧
    (c.s 5).toNat ≤ (s.core c.w.core).mx.completed := ticket_met _ 3 _ (by decide +kernel)
theorem witness_MxWait_waits : TicketMet (.mxWait ⟨0, 0, 5, 0, none⟩) fun s c => (c.s 5).toNat ≤ (s.core c.w.core).mx.accepted ∧
    (s.core c.w.core).mx.completed < (c.s 5).toNat := ticket_met _ 2 _ (by decide +kernel)
theorem witness_MxStat : TicketMet (.mxStat ⟨0, 4, 0, 0, none⟩) fun s c => (s.core c.w.core).mx.ops.length ≤ 31 ∧
    (s.core c.w.core).mx.pops.length < 2 ^ 10 ∧ ((s.core c.w.core).mx.ops.head?.map MxOp.tile).getD (s.core c.w.core).mx.last < 2 ^ 46 :=
  ticket_met _ 2 _ (by decide +kernel)

/-- In the handler, s5 being `a`; the engine frozen or not. -/
def handWave (a : Word) (w : Wave) : Wave := { w with s := [(5, a)], paths := w.paths.map fun p => { p with handler := true } }
def handState (i : Instr) (frozen : Bool) : State := mxState i { Matrix.reset with frozen := frozen } (handWave 0x40000#64)

theorem witness_MxFreeze_outside : ∃ g s c, AtWord (.mxFreeze ⟨0, 0, 0, 0, none⟩) g s c ∧ Clear (.mxFreeze ⟨0, 0, 0, 0, none⟩) g c ∧ (!c.p.handler) = true :=
  word_metP _ (before (.mxFreeze ⟨0, 0, 0, 0, none⟩)) _ (by decide)
theorem witness_MxFreeze : ∃ g s c, AtWord (.mxFreeze ⟨0, 0, 0, 0, none⟩) g s c ∧ Clear (.mxFreeze ⟨0, 0, 0, 0, none⟩) g c ∧ c.p.handler = true :=
  word_metP _ (handState (.mxFreeze ⟨0, 0, 0, 0, none⟩) false) _ (by decide)
theorem witness_MxThaw : ∃ g s c, AtWord (.mxThaw ⟨0, 0, 0, 0, none⟩) g s c ∧ Clear (.mxThaw ⟨0, 0, 0, 0, none⟩) g c ∧ c.p.handler = true :=
  word_metP _ (handState (.mxThaw ⟨0, 0, 0, 0, none⟩) true) _ (by decide)

/-- The pages of an image whose checks pass. -/
def imagePages (s : State) (p : Nat) (a : Word) (acc : Acc) : List (Nat × Nat × Except XErr Xlat) :=
  (pageRuns a.toNat imageLen).map fun e => (e.1, e.2, s.translate p (BitVec.ofNat 64 e.1) acc)
def pagesOk (l : List (Nat × Nat × Except XErr Xlat)) : List (Xlat × Nat) := l.filterMap fun e => match e.2.2 with
  | .ok x => some (x, e.2.1)
  | .error _ => none
def pageRefused (e : Nat × Nat × Except XErr Xlat) : Bool := match e.2.2 with
  | .ok x => regPage x
  | .error e => e = .rights

theorem image_ok {c : WCtx} {s : State} {a : Word} {acc : Acc} {access : Nat} (h1 : ¬ 2 ^ 52 < a.toNat + imageLen)
    (h2 : (imagePages s c.w.part a acc).any pageRefused = false) (h3 : ¬ a.toNat % 4096 ≠ 0) (h4 : s.locked c.w.core false a.toNat imageLen = false)
    (h5 : (imagePages s c.w.part a acc).find? isPageFault = none) :
    ∀ f, c.image s a acc access f = f (pagesOk (imagePages s c.w.part a acc)) := by
  intro f
  unfold WCtx.image
  unfold imagePages at h5
  rw [if_neg h1]
  refine (if_neg fun h => Bool.noConfusion (h2.symm.trans h)).trans ?_
  rw [if_neg h3, if_neg (by simp [h4]), h5]
  rfl

def ImageMet (i : Instr) (acc : Acc) (access : Nat) (Q : State → WCtx → List (Xlat × Nat) → Prop) : Prop := ∃ (g : Sig) (s : State) (c : WCtx) (pages : List (Xlat × Nat)),
  AtWord i g s c ∧ Clear i g c ∧ c.p.handler = true ∧ (∀ f, c.image (c.advance s) (c.s 5) acc access f = f pages) ∧ Q s c pages

theorem image_met (i : Instr) (frozen : Bool) (h : State → State) (acc : Acc) (access : Nat) (Q : State → WCtx → List (Xlat × Nat) → Prop) [∀ s c l, Decidable (Q s c l)]
    (hr : readyFor i (h (handState i frozen)) (fun c => c.p.handler && decide (¬ 2 ^ 52 < (c.s 5).toNat + imageLen) &&
      (!(imagePages (c.advance (h (handState i frozen))) c.w.part (c.s 5) acc).any pageRefused && decide (¬ (c.s 5).toNat % 4096 ≠ 0)) &&
      (!(c.advance (h (handState i frozen))).locked c.w.core false (c.s 5).toNat imageLen &&
        ((imagePages (c.advance (h (handState i frozen))) c.w.part (c.s 5) acc).find? isPageFault).isNone) &&
      decide (Q (h (handState i frozen)) c (pagesOk (imagePages (c.advance (h (handState i frozen))) c.w.part (c.s 5) acc)))) = true) :
    ImageMet i acc access Q :=
  have ⟨g, c, h1, h2, h3⟩ := ready_met hr
  have h4 := both h3
  have h5 := both h4.1
  have h6 := both h5.1
  have h7 := both h6.1
  ⟨g, _, c, _, h1, h2, h7.1, image_ok (of_decide_eq_true h7.2) (noT (both h6.2).1) (of_decide_eq_true (both h6.2).2) (noT (both h5.2).1)
    (Option.isNone_iff_eq_none.mp (both h5.2).2), of_decide_eq_true h4.2⟩

theorem witness_MxDrain : ImageMet (.mxDrain ⟨0, 0, 5, 0, none⟩) .store aWrite fun _ _ _ => True := image_met _ false id _ _ _ (by decide +kernel)
/-- An image in host memory. -/
theorem witness_MxDrain_host : ImageMet (.mxDrain ⟨0, 0, 5, 0, none⟩) .store aWrite fun _ _ pages => ∃ e ∈ pages, portMem e.1.pa = true :=
  image_met _ false (fun s => { hostMapped s with waves := s.waves.map fun e => (e.1, { e.2 with s := [(5, 0x40000000#64)] }) }) _ _ _ (by decide +kernel)
theorem witness_MxRestore_running : ImageMet (.mxRestore ⟨0, 0, 5, 0, none⟩) .load aRead fun s c pages =>
    (∀ e ∈ pages, s.poisoned (.glob e.1.pa) e.2 = false) ∧ (s.core c.w.core).mx.frozen = false := image_met _ false id _ _ _ (by decide +kernel)
theorem dieBytes_length (s : State) (die : Nat) (loc : Loc) (n : Nat) : (s.dieBytes die loc n).length = n := by
  have h (loc : Loc) : (s.bytes loc n).length = n := by cases loc <;> simp [State.bytes, sgets]
  cases loc with
  | scr _ _ => unfold State.dieBytes; exact h _
  | glob pa =>
    unfold State.dieBytes forwardOver
    dsimp only
    split_ifs <;> simp [h]

/-- The bytes behind the first runs. -/
theorem drop_readRuns (s : State) (die : Nat) : ∀ (l : List (Loc × Nat)) (n : Nat),
    (s.readRuns die l).drop ((l.take n).map Prod.snd).sum = s.readRuns die (l.drop n)
  | [], n => by simp [State.readRuns]
  | e :: l, 0 => by simp
  | e :: l, n + 1 => by
    rw [List.take_succ_cons, List.map_cons, List.sum_cons, List.drop_succ_cons, ← drop_readRuns s die l n]
    unfold State.readRuns
    rw [List.map_cons, List.flatten_cons, ← List.drop_drop,
      List.drop_left' (by split_ifs <;> simp [dieBytes_length])]

/-- An image whose header stands at 0x60000. -/
theorem witness_MxRestore : ImageMet (.mxRestore ⟨0, 0, 5, 0, none⟩) .load aRead fun s c pages =>
    (∀ e ∈ pages, s.poisoned (.glob e.1.pa) e.2 = false) ∧ (s.core c.w.core).mx.frozen = true ∧
    headerBad ((dwordsOf ((s.readRuns c.w.die (pages.map fun e => (.glob e.1.pa, e.2))).drop 131072)).take 8) = false :=
  have ⟨g, s, c, pages, h1, h2, h3, h4, h5, h6, h7, h8⟩ := image_met (.mxRestore ⟨0, 0, 5, 0, none⟩) true (withDwords [(0x60000, 1)]) .load aRead
    (fun s c pages => (∀ e ∈ pages, s.poisoned (.glob e.1.pa) e.2 = false) ∧ (s.core c.w.core).mx.frozen = true ∧
      (((pages.map fun e => ((.glob e.1.pa, e.2) : Loc × Nat)).take 32).map Prod.snd).sum = 131072 ∧
      headerBad ((dwordsOf (s.readRuns c.w.die ((pages.map fun e => ((.glob e.1.pa, e.2) : Loc × Nat)).drop 32))).take 8) = false) (by decide +kernel)
  ⟨g, s, c, pages, h1, h2, h3, h4, h5, h6, by rw [← h7, drop_readRuns]; exact h8⟩

/-- The chain at 0x21000; the channel of engine 2. -/
def oGo : OpsG := ⟨0, 4, 5, 2, none⟩
def goState (i : Instr) (st : ChanSt) : State := standing i (fun w => { w with s := [(5, 0x21000#64)] })
  fun s => { s with chans := [(2, { Chan.reset with st := st })] }

theorem witness_AwlGo : ∃ (g : Sig) (s : State) (c : WCtx) (b : Block), AtWord (.awlGo oGo) g s c ∧ Clear (.awlGo oGo) g c ∧ ((c.s oGo.a).toNat < 2 ^ 52 ∧
    (c.s oGo.a).toNat % 64 = 0 ∧ c.w.drained = true ∧ aget s.blocks c.w.block = some b ∧ (s.chan (c.w.cluster * 8 + oGo.b.toNat)).st = .faulted) :=
  have ⟨g, c, h1, h2, h3⟩ := ready_met (i := .awlGo oGo) (s := goState (.awlGo oGo) .faulted) (P := fun c => decide ((c.s oGo.a).toNat < 2 ^ 52 ∧
    (c.s oGo.a).toNat % 64 = 0 ∧ c.w.drained = true ∧ aget (goState (.awlGo oGo) .faulted).blocks c.w.block = some loadBlock ∧
    ((goState (.awlGo oGo) .faulted).chan (c.w.cluster * 8 + oGo.b.toNat)).st = .faulted)) (by decide +kernel)
  ⟨g, _, c, loadBlock, h1, h2, of_decide_eq_true h3⟩
theorem witness_AwlGo_busy : ∃ (g : Sig) (s : State) (c : WCtx) (b : Block), AtWord (.awlGo oGo) g s c ∧ Clear (.awlGo oGo) g c ∧ ((c.s oGo.a).toNat < 2 ^ 52 ∧
    (c.s oGo.a).toNat % 64 = 0 ∧ c.w.drained = true ∧ aget s.blocks c.w.block = some b ∧ (s.chan (c.w.cluster * 8 + oGo.b.toNat)).st = .running) :=
  have ⟨g, c, h1, h2, h3⟩ := ready_met (i := .awlGo oGo) (s := goState (.awlGo oGo) .running) (P := fun c => decide ((c.s oGo.a).toNat < 2 ^ 52 ∧
    (c.s oGo.a).toNat % 64 = 0 ∧ c.w.drained = true ∧ aget (goState (.awlGo oGo) .running).blocks c.w.block = some loadBlock ∧
    ((goState (.awlGo oGo) .running).chan (c.w.cluster * 8 + oGo.b.toNat)).st = .running)) (by decide +kernel)
  ⟨g, _, c, loadBlock, h1, h2, of_decide_eq_true h3⟩
theorem witness_AwlGo_holds : ∃ g s c, AtWord (.awlGo oGo) g s c ∧ Clear (.awlGo oGo) g c ∧
    (decide ((c.s oGo.a).toNat < 2 ^ 52) && decide ((c.s oGo.a).toNat % 64 = 0) && !c.w.drained) = true :=
  word_metP _ (standing (.awlGo oGo) (fun w => { w with s := [(5, 0x21000#64)], queue := [aStore] }) id) _ (by decide +kernel)
theorem witness_AwlStat : ∃ g s c, AtWord (.awlStat ⟨0, 4, 1, 7, none⟩) g s c ∧ Clear (.awlStat ⟨0, 4, 1, 7, none⟩) g c := word_met _ (by decide)
theorem witness_AwlStop : ∃ g s c, AtWord (.awlStop ⟨0, 0, 0, 7, none⟩) g s c ∧ Clear (.awlStop ⟨0, 0, 0, 7, none⟩) g c := word_met _ (by decide)

/-! ### Hypotheses of the statements on engine words -/

/-- Channel 0 stands at an engine's word, its state changed by `f` and the rest by `h`. -/
def engChan (i : Instr) (f : Chan → Chan) : Chan := f (loadChan ((encode i).getD ⟨none, 0, none⟩).word)
def engState (i : Instr) (f : Chan → Chan) (h : State → State) : State :=
  let s := loadWord State.reset ((encode i).getD ⟨none, 0, none⟩).word
  h { s with cur := .chan 0 loadAt (loadClause ((encode i).getD ⟨none, 0, none⟩).word).hdr 1 2, chans := [(0, engChan i f)] }
def engCtx (i : Instr) (f : Chan → Chan) : ECtx := ⟨0, engChan i f, loadAt, (loadClause ((encode i).getD ⟨none, 0, none⟩).word).hdr, 1, 2⟩

theorem at_eng (i : Instr) (f : Chan → Chan) : AtEng (engState i f id) (engCtx i f) := ⟨rfl, rfl⟩

def oE : OpsG := ⟨0, 1, 2, 3, none⟩
theorem witness_EngineIntegerWordsCompute : ∃ i o r s e, engRule i = some (o, r) ∧ AtEng s e := ⟨.aSra oE, _, _, _, _, rfl, at_eng (.aSra oE) id⟩
/-- A.WAIT with nothing in its die's port, and with a write there. -/
theorem witness_AWait : ∃ (s : State) (e : ECtx), AtEng s e ∧ ∀ p ∈ s.msys.ports, p.die ≠ e.die :=
  ⟨_, _, at_eng (.aWait ⟨0, 0⟩) id, fun p hp => by cases (show p ∈ [] from hp)⟩
theorem witness_AWait_waits : ∃ (s : State) (e : ECtx), AtEng s e ∧ ∃ p ∈ s.msys.ports, p.die = e.die :=
  ⟨engState (.aWait ⟨0, 0⟩) id fun s => s.setMsys { s.msys with ports := [aHeld] }, engCtx (.aWait ⟨0, 0⟩) id, ⟨rfl, rfl⟩, aHeld, .head _, by decide +kernel⟩
theorem witness_AArg_last : ∃ s e, AtEng s e ∧ (9 : Nat) ≤ 9 := ⟨_, _, at_eng (.aArg ⟨0, 1, 0, 9, none⟩) id, by decide⟩
theorem witness_AArg_signed : ∃ s e y, AtEng s e ∧ (21 : Nat) ≤ 21 ∧
    y = toI true 32 ((dw e.ch.dwords (2 + (21 - 16) / 2)).toNat / 2 ^ (32 * (21 % 2)) % 2 ^ 32) :=
  ⟨_, _, _, at_eng (.aArg ⟨0, 1, 0, 21, none⟩) id, by decide, rfl⟩
theorem witness_AArg_illegal : ∃ s e, AtEng s e ∧ (9 < 10 ∧ 10 < 16 ∨ 21 < (10 : Nat)) := ⟨_, _, at_eng (.aArg ⟨0, 1, 0, 10, none⟩) id, by decide⟩

theorem witness_EngineBranches_taken : ∃ i off taken s e, engBranch i = some (off, taken) ∧ AtEng s e ∧ taken e :=
  ⟨.aBeq ⟨0, 1, 2, -3⟩, _, _, _, _, rfl, at_eng (.aBeq ⟨0, 1, 2, -3⟩) id, rfl⟩
theorem witness_EngineBranches_not : ∃ i off taken s e, engBranch i = some (off, taken) ∧ AtEng s e ∧ ¬ taken e :=
  ⟨.aBlt ⟨0, 1, 2, -3⟩, _, _, _, _, rfl, at_eng (.aBlt ⟨0, 1, 2, -3⟩) id, by decide⟩
/-- x1 = 6 counts up to 7, below x2 = 8 or not below x2 = 7. -/
def loopAt (n : Word) (k : Chan) : Chan := { k with x := [(1, 6), (2, n)] }
def oLoop : OpsAB := ⟨0, 1, 2, -3⟩
theorem witness_ALoop_back : ∃ s e a, AtEng s e ∧ a = e.x (oLoop.a.zeroExtend 7) + 1 ∧
    a.toNat < (if oLoop.a = oLoop.b then a else e.x (oLoop.b.zeroExtend 7)).toNat :=
  ⟨_, _, 7, at_eng (.aLoop oLoop) (loopAt 8), by decide, by decide⟩
theorem witness_ALoop_on : ∃ s e a, AtEng s e ∧ a = e.x (oLoop.a.zeroExtend 7) + 1 ∧
    (if oLoop.a = oLoop.b then a else e.x (oLoop.b.zeroExtend 7)).toNat ≤ a.toNat :=
  ⟨_, _, 7, at_eng (.aLoop oLoop) (loopAt 7), by decide, by decide⟩

/-- The record's completion action: dword 0. -/
def recAct (n : Nat) (k : Chan) : Chan := { k with dwords := [BitVec.ofNat 64 (n * 2 ^ 60), 0, 0, 0, 0, 0, 0, 0x30000#64] }
theorem witness_ChannelFaults : ∃ (s : State) (c code : Nat), code ≠ 0x14 ∧ bitsOf (dw (s.chan c).dwords 0) 62 60 ≠ 3 :=
  ⟨engState (.aTrap ⟨0, 7⟩) (recAct 2) id, 0, 0x60, by decide, by decide +kernel⟩
theorem witness_ChannelFaults_future : ∃ (s : State) (c code : Nat) (x : Xlat), code ≠ 0x14 ∧ bitsOf (dw (s.chan c).dwords 0) 62 60 = 3 ∧
    (s.chan c).ph = .run ∧ code ≠ 0x23 ∧ s.futXlat (s.chan c).part (BitVec.ofNat 64 (bitsOf (dw (s.chan c).dwords 7) 51 0)) = .ok x ∧
    s.poisoned (.glob x.pa) 8 = false ∧ futEmpty (s.dword x.pa) :=
  have h : okB ((engState (.aTrap ⟨0, 7⟩) (recAct 3) id).futXlat 0 0x30000#64) (fun x => decide ((engState (.aTrap ⟨0, 7⟩) (recAct 3) id).poisoned (.glob x.pa) 8 = false ∧
      (engState (.aTrap ⟨0, 7⟩) (recAct 3) id).dword x.pa = 0)) = true := by
    decide +kernel
  have ⟨x, h1, h2⟩ := ok_and h
  ⟨engState (.aTrap ⟨0, 7⟩) (recAct 3) id, 0, 0x60, x, by decide, by decide +kernel, rfl, by decide, h1, (of_decide_eq_true h2).1, ((of_decide_eq_true h2).2 : _ = _)⟩

theorem witness_TdStep : ∃ i o f s e t, tdRule i = some (o, f) ∧ AtEng s e ∧ f e o (tdOf (sget e.ch.td o.d.toNat)) = some t :=
  ⟨.tdStep oE, _, _, _, _, ⟨0, 0, 0, 0⟩, rfl, at_eng (.tdStep oE) id, by decide +kernel⟩
/-- The greatest coordinate steps on. -/
theorem witness_TdStep_over : ∃ i o f s e, tdRule i = some (o, f) ∧ AtEng s e ∧ f e o (tdOf (sget e.ch.td o.d.toNat)) = none :=
  ⟨.tdStep oE, _, _, _, _, rfl, at_eng (.tdStep oE) (fun k => { k with x := [(2, 1)], td := [(1, (0x7FFFFFFF#256) <<< 128)] }),
    by decide +kernel⟩
/-- The first reserved element size. -/
theorem witness_TdDim_bad : ∃ i o f s e, tdRule i = some (o, f) ∧ AtEng s e ∧ f e o (tdOf (sget e.ch.td o.d.toNat)) = none :=
  ⟨.tdDim oE, _, _, _, _, rfl, at_eng (.tdDim oE) (fun k => { k with x := [(2, 0x2800000000000000#64)] }), by decide +kernel⟩

/-- x1, x2 and x3 for loads and moves. -/
def moveAt (n : Word) (k : Chan) : Chan := { k with x := [(1, 0x22000#64), (2, 0x21000#64), (3, n)] }
theorem witness_ALdx : ∃ (s : State) (e : ECtx) (runs : List (List (Loc × Nat))) (s1 : State), AtEng s e ∧
    (e.advance s).engineX e.ch [⟨.reg, (e.x oE.a).toInt + (e.x oE.b).toInt * 8, 8, .load, 1⟩] = .ok (runs, s1) :=
  have ⟨⟨r, s1⟩, h, _⟩ := ok_and (e := ((engCtx (.aLdx .n64 oE) (moveAt 2)).advance (engState (.aLdx .n64 oE) (moveAt 2) id)).engineX
    (engCtx (.aLdx .n64 oE) (moveAt 2)).ch [⟨.reg, 0x21010, 8, .load, 1⟩]) (P := fun _ => true) (by decide +kernel)
  ⟨_, _, r, s1, at_eng (.aLdx .n64 oE) (moveAt 2), h⟩
theorem witness_MvBytes : ∃ (s : State) (e : ECtx) (src dst : List (Loc × Nat)) (s1 : State), AtEng s e ∧ ((e.x oE.b).toNat ≤ 2 ^ 32 ∧
    (e.x oE.a).toInt + (e.x oE.b).toNat < 2 ^ 63 ∧ (e.x oE.d).toInt + (e.x oE.b).toNat < 2 ^ 63) ∧
    (e.advance s).engineX e.ch [⟨.reg, (e.x oE.a).toInt, (e.x oE.b).toNat, .load, 1⟩, ⟨.reg, (e.x oE.d).toInt, (e.x oE.b).toNat, .store, 1⟩] =
      .ok ([src, dst], s1) :=
  have ⟨⟨r, s1⟩, h, h2⟩ := ok_and (e := ((engCtx (.mvBytes oE) (moveAt 5)).advance (engState (.mvBytes oE) (moveAt 5) id)).engineX
    (engCtx (.mvBytes oE) (moveAt 5)).ch [⟨.reg, 0x21000, 5, .load, 1⟩, ⟨.reg, 0x22000, 5, .store, 1⟩])
    (P := fun y => decide (y.1 = [y.1.getD 0 [], y.1.getD 1 []])) (by decide +kernel)
  ⟨_, _, _, _, s1, at_eng (.mvBytes oE) (moveAt 5), by decide, by rw [← of_decide_eq_true h2]; exact h⟩

/-- Tensors of 2-byte elements, 8 wide and 4 high, at 0x21000 and 0x22000; a tile of 1 by 2 at the last column, so that one
element is pad. -/
def tileChan (k : Chan) : Chan := { k with
  x := [(3, 0x100000002#64)]
  td := [(1, (0x0800000040000008#64 ++ 0x0#64 ++ 0x10#64 ++ 0x22000#64 : BitVec 256)),
    (2, (0x0800000040000008#64 ++ 0x7#64 ++ 0x10#64 ++ 0x21000#64 : BitVec 256))] }
theorem witness_MvTile : ∃ (i : Instr) (o : OpsG) (f : ECtx → OpsG → List ElemMove) (s : State) (e : ECtx) (runs : List (List (Loc × Nat))) (s1 : State) (l : List ElemMove),
    elemMoves i = some (o, f) ∧ AtEng s e ∧ moveOk i e o ∧ l = f e o ∧ (e.advance s).engineX e.ch
      ((l.map fun m => (⟨(e.td o.a).space, m.1.getD 0, if m.1.isSome then (e.td o.a).esize else 0, .load, 1⟩ : AAcc)) ++
       l.map fun m => (⟨(e.td o.d).space, m.2.getD 0, if m.2.isSome then (e.td o.a).esize else 0, .store, 1⟩ : AAcc)) = .ok (runs, s1) ∧
    l.length = 2 ∧ (l.filter fun m => m.1.isNone).length = 1 :=
  have ⟨⟨r, s1⟩, h, _⟩ := ok_and (e := ((engCtx (.mvTile oE) tileChan).advance (engState (.mvTile oE) tileChan id)).engineX
    (engCtx (.mvTile oE) tileChan).ch [⟨.glob, 0x2100E, 2, .load, 1⟩, ⟨.glob, 0, 0, .load, 1⟩, ⟨.glob, 0x22000, 2, .store, 1⟩, ⟨.glob, 0x22002, 2, .store, 1⟩])
    (P := fun _ => true) (by decide +kernel)
  ⟨.mvTile oE, _, _, _, _, r, s1, _, rfl, at_eng (.mvTile oE) tileChan, ⟨by decide +kernel, by decide +kernel⟩, rfl, h, by decide +kernel, by decide +kernel⟩

/-- A multicast of 16 bytes to the ring of core 0 at 0x24000, of two slots of 16 bytes; `n` credits are left. -/
def mcChan (n : Nat) (k : Chan) : Chan := { k with
  x := [(1, 0x23000#64), (2, 0x21000#64), (3, 16)]
  mc := some ⟨0x23000, [1, 0x0100000000024000#64, 0, 0, 0, 0, 0, 0], [n, 0, 0, 0]⟩ }
def theMc (n : Nat) : Multicast := ⟨0x23000, [1, 0x0100000000024000#64, 0, 0, 0, 0, 0, 0], [n, 0, 0, 0]⟩
def McMet (n : Nat) (Q : State → ECtx → Prop) : Prop := ∃ (s : State) (e : ECtx) (m : Multicast), AtEng s e ∧ e.ch.mc = some m ∧ m = theMc n ∧
  m.desc = (e.x oE.d).toNat ∧
  ordersBad e.ch [⟨.glob, (e.x oE.d).toInt, 64, .load, 64⟩, ⟨.reg, (e.x oE.a).toInt, (e.x oE.b).toNat, .load, 1⟩] = none ∧ (e.x oE.d).toNat % 64 = 0 ∧ (∀ r ∈ groupRings m.dwords, (e.x oE.b).toNat ≤ 2 ^ r.2.lsize) ∧ Q s e

theorem witness_MvMc_waits : McMet 0 fun _ _ => ∃ r ∈ groupRings (theMc 0).dwords, (theMc 0).credits.getD r.1 0 = 0 :=
  ⟨_, _, theMc 0, at_eng (.mvMc oE) (mcChan 0), rfl, rfl, by decide +kernel, by decide +kernel, by decide +kernel, by decide +kernel, by decide +kernel⟩

/-- The ring of core 0 as the group names it. -/
def mcRing : List (Nat × Ring) := groupRings (theMc 1).dwords
/-- What an MV.MC with a credit of every receiver needs, from its evaluation. -/
def McFull (s : State) (e : ECtx) : Prop := ∃ (slots : List (Ring × Nat)) (runs : List (List (Loc × Nat))) (s1 s2 : State),
    (∀ r ∈ groupRings (theMc 1).dwords, (theMc 1).credits.getD r.1 0 ≠ 0) ∧ (e.advance s).nextSlots e.ch.part (groupRings (theMc 1).dwords) = .ok slots ∧
    (e.advance s).engineX e.ch (⟨.reg, (e.x oE.a).toInt, (e.x oE.b).toNat, .load, 1⟩ ::
      slots.map fun r => ⟨.glob, r.1.slotAddr r.2, (e.x oE.b).toNat, .store, 1⟩) = .ok (runs, s1) ∧
    e.postAll (((runs.drop 1).foldl (fun (s : State) r => s.writeRuns e.ch.writer r (s1.readRuns e.die (runs.headD [])))
      (s1.claimAll e (theMc 1) (groupRings (theMc 1).dwords))).countBytes e ((e.x oE.b).toNat * (groupRings (theMc 1).dwords).length)) slots = .ok s2
theorem mc_full (s : State) (e : ECtx) (h0 : ∀ r ∈ groupRings (theMc 1).dwords, (theMc 1).credits.getD r.1 0 ≠ 0)
    (h : okB ((e.advance s).nextSlots e.ch.part mcRing) (fun slots => okB ((e.advance s).engineX e.ch (⟨.reg, (e.x oE.a).toInt, (e.x oE.b).toNat, .load, 1⟩ ::
      slots.map fun r => ⟨.glob, r.1.slotAddr r.2, (e.x oE.b).toNat, .store, 1⟩)) fun y =>
        match e.postAll (((y.1.drop 1).foldl (fun (s : State) r => s.writeRuns e.ch.writer r (y.2.readRuns e.die (y.1.headD [])))
          (y.2.claimAll e (theMc 1) mcRing)).countBytes e ((e.x oE.b).toNat * mcRing.length)) slots with
        | .ok _ => true
        | _ => false) = true) : McFull s e := by
  obtain ⟨slots, h1, h2⟩ := ok_and h
  obtain ⟨⟨runs, s1⟩, h3, h4⟩ := ok_and h2
  split at h4
  · rename_i s2 hs
    exact ⟨slots, runs, s1, s2, h0, h1, h3, hs⟩
  · cases h4
theorem witness_MvMc : McMet 1 McFull :=
  ⟨_, _, theMc 1, at_eng (.mvMc oE) (mcChan 1), rfl, rfl, by decide +kernel, by decide +kernel, by decide +kernel, by decide +kernel,
    mc_full _ _ (by decide +kernel) (by decide +kernel)⟩

/-- A ring of four slots of 512 bytes at 0x21000, whose slot 3 has this byte. -/
def eRing : OpsG := ⟨0, 0, 2, 0, none⟩
def postState (byte3 : Nat) : State := engState (.aPost eRing) (fun k => { k with table := 0x20000, x := [(2, 0x21800#64)] }) (ringMem false 0 byte3)
def postCtx : ECtx := engCtx (.aPost eRing) fun k => { k with table := 0x20000, x := [(2, 0x21800#64)] }
def PostMet (full : Bool) : Prop := ∃ (s : State) (e : ECtx) (r : Ring) (s1 : State) (x : Xlat) (k : Nat) (b : Byte), AtEng s e ∧
  (e.advance s).ring e.ch.part e.die (BitVec.ofNat 64 e.ch.table) eRing.b.toNat false = .ok (r, s1) ∧ s1.ringMem e.ch.part r = .ok x ∧ k < r.slots ∧
  (e.x eRing.a).toNat = r.base + 512 + k * 2 ^ r.lsize ∧ b = s1.slotByte x.pa k ∧ b.toNat < 4 ∧ s1.poisoned (.glob (x.pa + 64 + k)) 1 = false ∧ b.getLsbD 0 = full ∧
  ∀ p ∈ s.msys.ports, p.die ≠ e.die
theorem post_met (byte3 : Nat) (full : Bool) (h : okB ((postCtx.advance (postState byte3)).ring 0 postCtx.die 0x20000#64 0 false) (fun y => okB (y.2.ringMem 0 y.1) fun x =>
    decide (3 < y.1.slots ∧ 0x21800 = y.1.base + 512 + 3 * 2 ^ y.1.lsize ∧ (y.2.slotByte x.pa 3).toNat < 4 ∧ y.2.poisoned (.glob (x.pa + 64 + 3)) 1 = false ∧ (y.2.slotByte x.pa 3).getLsbD 0 = full)) = true) :
    PostMet full :=
  have ⟨⟨r, s1⟩, h1, h2⟩ := ok_and h
  have ⟨x, h3, h4⟩ := ok_and h2
  have h5 := of_decide_eq_true h4
  ⟨postState byte3, postCtx, r, s1, x, 3, _, ⟨rfl, rfl⟩, h1, h3, h5.1, h5.2.1, rfl, h5.2.2.1, h5.2.2.2.1, h5.2.2.2.2, fun p hp => by cases (show p ∈ [] from hp)⟩
theorem witness_APost : PostMet false := post_met 2 _ (by decide +kernel)
theorem witness_APost_full : PostMet true := post_met 3 _ (by decide +kernel)

/-- The barrier at 0x30000 of `barState`: x2 names it, x3 is the greatest addend. -/
def eBar : OpsG := ⟨0, 1, 2, 3, none⟩
def eBarState (i : Instr) (r : Nat) : State := engState i (fun k => { k with x := [(2, 0x30000#64), (3, 0x7FFFFFFFF#64)] })
  (withDwords [(0x30000, BitVec.ofNat 64 (r * 2 ^ 36)), (0x30008, 2)])
def eBarCtx (i : Instr) : ECtx := engCtx i fun k => { k with x := [(2, 0x30000#64), (3, 0x7FFFFFFFF#64)] }
def EBarMet (P : Word → Prop) : Prop := ∃ (s : State) (e : ECtx) (x : Xlat), AtEng s e ∧ (e.advance s).objXlat e.ch.part (e.x eBar.a) .atomic = .ok x ∧
  ((e.x eBar.a).toNat < 2 ^ 52 ∧ (e.x eBar.a).toNat % 16 = 0) ∧ (s.poisoned (.glob x.pa) 16 = false ∧ (s.dword x.pa).toNat / 2 ^ 60 % 8 = 0 ∧ (s.dword (x.pa + 8)).toNat / 2 ^ 25 = 0 ∧
    barExp (s.dword (x.pa + 8)) ≠ 0 ∧ P (s.dword x.pa)) ∧
  ∀ p ∈ s.msys.ports, p.die ≠ e.die
theorem eBar_met (i : Instr) (r : Nat) (P : Word → Prop) [DecidablePred P] (h0 : AtEng (eBarState i r) (eBarCtx i))
    (h1 : ((eBarCtx i).x eBar.a).toNat < 2 ^ 52 ∧ ((eBarCtx i).x eBar.a).toNat % 16 = 0)
    (h : okB (((eBarCtx i).advance (eBarState i r)).objXlat (eBarCtx i).ch.part ((eBarCtx i).x eBar.a) .atomic) (fun x => decide
      ((eBarState i r).poisoned (.glob x.pa) 16 = false ∧ ((eBarState i r).dword x.pa).toNat / 2 ^ 60 % 8 = 0 ∧ ((eBarState i r).dword (x.pa + 8)).toNat / 2 ^ 25 = 0 ∧
        barExp ((eBarState i r).dword (x.pa + 8)) ≠ 0 ∧ P ((eBarState i r).dword x.pa))) = true) : EBarMet P :=
  have ⟨x, h2, h3⟩ := ok_and h
  ⟨_, _, x, h0, h2, h1, of_decide_eq_true h3, fun p hp => by cases (show p ∈ [] from hp)⟩
theorem witness_AArrive : EBarMet fun d0 => 0 + 1 = barRem d0 := eBar_met (.aArrive eBar) 1 _ ⟨rfl, rfl⟩ (by decide +kernel) (by decide +kernel)
theorem witness_AExpect : EBarMet fun d0 => (0x7FFFFFFFF : Nat) < 2 ^ 35 ∧ barPend d0 + 0x7FFFFFFFF < 2 ^ 35 :=
  eBar_met (.aExpect eBar) 1 _ ⟨rfl, rfl⟩ (by decide +kernel) (by decide +kernel)

/-- An arrival at a .dev barrier while the die's port holds a write. -/
theorem witness_AArrive_port : ∃ (s : State) (e : ECtx) (x : Xlat), AtEng s e ∧ (e.advance s).objXlat e.ch.part (e.x eBar.a) .atomic = .ok x ∧
    ((e.x eBar.a).toNat < 2 ^ 52 ∧ (e.x eBar.a).toNat % 16 = 0) ∧ (s.poisoned (.glob x.pa) 16 = false ∧ (s.dword x.pa).toNat / 2 ^ 60 % 8 = 0 ∧
      (s.dword (x.pa + 8)).toNat / 2 ^ 25 = 0 ∧ barExp (s.dword (x.pa + 8)) ≠ 0 ∧ (s.dword (x.pa + 8)).getLsbD 24 = true) ∧
    ∃ p ∈ s.msys.ports, p.die = e.die :=
  let s := ((eBarState (.aArrive eBar) 1).setDword 0x30008 0x1000002#64).setMsys { (eBarState (.aArrive eBar) 1).msys with ports := [aHeld] }
  have h : okB (((eBarCtx (.aArrive eBar)).advance s).objXlat 0 0x30000#64 .atomic) (fun x => decide (s.poisoned (.glob x.pa) 16 = false ∧
    (s.dword x.pa).toNat / 2 ^ 60 % 8 = 0 ∧ (s.dword (x.pa + 8)).toNat / 2 ^ 25 = 0 ∧ barExp (s.dword (x.pa + 8)) ≠ 0 ∧
    (s.dword (x.pa + 8)).getLsbD 24 = true)) = true := by decide +kernel
  have ⟨x, h2, h3⟩ := ok_and h
  ⟨s, eBarCtx (.aArrive eBar), x, ⟨rfl, rfl⟩, h2, by decide +kernel, of_decide_eq_true h3, aHeld, .head _, by decide +kernel⟩

def ResolveMet (Q : Word → Prop) : Prop := ∃ (s : State) (e : ECtx) (x : Xlat), AtEng s e ∧ (e.advance s).futXlat e.ch.part (e.x eBar.a) = .ok x ∧
  (e.x eBar.a).toNat < 2 ^ 52 ∧ s.poisoned (.glob x.pa) 8 = false ∧ Q (s.dword x.pa) ∧ ∀ p ∈ s.msys.ports, p.die ≠ e.die
def resState (w : Word) : State := engState (.aResolve eBar) (fun k => { k with x := [(2, 0x30000#64)] }) (withDwords [(0x30000, w)])
def resCtx : ECtx := engCtx (.aResolve eBar) fun k => { k with x := [(2, 0x30000#64)] }
theorem resolve_met (w : Word) (Q : Word → Prop) [DecidablePred Q]
    (h : okB ((resCtx.advance (resState w)).futXlat 0 0x30000#64) (fun x => decide ((resState w).poisoned (.glob x.pa) 8 = false ∧ Q ((resState w).dword x.pa))) = true) : ResolveMet Q :=
  have ⟨x, h2, h3⟩ := ok_and h
  ⟨resState w, resCtx, x, ⟨rfl, rfl⟩, h2, by decide +kernel, (of_decide_eq_true h3).1, (of_decide_eq_true h3).2, fun p hp => by cases (show p ∈ [] from hp)⟩
theorem witness_AResolve : ResolveMet futEmpty := resolve_met 0 (fun w => w = 0) (by decide +kernel)
theorem witness_AResolve_waiters : ResolveMet futWaiting :=
  resolve_met 0x4000010000000401#64 (fun w => w.toNat / 2 ^ 62 = 1 ∧ w.toNat / 2 ^ 40 % 2 ^ 22 ≠ 0 ∧ w.toNat % 2 ^ 40 ≠ 0) (by decide +kernel)
theorem witness_AResolve_twice : ResolveMet futDone :=
  resolve_met 0xC000000000000000#64 (fun w => 2 ≤ w.toNat / 2 ^ 62 ∧ w.toNat / 2 ^ 40 % 2 ^ 22 = 0) (by decide +kernel)

/-- A slot of a .dev ring, and a future, while the die's port holds a write. -/
theorem witness_APost_port : ∃ (s : State) (e : ECtx) (r : Ring) (s1 : State) (x : Xlat) (b : Byte), AtEng s e ∧
    (e.advance s).ring e.ch.part e.die (BitVec.ofNat 64 e.ch.table) eRing.b.toNat false = .ok (r, s1) ∧ s1.ringMem e.ch.part r = .ok x ∧ 3 < r.slots ∧
    (e.x eRing.a).toNat = r.base + 512 + 3 * 2 ^ r.lsize ∧ b = s1.slotByte x.pa 3 ∧ b.toNat < 4 ∧ s1.poisoned (.glob (x.pa + 64 + 3)) 1 = false ∧ b.getLsbD 0 = false ∧ r.dev = true ∧
    ∃ p ∈ s.msys.ports, p.die = e.die :=
  let s := ((postState 2).setDword 0x20018 0x1090003#64).setMsys { (postState 2).msys with ports := [aHeld] }
  have h : okB ((postCtx.advance s).ring 0 postCtx.die 0x20000#64 0 false) (fun y => okB (y.2.ringMem 0 y.1) fun x =>
    decide (3 < y.1.slots ∧ 0x21800 = y.1.base + 512 + 3 * 2 ^ y.1.lsize ∧ (y.2.slotByte x.pa 3).toNat < 4 ∧ y.2.poisoned (.glob (x.pa + 64 + 3)) 1 = false ∧ (y.2.slotByte x.pa 3).getLsbD 0 = false ∧
      y.1.dev = true)) = true := by decide +kernel
  have ⟨⟨r, s1⟩, h1, h2⟩ := ok_and h
  have ⟨x, h3, h4⟩ := ok_and h2
  have h5 := of_decide_eq_true h4
  ⟨s, postCtx, r, s1, x, _, ⟨rfl, rfl⟩, h1, h3, h5.1, h5.2.1, rfl, h5.2.2.1, h5.2.2.2.1, h5.2.2.2.2.1, h5.2.2.2.2.2, aHeld, .head _, by decide +kernel⟩
theorem witness_AResolve_port : ∃ (s : State) (e : ECtx) (x : Xlat), AtEng s e ∧ (e.advance s).futXlat e.ch.part (e.x eBar.a) = .ok x ∧
    (e.x eBar.a).toNat < 2 ^ 52 ∧ s.poisoned (.glob x.pa) 8 = false ∧ futEmpty (s.dword x.pa) ∧ ∃ p ∈ s.msys.ports, p.die = e.die :=
  let s := (resState 0).setMsys { (resState 0).msys with ports := [aHeld] }
  have h : okB ((resCtx.advance s).futXlat 0 0x30000#64) (fun x => decide (s.poisoned (.glob x.pa) 8 = false ∧ s.dword x.pa = 0)) = true := by decide +kernel
  have ⟨x, h2, h3⟩ := ok_and h
  ⟨s, resCtx, x, ⟨rfl, rfl⟩, h2, by decide +kernel, (of_decide_eq_true h3).1, ((of_decide_eq_true h3).2 : _ = _), aHeld, .head _, by decide +kernel⟩

/-! ### Hypotheses of the statements on every word -/

/-- What the word at the cursor knows, where `P` holds, whatever stands before it. -/
def standsFor (i : Instr) (s : State) (P : Sig → WCtx → Bool) : Bool := match i.sig, s.cur with
  | some g, .wave wid pid hdr hword idx next => match aget s.waves wid with
    | some w => match w.path pid with
      | some p => decide (w.id = wid) && decide (p.id = pid) && P g (s.wctx w p g hdr hword idx next)
      | none => false
    | none => false
  | _, _ => false

theorem stands_met {i : Instr} {s : State} {P : Sig → WCtx → Bool} (h : standsFor i s P = true) : ∃ g c, AtWord i g s c ∧ P g c = true := by
  unfold standsFor at h
  split at h
  · rename_i g wid pid hdr hword idx next hg hc
    split at h
    · rename_i w hw
      split at h
      · rename_i p hp
        simp only [Bool.and_eq_true, decide_eq_true_eq] at h
        obtain ⟨⟨h1, h2⟩, h3⟩ := h
        subst h1; subst h2
        exact ⟨g, s.wctx w p g hdr hword idx next, ⟨hg, hc, hw, hp, rfl⟩, h3⟩
      · cases h
    · cases h
  · cases h

/-- YIELD in a twin. -/
theorem witness_Checks_twin : ∃ g s c, AtWord (.yield ⟨0, 0⟩) g s c ∧ (decide (g.cls ≠ .eng) && c.w.twin.isSome && stallsTwin (.yield ⟨0, 0⟩) g) = true :=
  have ⟨g, c, h⟩ := stands_met (i := .yield ⟨0, 0⟩) (s := standing (.yield ⟨0, 0⟩) (fun w => { w with twin := some plainTwin }) id)
    (P := fun g c => decide (g.cls ≠ .eng) && c.w.twin.isSome && stallsTwin (.yield ⟨0, 0⟩) g) (by decide)
  ⟨g, _, c, h⟩

/-- v8 in a wave of 8 vector registers. -/
def iHigh : Instr := .add .i32 ⟨0, 0, 8, 1, none, none⟩
theorem witness_Checks_range : ∃ g s c, AtWord iHigh g s c ∧ (decide (g.cls ≠ .eng) && !c.w.twin.isSome &&
    (sigFields g).any fun f => fldTooHigh f c.w.vregs c.w.sregs) = true :=
  have ⟨g, c, h⟩ := stands_met (i := iHigh) (s := standing iHigh (fun w => { w with vregs := 8 }) id)
    (P := fun g c => decide (g.cls ≠ .eng) && !c.w.twin.isSome && (sigFields g).any fun f => fldTooHigh f c.w.vregs c.w.sregs) (by decide)
  ⟨g, _, c, h⟩

def RoleMet (i : Instr) (P : Sig → WCtx → Bool) : Prop := ∃ g s c, AtWord i g s c ∧ (decide (g.cls ≠ .eng) && !c.w.twin.isSome &&
  ((sigFields g).all fun f => !fldTooHigh f c.w.vregs c.w.sregs) && P g c) = true
theorem role_met (i : Instr) (f : Wave → Wave) (P : Sig → WCtx → Bool) (h : standsFor i (standing i f id) (fun g c => decide (g.cls ≠ .eng) && !c.w.twin.isSome &&
    ((sigFields g).all fun x => !fldTooHigh x c.w.vregs c.w.sregs) && P g c) = true) : RoleMet i P :=
  have ⟨g, c, h1⟩ := stands_met h
  ⟨g, _, c, h1⟩

/-- MX.FREEZE in a vector-role wave. -/
theorem witness_Checks_role : RoleMet (.mxFreeze ⟨0, 0, 0, 0, none⟩) fun g c => !roleRuns (.mxFreeze ⟨0, 0, 0, 0, none⟩) g c.w.role :=
  role_met _ (fun w => { w with launch := [(139, 32#64), (149, 3#64)] }) _ (by decide)
/-- A source that is still owed, under stallcheck. -/
def iStall : Instr := .add .i32 ⟨0, 4, 5, 6, none, none⟩
theorem witness_Checks_stall : RoleMet iStall fun g c => roleRuns iStall g c.w.role && c.w.stallcheck && (sigReads g).any fun r => c.w.owed c.t r :=
  role_met _ (fun w => { w with ops := [⟨3, some 0, 0, 1, 0, false, .done, [], [.v 5], [], 0⟩], launch := [(139, 32#64), (153, 2#64)] }) _ (by decide)
/-- A full counter. -/
def iFull : Instr := .ldG .n64 .v ⟨0, 4, 5, 0, none⟩
theorem witness_Checks_full : RoleMet iFull fun g c => roleRuns iFull g c.w.role && !c.w.stallcheck &&
    (g.ctr.any fun k => decide (63 ≤ c.w.ctr.getD k 0)) := role_met _ (fun w => { w with ctr := [63, 0, 0, 0, 0, 0] }) _ (by decide)
/-- Lane 0, which the mask names, is parked behind the word. -/
def iShfl : Instr := .shflUp ⟨0, 4, 5, 1, none, none⟩
theorem witness_Checks_parked : RoleMet iShfl fun g c => roleRuns iShfl g c.w.role && !c.w.stallcheck && crossLane iShfl &&
    decide (maskLanes c.w c.t c.fresh c.w.parked c.pfx ≠ 0) :=
  role_met _ (fun w => { w with paths := ⟨1, 1, 0x20000, 1, none, .parked 0, false, false, 0⟩ :: w.paths.map fun p => { p with lanes := 2 } }) _ (by decide)
/-- An engine word in a wave's clause. -/
theorem witness_Checks_engine : ∃ g s c, AtWord (.aHalt ⟨0, 0⟩) g s c ∧ decide (g.cls = .eng) = true :=
  have ⟨g, c, h⟩ := stands_met (i := .aHalt ⟨0, 0⟩) (s := standing (.aHalt ⟨0, 0⟩) id id) (P := fun g _ => decide (g.cls = .eng)) (by decide)
  ⟨g, _, c, h⟩

/-- The last opcode. -/
theorem witness_Unassigned : assignedOpc (opcodeOf 0x3FFFFFFF#32) = false := by decide
theorem witness_Unassigned_entries : ∃ x : Words, 0x1B0 ≤ opcodeOf x.word ∧ opcodeOf x.word ≤ 0x1DD ∧ assignedOpc (opcodeOf x.word) = true :=
  ⟨⟨none, 0x3600C082, none⟩, by decide⟩
theorem witness_Unassigned_wave : ∃ (s : State) (wid pid hdr : Nat) (hword : BitVec 32) (idx next : Nat) (x : Wave) (p : Path),
    s.cur = .wave wid pid hdr hword idx next ∧ aget s.waves wid = some x ∧ x.path pid = some p :=
  ⟨before (.unassignedEntry 0x3FFFFFFF), 0, 0, _, _, _, _, _, _, rfl, rfl, rfl⟩
theorem witness_Unassigned_engine : ∃ (i : Instr) (s : State) (c hdr : Nat) (hword : BitVec 32) (idx next : Nat),
    s.cur = .chan c hdr hword idx next ∧ ((∃ w, i = .unassignedEntry w) ∨ ∃ g, i.sig = some g ∧ g.cls ≠ .eng) :=
  ⟨iStall, engState (.aHalt ⟨0, 0⟩) id id, _, _, _, _, _, rfl, .inr ⟨_, rfl, by decide⟩⟩

theorem witness_DecodingUndoesEncoding : ∃ (i : Instr) (g : Sig), i.sig = some g ∧ i.wf = true := ⟨.lea 3 ⟨2, 10, 2, 3, none, none⟩, _, rfl, by decide⟩

/-! ### Hypotheses of the statement on a step -/

/-- A word stands before the usual wave. -/
def fetched (w : BitVec 32) : State := State.reset.withFetchWord 32 w.toNat
/-- Path `p` of wave `x` is ready with a word, and what comes before it stands as `Q` says. -/
def StepMet (Q : State → Wave → Path → BitVec 32 → Nat → Prop) : Prop := ∃ (s s0 : State) (rest : List Turn) (w pid : Nat) (x : Wave) (p : Path) (cl : Clause) (words : Words)
    (next : Nat) (i : Instr), s.turns = .issue w pid :: rest ∧ s0 = { s with turns := rest } ∧ aget s.waves w = some x ∧ x.path pid = some p ∧
    p.clause = some cl ∧ x.mayRun p = true ∧ (∀ t, x.twin = some t → t.held = none) ∧ s0.frozenPart x = false ∧ s0.scheduled x = true ∧
    (p.idx = 1 → ∀ k, k < 6 → hdrWaits cl.hdr k = true → x.ctr.getD k 0 = 0) ∧ cl.next p.idx = .words words next ∧
    decode (.wave (hdrClass cl.hdr) (cl.restLit next)) words = .ok i ∧ Q s0 x p words.word (max s.clock x.ready)
/-- ADD.I32 v5, v5, v6. -/
def addWord : BitVec 32 := 0x00414286
/-- The usual wave, in slot `n`, with c0 at `k`. -/
def slotted (w : BitVec 32) (n k : Nat) : Wave := { loadWave w with slot := n, ctr := [k, 0, 0, 0, 0, 0] }
/-- Its path. -/
def itsPath (w : BitVec 32) : Path := ⟨0, widthMask 32, loadAt, 1, some (loadClause w), .run, false, true, 0⟩
theorem step_met (w : BitVec 32) (i : Instr) (h : State → State) (n k : Nat) (Q : State → Wave → Path → BitVec 32 → Nat → Prop)
    (ht : (h (fetched w)).turns = [.issue 0 0]) (hw : aget (h (fetched w)).waves 0 = some (slotted w n k))
    (hn : (loadClause w).next 1 = .words ⟨none, w, none⟩ 2) (hd : decode (.wave (hdrClass (loadClause w).hdr) ((loadClause w).restLit 2)) ⟨none, w, none⟩ = .ok i)
    (hc : ∀ k, k < 6 → hdrWaits (loadClause w).hdr k = false) (hm : (slotted w n k).mayRun (itsPath w) = true)
    (hs : ({ h (fetched w) with turns := [] } : State).frozenPart (slotted w n k) = false ∧
      ({ h (fetched w) with turns := [] } : State).scheduled (slotted w n k) = true)
    (hq : Q { h (fetched w) with turns := [] } (slotted w n k) (itsPath w) w (max (h (fetched w)).clock 0)) : StepMet Q :=
  ⟨h (fetched w), _, [], 0, 0, slotted w n k, itsPath w, loadClause w, _, 2, i, ht, rfl, hw, rfl, rfl, hm, nofun, hs.1, hs.2,
    fun _ j hj hk => absurd hk (by rw [hc j hj]; decide), hn, hd, hq⟩
/-- What `step_met` asks of a word, for this one. -/
theorem add_met (h : State → State) (n : Nat) (Q : State → Wave → Path → BitVec 32 → Nat → Prop) (ht : (h (fetched addWord)).turns = [.issue 0 0])
    (hw : aget (h (fetched addWord)).waves 0 = some (slotted addWord n 0)) (hs : ({ h (fetched addWord) with turns := [] } : State).frozenPart (slotted addWord n 0) = false ∧
      ({ h (fetched addWord) with turns := [] } : State).scheduled (slotted addWord n 0) = true)
    (hm : (slotted addWord n 0).mayRun (itsPath addWord) = true)
    (hq : Q { h (fetched addWord) with turns := [] } (slotted addWord n 0) (itsPath addWord) addWord (max (h (fetched addWord)).clock 0)) : StepMet Q :=
  step_met addWord (.add .i32 ⟨0, 5, 5, 6, none, none⟩) h n 0 Q ht hw rfl (by decide) (by decide) hm hs hq

theorem witness_Step_word : StepMet fun s x p w t => (s.part x.part).breaks.contains p.hdr = false ∧
    (∀ g, (Decode.build w none none).sig = some g → x.atCeiling g = false) ∧ s.portFree x (wordPort w) t = true ∧ s.portPicks x (wordPort w) t = true :=
  add_met id 0 _ rfl rfl (by decide +kernel) (by decide +kernel) ⟨by decide +kernel, fun g h => by cases h; decide +kernel, by decide +kernel, by decide +kernel⟩
/-- The port has issued at this clock. -/
theorem witness_Step_port : StepMet fun s x _ w t => s.portFree x (wordPort w) t = false :=
  add_met (fun s => s.modCore 0 fun k => { k with ports := [(0, 1)] }) 0 _ rfl rfl (by decide +kernel) (by decide +kernel) (by decide +kernel)
/-- A wave in a lower slot is ready with a word for the port. -/
theorem witness_Step_other : StepMet fun s x _ w t => s.portFree x (wordPort w) t = true ∧ s.portPicks x (wordPort w) t = false :=
  add_met (fun s => { s with waves := [(0, slotted addWord 1 0), (1, { slotted addWord 0 0 with id := 1 })] }) 1 _ rfl rfl (by decide +kernel) (by decide +kernel)
    (by decide +kernel)
/-- A breakpoint stands at the header. -/
theorem witness_Step_break : StepMet fun s x p _ _ => p.idx = 1 ∧ p.head = true ∧ (s.part x.part).breaks.contains p.hdr = true :=
  add_met (fun s => s.modPart 0 fun p => { p with breaks := [loadAt] }) 0 _ rfl rfl (by decide +kernel) (by decide +kernel) (by decide +kernel)
/-- LD.G v4, [v5] with c0 full. -/
def ldWord : BitVec 32 := ((encode iLdv).getD ⟨none, 0, none⟩).word
theorem witness_Step_ceiling : StepMet fun _ x _ w _ => ∃ g, (Decode.build w none none).sig = some g ∧ x.atCeiling g = true :=
  step_met ldWord iLdv (fun s => { s with waves := [(0, slotted ldWord 0 63)] }) 0 63 _ rfl rfl (by decide +kernel) (by decide +kernel)
    (by decide +kernel) (by decide +kernel) (by decide +kernel) ⟨_, rfl, by decide +kernel⟩
/-- A.HALT stands before channel 0. -/
def fetchedEng : State := State.reset.withFetchWord 32 ((encode (.aHalt ⟨0, 0⟩)).getD ⟨none, 0, none⟩).word.toNat
theorem witness_Step_engine : ∃ (s : State) (rest : List Turn) (c : Nat) (cl : Clause) (words : Words) (next : Nat) (i : Instr),
    s.turns = .chan c :: rest ∧ ((s.chan c).st = .running ∨ (s.chan c).st = .waiting) ∧
    (s.chan c).ph = .run ∧ (s.chan c).halt = .none ∧ (s.chan c).clause = some cl ∧ cl.next (s.chan c).idx = .words words next ∧ words.pfx = none ∧
    decode (.engine (cl.restLit next)) words = .ok i ∧
    (∀ e ∈ s.chans, e.1 / 4 = c / 4 → e.2.issued ≠ s.clock + 1) ∧ ({ s with turns := rest } : State).enginePicks c = true :=
  ⟨fetchedEng, [], 0, _, _, _, .aHalt ⟨0, 0⟩, rfl, .inl rfl, rfl, rfl, rfl, rfl, rfl, by decide, by decide +kernel, by decide +kernel⟩
/-- Another channel of its engine has issued at this clock. -/
theorem witness_Step_engine_busy : ∃ (s : State) (rest : List Turn) (c : Nat), s.turns = .chan c :: rest ∧ (s.chan c).st = .running ∧
    ∃ e ∈ s.chans, e.1 / 4 = c / 4 ∧ e.2.issued = s.clock + 1 :=
  ⟨{ fetchedEng with chans := fetchedEng.chans ++ [(1, { Chan.reset with issued := 1 })] }, [], 0, rfl, rfl, (1, { Chan.reset with issued := 1 }), by decide +kernel⟩
theorem witness_Step_event : ∃ (s : State) (rest : List Turn) (i : Instr) (a : EvArg), s.turns = .event i a :: rest ∧ i.sig = none ∧ ∀ w, i ≠ .unassignedEntry w :=
  ⟨{ State.reset with turns := [.event .voltageDroop (.die 0 800)] }, [], .voltageDroop, .die 0 800, rfl, rfl, nofun⟩
theorem witness_Step_usual : ∃ (s : State) (t : Turn), s.turns = [] ∧ (s.pass 1).usual = some t :=
  ⟨{ fetched addWord with turns := [] }, .issue 0 0, rfl, by decide +kernel⟩

theorem witness_MemoryStaysCanonical : ∃ s t : State, s.memWf = true ∧ step s = .next t := ⟨State.reset, _, by decide, rfl⟩

theorem witness_RegisterWordsComplete : ∃ i g s c, registerWord i = true ∧ i.wf = true ∧ AtWord i g s c ∧ Clear i g c :=
  have ⟨g, s, c, h⟩ := word_met (.fdiv .f64 ⟨0, 4, 5, 6, none, none⟩) (by decide)
  ⟨.fdiv .f64 ⟨0, 4, 5, 6, none, none⟩, g, s, c, rfl, by decide, h⟩

/-! ### Hypotheses of the statements on events -/

/-- The loaded machine with an event's operands at the cursor, changed by `h`. -/
def ev (a : EvArg) (h : State → State) : State := event0 a id h

theorem witness_PowerCapWrite : ∃ (s : State) (x : Word), s.cur = .event (.word x) ∧ s.hw.ready = true := ⟨ev (.word 500) id, 500, rfl, rfl⟩

/-- A die whose clock stands one step above 1.2 GHz, with one reason held. -/
def aMon : Monitor := { Monitor.reset with fstep := 13, reason := 1, trip := 1 }
def monState (w : Nat) : State := ev (.die 2 w) fun s => { s with hw := { s.hw with mons := aset s.hw.mons 2 aMon } }
theorem witness_PowerCapStep_over : ∃ (s : State) (d w : Nat) (m : Monitor), aget s.hw.mons d = some m ∧ s.cur = .event (.die d w) ∧ s.hw.cap < w :=
  ⟨monState 4801, 2, 4801, aMon, rfl, rfl, by decide⟩
theorem witness_PowerCapStep_within : ∃ (s : State) (d w : Nat) (m : Monitor), aget s.hw.mons d = some m ∧ s.cur = .event (.die d w) ∧ w ≤ s.hw.cap :=
  ⟨monState 4800, 2, 4800, aMon, rfl, rfl, by decide⟩
theorem witness_ThermalWarning : ∃ (s : State) (d t : Nat) (m : Monitor), aget s.hw.mons d = some m ∧ s.cur = .event (.die d t) ∧ 760 ≤ t :=
  ⟨monState 760, 2, 760, aMon, rfl, rfl, by decide⟩
/-- A warned die between 93 and 95 °C. -/
theorem witness_ThermalWarning_held : ∃ (s : State) (d t : Nat) (m : Monitor), aget s.hw.mons d = some m ∧ s.cur = .event (.die d t) ∧
    (744 ≤ t ∧ t < 760 ∧ m.reason.testBit 0 = true) := ⟨monState 744, 2, 744, aMon, rfl, rfl, by decide⟩
theorem witness_ThermalWarningEnd : ∃ (s : State) (d t : Nat) (m : Monitor), aget s.hw.mons d = some m ∧ s.cur = .event (.die d t) ∧ t < 744 :=
  ⟨monState 743, 2, 743, aMon, rfl, rfl, by decide⟩
theorem witness_MemoryError : ∃ (s : State) (pa n : Nat), localMem pa = true ∧ 0 < n ∧ s.cur = .event (.read pa n) ∧ ∃ m, aget s.hw.mons (homeDie pa) = some m :=
  ⟨ev (.read 0x22010 40) id, 0x22010, 40, by decide, by decide, rfl, Monitor.reset, by decide⟩
theorem witness_FileError : ∃ (s : State) (w : Nat) (x : Wave) (b : Block) (g : Grid), aget s.waves w = some x ∧ x.id = w ∧ x.twin = none ∧ s.away x.part = false ∧
    aget s.blocks x.block = some b ∧ b.killed = false ∧ aget s.grids b.grid = some g ∧ g.id = b.grid ∧ g.kern.idem = false ∧ g.ended = false ∧ g.fault = none ∧
    s.cur = .event (.wave w) := ⟨ev (.wave 0) fun s => { s with waves := [(0, loadWave 0)] }, 0, loadWave 0, loadBlock, loadGrid, rfl, rfl, rfl, by decide +kernel, rfl, rfl, rfl, rfl, rfl,
      rfl, rfl, rfl⟩
theorem witness_Droop : ∃ (s : State) (d v : Nat) (m : Monitor), aget s.hw.mons d = some m ∧ s.cur = .event (.die d v) ∧ v * 100 < 95 * Config.nominalVcore :=
  ⟨monState 0, 2, 0, aMon, rfl, rfl, by unfold Config.nominalVcore; omega⟩
/-- 1 µs after the droop, at 100 MHz × 13, and just before. -/
def afterDroop (n : Word) : State := { monState 700 with time := { (monState 700).time with elapsed := n } }
theorem witness_DroopEnd : ∃ (s : State) (d v : Nat) (m : Monitor), aget s.hw.mons d = some m ∧ s.cur = .event (.die d v) ∧
    33000 ≤ (s.time.elapsed - m.droop).toNat * m.fstep := ⟨afterDroop 2539, 2, 700, aMon, rfl, rfl, by decide⟩
theorem witness_DroopEnd_early : ∃ (s : State) (d v : Nat) (m : Monitor), aget s.hw.mons d = some m ∧ s.cur = .event (.die d v) ∧
    (s.time.elapsed - m.droop).toNat * m.fstep < 33000 := ⟨afterDroop 2538, 2, 700, aMon, rfl, rfl, by decide⟩
/-- A saved partition whose image has an error. -/
theorem witness_ImageError : ∃ (s : State) (p : Nat), (s.part p).stage = .saved ∧ s.cur = .event (.part p) ∧ (s.part p).imageBad = true ∧ s.placesFree p = true :=
  ⟨ev (.part 0) fun s => s.setPart 0 { loadPart with stage := .saved, imageBad := true }, 0, rfl, rfl, rfl, by decide +kernel⟩
theorem witness_CriticalTrip : ∃ (s : State) (d t p : Nat) (m : Monitor) (q : Part), aget s.hw.mons d = some m ∧ s.cur = .event (.die d t) ∧ 920 ≤ t ∧
    aget s.parts p = some q ∧ q.state = 1 := ⟨monState 920, 2, 920, 0, aMon, loadPart, rfl, rfl, by decide, rfl, by decide⟩

/-- Time 5,000,000 and a client in state `st`. -/
def timeState (a : EvArg) (st : Word) : State := ev a fun s => { s with time := { s.time with dev := 5000000, status := st } }
theorem witness_PtpPortWrite : ∃ (s : State) (x : Word), s.cur = .event (.word x) ∧ clientState s = 1 := ⟨timeState (.word 0x800) 0x801, 0x800, rfl, by decide⟩
theorem witness_PtpLock_first : ∃ (s : State) (x : Word), s.cur = .event (.word x) ∧ clientState s = 0 := ⟨timeState (.word 9) 0, 9, rfl, by decide⟩
theorem witness_PtpLock_far : ∃ (s : State) (x : Word) (far : Bool), s.cur = .event (.word x) ∧ clientState s = 2 ∧
    far = decide (1000000 < min (x - s.time.dev).toNat (s.time.dev - x).toNat) ∧ far = true := ⟨timeState (.word 6000001) 2, 6000001, true, rfl, by decide, by decide, rfl⟩
theorem witness_PtpLock_near : ∃ (s : State) (x : Word) (far : Bool), s.cur = .event (.word x) ∧ clientState s = 2 ∧
    far = decide (1000000 < min (x - s.time.dev).toNat (s.time.dev - x).toNat) ∧ far = false := ⟨timeState (.word 6000000) 2, 6000000, false, rfl, by decide, by decide, rfl⟩
theorem witness_PtpHoldover : ∃ (s : State) (a : EvArg), s.cur = .event a ∧ clientState s = 1 := ⟨timeState .none 1, .none, rfl, by decide⟩

theorem witness_RegisterWrite_context : ∃ (s : State) (p off : Nat) (x : Word), p < 32 ∧ off < 0x80 ∧ off % 8 = 0 ∧
    (off < 0x18 ∨ ∀ e ∈ (s.part p).queues, e.2.live = false) ∧ s.cur = .event (.reg (.page p off) x) :=
  ⟨ev (.reg (.page 0 0x78) 5) id, 0, 0x78, 5, by decide, by decide, by decide, .inr (by decide), rfl⟩
theorem witness_RegisterWrite_refused : ∃ (s : State) (p off : Nat) (x : Word), p < 32 ∧ 0x18 ≤ off ∧ off < 0x80 ∧
    (∃ e ∈ (s.part p).queues, e.2.live = true) ∧ s.cur = .event (.reg (.page p off) x) :=
  ⟨ev (.reg (.page 0 0x18) 5) (fun s => s.setPart 0 { loadPart with queues := [(0, { Queue.reset with st := .idle })] }), 0, 0x18, 5, by decide, by decide, by decide,
    by decide, rfl⟩
theorem witness_RegisterWrite_unready : ∃ (s : State) (off : Nat) (x : Word), s.hw.ready = false ∧ s.cur = .event (.reg (.module off) x) :=
  ⟨ev (.reg (.module 0) 5) (fun s => { s with hw := Module.reset }), 0, 5, rfl, rfl⟩
/-- The dword of the warm reset, while bring-up goes on. -/
theorem witness_RegisterWrite_bringup : ∃ (s : State) (x : Word), s.hw.ready = false ∧ s.hw.fwerr = false ∧ s.hw.memerr = false ∧
    s.cur = .event (.reg (.module 8) x) := ⟨ev (.reg (.module 8) 1) (fun s => { s with hw := Module.reset }), 1, rfl, rfl, rfl, rfl⟩
theorem witness_RegisterWrite_num : ∃ (s : State) (x : Word), s.hw.ready = true ∧ s.cur = .event (.reg (.module 0) x) ∧ ∀ e ∈ s.parts, e.2.state = 0 :=
  ⟨ev (.reg (.module 0) 5) (fun s => { s with parts := [] }), 5, rfl, rfl, nofun⟩
theorem witness_RegisterWrite_import : ∃ (s : State) (k : Nat) (x : Word), k < 128 ∧ s.hw.ready = true ∧ s.cur = .event (.reg (.module (0x2000 + 8 * k)) x) :=
  ⟨ev (.reg (.module 0x23F8) 5) id, 127, 5, by decide, rfl, rfl⟩
theorem witness_DebugRead_break : ∃ (s : State) (p a : Nat) (k : Bool), s.cur = .event (.brk p a k) := ⟨ev (.brk 0 0x10000 true) id, 0, _, true, rfl⟩
theorem witness_DebugRead : ∃ (s : State) (a : EvArg), s.cur = .event a := ⟨ev (.reg (.module 0) 0) id, _, rfl⟩

/-- Vector 3 masked, and its event pending or not. -/
def vecState (pend : Nat) : State := ev (.queue 0 3) fun s => s.setPart 0 { loadPart with pend := pend }
theorem witness_VectorMaskClear : ∃ (s : State) (p v : Nat), v < 4 ∧ s.cur = .event (.queue p v) ∧
    ((s.part p).pend.testBit v && (sget (s.part p).vecs (2 * v + 1)).getLsbD 63) = true := ⟨vecState 8, 0, 3, by decide, rfl, by decide⟩
theorem witness_VectorMaskClear_none : ∃ (s : State) (p v : Nat), v < 4 ∧ s.cur = .event (.queue p v) ∧
    ((s.part p).pend.testBit v && (sget (s.part p).vecs (2 * v + 1)).getLsbD 63) = false := ⟨vecState 7, 0, 3, by decide, rfl, by decide⟩

theorem witness_HostWrite_memory : ∃ (s : State) (a : Nat) (bs : List Byte) (pa : Nat), hostAt a = .memory pa ∧ region pa ≠ .hole ∧ s.cur = .event (.write a bs) :=
  ⟨ev (.write 0x1000000020000 [1, 2]) id, 0x1000000020000, [1, 2], 0x20000, by decide, by decide, rfl⟩
theorem witness_HostWrite_register : ∃ (s : State) (a : Nat) (x : Word) (r : RegAddr), hostAt a = .reg r a ∧ a % 8 = 0 ∧ s.cur = .event (.write a (bytesOf 8 x.toNat)) :=
  ⟨ev (.write 0x3000 (bytesOf 8 5)) id, 0x3000, 5, .module 0x3000, by decide, by decide, rfl⟩
theorem witness_HostRead_poison : ∃ (s : State) (a n pa p : Nat), s.cur = .event (.read a n) ∧ hostAt a = .memory pa ∧ s.poisoned (.glob pa) n = true ∧ s.ownerOf pa = some p :=
  ⟨ev (.read 0x1000000020000 8) (fun s => s.setMsys { s.msys with poison := [0x1000] }), 0x1000000020000, 8, 0x20000, 0, rfl, by decide, by decide, by decide⟩
theorem witness_HostRead : ∃ (s : State) (a n pa : Nat), s.cur = .event (.read a n) ∧ hostAt a = .memory pa ∧ s.poisoned (.glob pa) n = false :=
  ⟨ev (.read 0x1000000020000 8) id, 0x1000000020000, 8, 0x20000, rfl, by decide, by decide⟩

/-- One import entry: the first GiB, for module 5 alone. -/
def importState (m : Nat) (op : CinchOp) : State := ev (.cinch m 0x3FFFFFFC op) fun s =>
  { s with hw := { s.hw with imports := [(0, 0x0010000000000000#64), (1, 0x105#64)] } }
theorem witness_Cinch_store : ∃ (s : State) (m pa : Nat) (bs : List Byte), s.cur = .event (.cinch m pa (.store bs)) ∧ s.imported m pa bs.length = true :=
  ⟨importState 5 (.store [1, 2, 3, 4]), 5, 0x3FFFFFFC, [1, 2, 3, 4], rfl, by decide⟩
theorem witness_Cinch_discarded : ∃ (s : State) (m pa : Nat) (bs : List Byte), s.cur = .event (.cinch m pa (.store bs)) ∧ s.imported m pa bs.length = false :=
  ⟨importState 5 (.store [1, 2, 3, 4, 5]), 5, 0x3FFFFFFC, [1, 2, 3, 4, 5], rfl, by decide⟩
theorem witness_Cinch_atom : ∃ (s : State) (m pa n : Nat) (f : AtomFn) (x y : Word) (v : Nat), (n = 4 ∨ n = 8) ∧ s.cur = .event (.cinch m pa (.atom f n x y)) ∧
    s.imported m pa n = true ∧ atomicResult f n (ofBytes (s.bytes (.glob pa) n)) x.toNat y.toNat = some v :=
  ⟨importState 5 (.atom .cas 4 0 1), 5, 0x3FFFFFFC, 4, .cas, 0, 1, 1, .inl rfl, rfl, by decide, by decide⟩
theorem witness_Cinch_atom_refused : ∃ (s : State) (m pa n : Nat) (f : AtomFn) (x y : Word), (n = 4 ∨ n = 8) ∧ s.cur = .event (.cinch m pa (.atom f n x y)) ∧
    s.imported m pa n = false := ⟨importState 4 (.atom .xchg 4 1 0), 4, 0x3FFFFFFC, 4, .xchg, 1, 0, .inl rfl, rfl, by decide⟩
theorem witness_Cinch_load : ∃ (s : State) (m pa n : Nat), s.cur = .event (.cinch m pa (.load n)) := ⟨importState 5 (.load 4), 5, _, 4, rfl⟩
theorem witness_CinchPortFail : ∃ (s : State) (n : Nat), n < 36 ∧ s.cur = .event (.port n) := ⟨ev (.port 35) id, 35, by decide, rfl⟩

/-- Flow 255: a ring of 64-byte slots of partition 0; on or off. -/
def flowState (lsize : Nat) (on : Bool) (n : Nat) : State := ev (.flow n 0x21000#64) fun s => { s with hw := { s.hw with
  flows := [(8 * n, if on then 0x8000000000021000#64 else 0), (8 * n + 1, BitVec.ofNat 64 (lsize * 2 ^ 51))] } }
theorem witness_FlowEnable_on : ∃ (s : State) (n : Nat) (x : Word), 1 ≤ n ∧ n ≤ 255 ∧ s.cur = .event (.flow n x) ∧ (s.flowDw n 0).getLsbD 63 = true :=
  ⟨flowState 6 true 1, 1, 0x21000#64, by decide, by decide, rfl, by decide⟩
theorem witness_FlowEnable_bad : ∃ (s : State) (n : Nat) (x : Word), 1 ≤ n ∧ n ≤ 255 ∧ s.cur = .event (.flow n x) ∧ (s.flowDw n 0).getLsbD 63 = false ∧
    s.flowBad n (setBit x 63 true) = true := ⟨flowState 5 false 255, 255, 0x21000#64, by decide, by decide, rfl, by decide, by decide⟩
theorem witness_FlowEnable : ∃ (s : State) (n : Nat) (x : Word), 1 ≤ n ∧ n ≤ 255 ∧ s.cur = .event (.flow n x) ∧ (s.flowDw n 0).getLsbD 63 = false ∧
    s.flowBad n (setBit x 63 true) = false := ⟨flowState 6 false 255, 255, 0x21000#64, by decide, by decide, rfl, by decide, by decide⟩
theorem witness_FlowDisable : ∃ (s : State) (n : Nat) (x : Word), 1 ≤ n ∧ n ≤ 255 ∧ s.cur = .event (.flow n x) :=
  ⟨flowState 6 true 255, 255, 0x21000#64, by decide, by decide, rfl⟩

/-! #### Frames -/

/-- Flow 1 of partition 0 takes every frame of port 0, into the ring of `ringMem` with 512-byte slots. -/
def frameIn (f : List Byte) (on : Bool) (count byte3 : Nat) : State := ev (.frame 0 f) fun s => ringMem false count byte3 { s with hw := { s.hw with
  flows := [(8, if on then 0x8200000000021000#64 else 0), (9, BitVec.ofNat 64 (3 * 2 ^ 56 + 9 * 2 ^ 51))] } }
def aFrame : List Byte := List.replicate 14 0
theorem witness_FrameArrival_unmatched : ∃ (s : State) (port : Nat) (f : List Byte), f.length ≤ 9216 ∧ s.cur = .event (.frame port f) ∧
    s.flowFor port f = none := ⟨frameIn aFrame false 7 2, 0, aFrame, by decide, rfl, by decide +kernel⟩

def FrameMet9 (full : Bool) (Q : State → Prop) : Prop := ∃ (s : State) (port : Nat) (f : List Byte) (n : Nat) (s0 : State) (p base : Nat) (x : Xlat) (c : Word) (slots : Nat)
  (m : State) (b : Byte), f.length ≤ 9216 ∧ s.cur = .event (.frame port f) ∧ s.flowFor port f = some n ∧ n ∉ s.hw.muted ∧
    s0 = { s with hw := { s.hw with flows := sset s.hw.flows (8 * n + 3) (s.flowDw n 3 + 1) } } ∧
    p = (s.flowDw n 0).toNat / 2 ^ 58 % 32 ∧ base = (s.flowDw n 0).toNat / 512 % 2 ^ 43 * 512 ∧
    s0.objXlat p (BitVec.ofNat 64 base) .atomic = .ok x ∧ s0.poisoned (.glob x.pa) 8 = false ∧ c = s0.dword x.pa ∧ slots = (s.flowDw n 1).toNat / 2 ^ 56 + 1 ∧
    m = (s0.touch p x true).setDword x.pa (c + 1) ∧ b = m.slotByte x.pa (c.toNat % slots) ∧ b.toNat < 4 ∧ m.poisoned (.glob (x.pa + 64 + c.toNat % slots)) 1 = false ∧ b.getLsbD 0 = full ∧
    (full = false → b.getLsbD 1 = decide (c.toNat / slots % 2 = 1) ∧ ∃ s2 : State,
      m.writeVia p (BitVec.ofNat 64 (base + 512 + c.toNat % slots * 2 ^ ((s.flowDw n 1).toNat / 2 ^ 51 % 32)))
        (slotBytes port f s.time.dev (s.flowDw n 3 + 1) (s.flowDw n 4) ((s.flowDw n 1).toNat / 2 ^ 51 % 32)) .store 0 = .ok s2) ∧ Q s

def frameBase (s : State) : State := { s with hw := { s.hw with flows := sset s.hw.flows 11 (s.flowDw 1 3 + 1) } }
def frameB (s : State) (full : Bool) : Bool := okB ((frameBase s).objXlat 0 0x21000#64 .atomic) fun x =>
  let m := ((frameBase s).touch 0 x true).setDword x.pa ((frameBase s).dword x.pa + 1)
  let k := ((frameBase s).dword x.pa).toNat % 4
  let b := m.slotByte x.pa k
  decide ((frameBase s).poisoned (.glob x.pa) 8 = false ∧ b.toNat < 4 ∧ m.poisoned (.glob (x.pa + 64 + k)) 1 = false ∧ b.getLsbD 0 = full ∧ (full = false → b.getLsbD 1 = decide (((frameBase s).dword x.pa).toNat / 4 % 2 = 1))) &&
    okB (m.writeVia 0 (BitVec.ofNat 64 (0x21200 + k * 2 ^ 9)) (slotBytes 0 aFrame s.time.dev (s.flowDw 1 3 + 1) (s.flowDw 1 4) 9) .store 0) fun _ => true

theorem frame_in (s : State) (full : Bool) (h : frameB s full = true) (hc : s.cur = .event (.frame 0 aFrame)) (hf : s.flowFor 0 aFrame = some 1)
    (hm : 1 ∉ s.hw.muted) (hp : 0 = (s.flowDw 1 0).toNat / 2 ^ 58 % 32) (hb : 0x21000 = (s.flowDw 1 0).toNat / 512 % 2 ^ 43 * 512)
    (hl : (s.flowDw 1 1).toNat / 2 ^ 51 % 32 = 9) (hs : 4 = (s.flowDw 1 1).toNat / 2 ^ 56 + 1) : FrameMet9 full fun _ => True := by
  obtain ⟨x, h1, h2⟩ := ok_and h
  obtain ⟨h3, h4⟩ := both h2
  obtain ⟨s2, h5, _⟩ := ok_and h4
  have h6 := of_decide_eq_true h3
  refine ⟨s, 0, aFrame, 1, frameBase s, 0, 0x21000, x, (frameBase s).dword x.pa, 4,
    ((frameBase s).touch 0 x true).setDword x.pa ((frameBase s).dword x.pa + 1), _, by decide, hc, hf, hm, rfl, hp, hb, h1, h6.1, rfl, hs, rfl, rfl, h6.2.1, h6.2.2.1, h6.2.2.2.1,
    fun hb => ⟨h6.2.2.2.2 hb, s2, ?_⟩, trivial⟩
  rw [hl]
  exact h5
theorem witness_FrameArrival : FrameMet9 false fun _ => True := frame_in (frameIn aFrame true 7 2) _
  (by decide +kernel) rfl (by decide +kernel) (by decide +kernel) (by decide +kernel) (by decide +kernel) (by decide +kernel) (by decide +kernel)
theorem witness_FrameArrival_dropped : FrameMet9 true fun _ => True := frame_in (frameIn aFrame true 7 1) _
  (by decide +kernel) rfl (by decide +kernel) (by decide +kernel) (by decide +kernel) (by decide +kernel) (by decide +kernel) (by decide +kernel)

/-- A flow that its partition's reset has muted. -/
theorem witness_FrameArrival_muted : ∃ (s : State) (port n : Nat) (f : List Byte), f.length ≤ 9216 ∧ s.cur = .event (.frame port f) ∧
    s.flowFor port f = some n ∧ n ∈ s.hw.muted :=
  ⟨{ frameIn aFrame true 7 2 with hw := { (frameIn aFrame true 7 2).hw with muted := [1] } }, 0, 1, aFrame, by decide, rfl, by decide +kernel, by decide⟩

/-! #### Queues -/

/-- Partition 0 with one queue, a fault ring at 0x60000 or none, and a region for frames at 0x80000. -/
def qPart (ring : Bool) (q : Queue) : Part := { loadPart with
  entry := loadPart.entry ++ [(9, 1)]
  ctx := [(3, if ring then 0x60000#64 else 0), (4, 4), (5, 0x80000#64), (9, 0x100#64), (13, 1), (15, 0x40000000#64)]
  queues := [(0, q)] }
/-- A queue descriptor: a ring of 16 packets at 0x50000, records at 0x51000, and all addresses as its window. -/
def qDesc (n : Nat) : List Word := [BitVec.ofNat 64 (0x50000 + n), 0x4000000000000000#64, 0x51004, 0, 0x40000000#64, 3, 4, 0]
def putDwords (a : Nat) (l : List Word) (s : State) : State := (l.zipIdx).foldl (fun (s : State) e => s.setDword (a + 8 * e.2) e.1) s
def qState (a : EvArg) (ring : Bool) (q : Queue) (at_ : Nat) (l : List Word) : State := ev a fun s => putDwords at_ l { s with parts := [(0, qPart ring q)] }

def enState (ring : Bool) (n : Nat) (desc : Word) : State := qState (.queue 0 0) ring { Queue.reset with desc := desc } 0x22000 (qDesc n)
theorem witness_QueueEnable_noRing : ∃ (s : State) (p j : Nat), (s.part p).hasQueue j = true ∧ (s.part p).state = 1 ∧ (s.queue p j).st = .disabled ∧
    s.cur = .event (.queue p j) ∧ (s.part p).fringOk = false :=
  ⟨enState false 4 0x22000, 0, 0, by decide +kernel, by decide +kernel, by decide +kernel, rfl, by decide +kernel⟩
def EnableMet (bad : Bool) : Prop := ∃ (s : State) (p j : Nat) (d : List Word) (s1 : State), (s.part p).hasQueue j = true ∧ (s.part p).state = 1 ∧
  (s.queue p j).st = .disabled ∧ s.cur = .event (.queue p j) ∧ (s.part p).fringOk = true ∧
  s.hRead p ((s.part p).qdie j) ((s.queue p j).desc.toNat / 64 % 2 ^ 46 * 64) 8 = .ok (d, s1) ∧ qdescBad d = bad
theorem enable_met (n : Nat) (bad : Bool) (h : okB ((enState true n 0x22000).hRead 0 0 0x22000 8) (fun y => decide (qdescBad y.1 = bad)) = true)
    (h1 : ((enState true n 0x22000).part 0).hasQueue 0 = true ∧ ((enState true n 0x22000).part 0).state = 1 ∧ ((enState true n 0x22000).queue 0 0).st = .disabled ∧
      ((enState true n 0x22000).part 0).fringOk = true ∧ ((enState true n 0x22000).part 0).qdie 0 = 0) (h2 : (enState true n 0x22000).cur = .event (.queue 0 0))
    (h3 : ((enState true n 0x22000).queue 0 0).desc.toNat / 64 % 2 ^ 46 * 64 = 0x22000) : EnableMet bad :=
  have ⟨⟨d, s1⟩, h4, h5⟩ := ok_and h
  ⟨_, 0, 0, d, s1, h1.1, h1.2.1, h1.2.2.1, h2, h1.2.2.2.1, by rw [h1.2.2.2.2, h3]; exact h4, of_decide_eq_true h5⟩
theorem witness_QueueEnable : EnableMet false := enable_met 4 _ (by decide +kernel) (by decide +kernel) (by decide +kernel) (by decide +kernel)
/-- A ring of 8 packets. -/
theorem witness_QueueEnable_malformed : EnableMet true := enable_met 3 _ (by decide +kernel) (by decide +kernel) (by decide +kernel) (by decide +kernel)

def hPage (e : Except HErr (List Word × State)) : Bool := match e with
  | .error (.page _) => true
  | _ => false
theorem hPage_met {e : Except HErr (List Word × State)} (h : hPage e = true) : ∃ a, e = .error (.page a) := by
  unfold hPage at h
  split at h
  · exact ⟨_, rfl⟩
  · cases h
/-- A descriptor beyond the mapped gigabyte. -/
theorem witness_QueueEnable_parks : ∃ (s : State) (p j : Nat) (a : Word), (s.part p).hasQueue j = true ∧ (s.part p).state = 1 ∧ (s.queue p j).st = .disabled ∧
    s.cur = .event (.queue p j) ∧ (s.part p).fringOk = true ∧ s.hRead p ((s.part p).qdie j) ((s.queue p j).desc.toNat / 64 % 2 ^ 46 * 64) 8 = .error (.page a) :=
  have ⟨a, h⟩ := hPage_met (e := (enState true 4 0x40000000#64).hRead 0 (((enState true 4 0x40000000#64).part 0).qdie 0) (((enState true 4 0x40000000#64).queue 0 0).desc.toNat / 64 % 2 ^ 46 * 64) 8) (by decide +kernel)
  ⟨enState true 4 0x40000000#64, 0, 0, a, by decide +kernel, by decide +kernel, by decide +kernel, rfl, by decide +kernel, h⟩

/-- A queue in some state. -/
def stState (a : EvArg) (q : Queue) : State := qState a true q 0x22000 []
theorem witness_QueueEnable_enabled : ∃ (s : State) (p j : Nat), (s.queue p j).st ≠ .disabled ∧ s.cur = .event (.queue p j) :=
  ⟨stState (.queue 0 0) { Queue.reset with st := .idle }, 0, 0, by decide, rfl⟩
theorem witness_QueueDisable : ∃ (s : State) (p j : Nat), s.cur = .event (.queue p j) ∧ ((s.queue p j).st = .idle ∨ (s.queue p j).st = .active ∨ (s.queue p j).st = .parked) :=
  ⟨stState (.queue 0 0) { Queue.reset with st := .parked }, 0, 0, rfl, by decide⟩
theorem witness_QueueDisable_atOnce : ∃ (s : State) (p j : Nat), s.cur = .event (.queue p j) ∧ (s.queue p j).st = .active ∧ (s.queue p j).gang = [] ∧
    ¬ ((s.queue p j).st = .parked ∧ (s.queue p j).left = .decode) :=
  ⟨stState (.queue 0 0) { Queue.reset with st := .active }, 0, 0, rfl, by decide, by decide, by decide⟩
theorem witness_QueueDisable_decoding : ∃ (s : State) (p j : Nat), s.cur = .event (.queue p j) ∧ (s.queue p j).st = .parked ∧ (s.queue p j).left = .decode :=
  ⟨stState (.queue 0 0) { Queue.reset with st := .parked }, 0, 0, rfl, by decide, by decide⟩
/-- A queue parked at a completion record's write, and one at a launch record's. -/
theorem witness_QueueDisable_record : ∃ (s : State) (p j : Nat), s.cur = .event (.queue p j) ∧ (s.queue p j).st = .parked ∧ (s.queue p j).gang = [] ∧
    (s.queue p j).left = .record := ⟨stState (.queue 0 0) { Queue.reset with st := .parked, left := .record, seq := 3 }, 0, 0, rfl, by decide, by decide, by decide⟩
theorem witness_QueueDisable_lrec : ∃ (s : State) (p j : Nat), s.cur = .event (.queue p j) ∧ (s.queue p j).st = .parked ∧ (s.queue p j).gang = [] ∧
    (s.queue p j).left = .lrec 0 := ⟨stState (.queue 0 0) { Queue.reset with st := .parked, left := .lrec 0, seq := 3 }, 0, 0, rfl, by decide, by decide, by decide⟩
theorem witness_QueueDisable_not : ∃ (s : State) (p j : Nat), s.cur = .event (.queue p j) ∧ ¬ ((s.queue p j).st = .idle ∨ (s.queue p j).st = .active ∨ (s.queue p j).st = .parked) :=
  ⟨stState (.queue 0 0) { Queue.reset with st := .error }, 0, 0, rfl, by decide⟩
theorem witness_QueueReset : ∃ (s : State) (p j : Nat), s.cur = .event (.queue p j) ∧ ((s.queue p j).st = .error ∨ (s.queue p j).st = .aborted) :=
  ⟨stState (.queue 0 0) { Queue.reset with st := .aborted }, 0, 0, rfl, by decide⟩
theorem witness_QueueReset_not : ∃ (s : State) (p j : Nat), s.cur = .event (.queue p j) ∧ ¬ ((s.queue p j).st = .error ∨ (s.queue p j).st = .aborted) :=
  ⟨stState (.queue 0 0) { Queue.reset with st := .active }, 0, 0, rfl, by decide⟩

def BellMet (n : Nat) (Q : Queue → Prop) : Prop := ∃ (s : State) (p j t : Nat), (s.part p).hasQueue j = true ∧ t < 2 ^ 32 ∧
  n = (t + 2 ^ 32 - (s.queue p j).head) % 2 ^ 32 ∧ (s.queue p j).head < 2 ^ 32 ∧ s.cur = .event (.tail p j t) ∧ Q (s.queue p j)
def bellState (t : Nat) (st : QueueSt) : State := stState (.tail 0 0 t) { Queue.reset with st := st, head := 2 ^ 32 - 1, tail := 2 ^ 32 - 1, kept := qDesc 4 }
/-- The head is about to wrap: the tail meets it, is 16 ahead, or 17. -/
theorem witness_Doorbell_meets : BellMet 0 fun q => q.st = .idle ∨ q.st = .active :=
  ⟨bellState (2 ^ 32 - 1) .active, 0, 0, 2 ^ 32 - 1, by decide +kernel, by decide, by decide +kernel, by decide +kernel, rfl, by decide +kernel⟩
theorem witness_Doorbell_full : BellMet 16 fun q => (q.st = .idle ∨ q.st = .active) ∧ 16 ≠ 0 ∧ 16 ≤ q.slots :=
  ⟨bellState 15 .idle, 0, 0, 15, by decide +kernel, by decide, by decide +kernel, by decide +kernel, rfl, by decide +kernel⟩
theorem witness_Doorbell_over : BellMet 17 fun q => (q.st = .idle ∨ q.st = .active) ∧ q.slots < 17 :=
  ⟨bellState 16 .idle, 0, 0, 16, by decide +kernel, by decide, by decide +kernel, by decide +kernel, rfl, by decide +kernel⟩
theorem witness_Doorbell_other : BellMet 1 fun q => q.st ≠ .idle ∧ q.st ≠ .active :=
  ⟨bellState 0 .parked, 0, 0, 0, by decide +kernel, by decide, by decide +kernel, by decide +kernel, rfl, by decide +kernel⟩

/-! #### Packets -/

/-- A queue at work with this packet before it, and `seeds` seeds on its stack. -/
def pktQueue (seeds : Nat) : Queue := { Queue.reset with st := .active, tail := 1, kept := qDesc 4, seeds := List.replicate seeds (3, 4) }
def pktState (seeds : Nat) (d : List Word) : State := qState (.queue 0 0) true (pktQueue seeds) 0x50000 d

def DecodesMet (n : Nat) (Q : State → List Word → State → Prop) : Prop := ∃ (s : State) (p j : Nat) (d : List Word) (s1 : State), Decodes s p j d n s1 ∧
  s.cur = .event (.queue p j) ∧ p = 0 ∧ j = 0 ∧ Q s d s1

theorem decodes_met (s : State) (n : Nat) (Q : State → List Word → State → Prop) (h0 : s.cur = .event (.queue 0 0))
    (h1 : s.nextQueue ((s.part 0).qnum 0 % 32) = some (0, 0) ∧ (s.part 0).qdie 0 = 0 ∧
      ((s.queue 0 0).tail + 2 ^ 32 - ((s.queue 0 0).head + 1) % 2 ^ 32) % 2 ^ 32 ≤ (s.queue 0 0).slots)
    (h2 : okB (s.hRead 0 0 (s.queue 0 0).packetAt 8) (fun y => decide ((packetBad y.1 = false ∧ payloadBad (s.queue 0 0).cls y.1 = false) ∧
      (dw y.1 0).toNat / 2 ^ 56 = n)) = true) (h3 : ∀ d s1, s.hRead 0 0 (s.queue 0 0).packetAt 8 = .ok (d, s1) → Q s d s1) : DecodesMet n Q :=
  have ⟨⟨d, s1⟩, h4, h5⟩ := ok_and h2
  have h6 := of_decide_eq_true h5
  ⟨s, 0, 0, d, s1, ⟨h1.1, by rw [h1.2.1]; exact h4, h6.1, h6.2, h1.2.2⟩, h0, rfl, rfl, h3 d s1 h4⟩

/-- The last seed that there is room for, and one more. -/
theorem witness_SeedPush : DecodesMet 3 fun s _ _ => (s.queue 0 0).seeds.length < 16 :=
  decodes_met (pktState 15 [0x0300000000000000#64, 7, 8]) 3 _ rfl (by decide +kernel) (by decide +kernel) fun _ _ _ => by decide +kernel
theorem witness_SeedPush_full : DecodesMet 3 fun s _ _ => 16 ≤ (s.queue 0 0).seeds.length :=
  decodes_met (pktState 16 [0x0300000000000000#64, 7, 8]) 3 _ rfl (by decide +kernel) (by decide +kernel) fun _ _ _ => by decide +kernel
theorem witness_SeedPop : DecodesMet 4 fun s _ _ => 2 ≤ (s.queue 0 0).seeds.length :=
  decodes_met (pktState 2 [0x0440000000000000#64]) 4 _ rfl (by decide +kernel) (by decide +kernel) fun _ _ _ => by decide +kernel
theorem witness_SeedPop_last : DecodesMet 4 fun s _ _ => (s.queue 0 0).seeds.length ≤ 1 :=
  decodes_met (pktState 1 [0x0400000000000000#64]) 4 _ rfl (by decide +kernel) (by decide +kernel) fun _ _ _ => by decide +kernel
theorem witness_SeedFork : DecodesMet 5 fun s _ _ => (s.queue 0 0).seeds.length < 16 ∧ ∃ t rest, (s.queue 0 0).seeds = t :: rest :=
  decodes_met (pktState 15 [0x0500000000000000#64, 7]) 5 _ rfl (by decide +kernel) (by decide +kernel) fun _ _ _ => ⟨by decide +kernel, _, _, rfl⟩
theorem witness_SeedFork_full : DecodesMet 5 fun s _ _ => 16 ≤ (s.queue 0 0).seeds.length ∧ ∃ t rest, (s.queue 0 0).seeds = t :: rest :=
  decodes_met (pktState 16 [0x0500000000000000#64, 7]) 5 _ rfl (by decide +kernel) (by decide +kernel) fun _ _ _ => ⟨by decide +kernel, _, _, rfl⟩
theorem witness_Tlbinv : DecodesMet 6 fun _ _ _ => True :=
  decodes_met (pktState 1 [0x0600000000000000#64, 0x20000#64, 0x1000#64]) 6 _ rfl (by decide +kernel) (by decide +kernel) fun _ _ _ => trivial
theorem witness_NopPacket : DecodesMet 7 fun _ _ _ => True :=
  decodes_met (pktState 1 [0x0700000000000000#64]) 7 _ rfl (by decide +kernel) (by decide +kernel) fun _ _ _ => trivial

theorem witness_NopPacket_off : DecodesMet 7 fun s _ _ => (s.queue 0 0).off = true :=
  decodes_met (qState (.queue 0 0) true { pktQueue 1 with off := true } 0x50000 [0x0700000000000000#64]) 7 _ rfl (by decide +kernel) (by decide +kernel)
    fun _ _ _ => by decide +kernel

/-- A LAUNCH of a kernel of one wave, at 0x40000 or beyond the window. -/
def launchDesc (kernel : Word) : List Word := [0x0100123400000000#64, kernel, 0x0000000200010001#64, 0, 0, 0, 0, 0]
def kernelDesc : List Word := [0x10000#64, 0x0020000100010002#64, 0x0808000000000000#64, 1, 0x200000#64]
def launchPkt (kernel : Word) : State := putDwords 0x40000 kernelDesc (pktState 1 (launchDesc kernel))

def errB {α : Type} (e : Decoded α) : Bool := match e with
  | .error (.code _ _) => true
  | _ => false
theorem errB_met {α : Type} {e : Decoded α} (h : errB e = true) : ∃ n off, e = .error (.code n off) := by
  unfold errB at h
  split at h
  · exact ⟨_, _, rfl⟩
  · cases h

theorem witness_Launch_refused : DecodesMet 1 fun _ d s1 => ∃ n off, (taken s1 0 0 d).decodeLaunch 0 0 d = .error (.code n off) :=
  have h : okB ((launchPkt 0x40000000#64).hRead 0 0 ((launchPkt 0x40000000#64).queue 0 0).packetAt 8) (fun y => errB ((taken y.2 0 0 y.1).decodeLaunch 0 0 y.1)) = true := by
    decide +kernel
  decodes_met (launchPkt 0x40000000#64) 1 _ rfl (by decide +kernel) (by decide +kernel) fun d s1 hd => by rw [hd] at h; exact errB_met h

/-- What a LAUNCH's decode finds on its way: the capabilities, the kernel, the frame. -/
def launchOk (s : State) (d : List Word) (s1 : State) : Bool := decide (dw d 4 = 0 ∧ dw d 7 = 0) &&
  okB ((taken s1 0 0 d).checkCaps 0 ((s.part 0).qdie 0) (s.queue 0 0).wbase (s.queue 0 0).wlen ((dw d 1).toNat / 64 % 2 ^ 46 * 64) 8 (dw d 3) 24 0 32) fun s2 =>
    okB (s2.dKernel 0 ((s.part 0).qdie 0) ((dw d 1).toNat / 64 % 2 ^ 46 * 64)) fun y => y.2.blockFits 0 y.1 &&
      (let g := gridOf { launchOf 0 y.1 (dw d 2) (dw d 3) 0 (dw d 6) (dw d 5) ((dw d 0).toNat % 8)
        (y.1.strict || (dw d 0).getLsbD 53 || (s.queue 0 0).strict) ((dw d 0).getLsbD 52) ((s.queue 0 0).seeds.headD (0, 0)) with code := y.2.mem } y.2.nextId
        ((s.part 0).qnum 0 % 32 / 8) 0 0 (s.queue 0 0).gen (s.queue 0 0).head ((dw d 0).toNat / 2 ^ 32 % 2 ^ 16) (s.queue 0 0).cls ((dw d 0).getLsbD 54) none
      decide (g.budget = 0 ∧ g.coop = false) && (({ y.2 with nextId := y.2.nextId + 1 } : State).putGrid g []).isSome)

theorem witness_Launch : DecodesMet 1 fun s d s1 => dw d 4 = 0 ∧ dw d 7 = 0 ∧ ∃ (s2 s3 s5 : State) (k : Kernel) (g : Grid),
    (taken s1 0 0 d).checkCaps 0 ((s.part 0).qdie 0) (s.queue 0 0).wbase (s.queue 0 0).wlen ((dw d 1).toNat / 64 % 2 ^ 46 * 64) 8 (dw d 3) 24 0 32 = .ok s2 ∧
    s2.dKernel 0 ((s.part 0).qdie 0) ((dw d 1).toNat / 64 % 2 ^ 46 * 64) = .ok (k, s3) ∧ s3.blockFits 0 k = true ∧
    g = gridOf { launchOf 0 k (dw d 2) (dw d 3) 0 (dw d 6) (dw d 5) ((dw d 0).toNat % 8)
      (k.strict || (dw d 0).getLsbD 53 || (s.queue 0 0).strict) ((dw d 0).getLsbD 52) ((s.queue 0 0).seeds.headD (0, 0)) with code := s3.mem } s3.nextId
      ((s.part 0).qnum 0 % 32 / 8) 0 0 (s.queue 0 0).gen (s.queue 0 0).head ((dw d 0).toNat / 2 ^ 32 % 2 ^ 16) (s.queue 0 0).cls ((dw d 0).getLsbD 54) none ∧
    (g.budget = 0 ∨ k.units ≤ g.budget) ∧ (g.coop = true → s3.fitsAtOnce g = true) ∧
    ({ s3 with nextId := s3.nextId + 1 } : State).putGrid g [] = some s5 := by
  have h : okB ((launchPkt 0x40000#64).hRead 0 0 ((launchPkt 0x40000#64).queue 0 0).packetAt 8) (fun y => launchOk (launchPkt 0x40000#64) y.1 y.2) = true := by
    decide +kernel
  refine decodes_met (launchPkt 0x40000#64) 1 _ rfl (by decide +kernel) (by decide +kernel) fun d s1 hd => ?_
  rw [hd] at h
  obtain ⟨h1, h2⟩ := both (show launchOk (launchPkt 0x40000#64) d s1 = true from h)
  obtain ⟨s2, h3, h4⟩ := ok_and h2
  obtain ⟨⟨k, s3⟩, h5, h6⟩ := ok_and h4
  obtain ⟨h7, h8⟩ := both h6
  obtain ⟨h9, h10⟩ := both h8
  obtain ⟨s5, h11⟩ := Option.isSome_iff_exists.mp h10
  have h12 := of_decide_eq_true h9
  exact ⟨(of_decide_eq_true h1).1, (of_decide_eq_true h1).2, s2, s3, s5, k, _, h3, h5, h7, rfl, .inl h12.1, fun hc => absurd hc (by rw [h12.2]; nofun), h11⟩

/-- A GANG of one part, its table at 0x23000. -/
def gangDesc : List Word := [0x0200123400000000#64, 0x23000#64, 0x1000000000000000#64]
def gangTable : List Word := [0x40000#64, 0x0000000200010001#64, 0x77, 0, 0, 5, 0, 0]
def gangState : State := putDwords 0x23000 gangTable (putDwords 0x40000 kernelDesc (pktState 1 gangDesc))

def gangOk (s : State) (d : List Word) (s1 : State) : Bool :=
  !outside (s.queue 0 0).wbase (s.queue 0 0).wlen ((dw d 1).toNat / 64 % 2 ^ 46 * 64) (64 * ((dw d 2).toNat / 2 ^ 60) + 32 * ((dw d 2).toNat / 2 ^ 56 % 2 ^ 4)) &&
  okB ((taken s1 0 0 d).dRead 0 ((s.part 0).qdie 0) ((dw d 1).toNat / 64 % 2 ^ 46 * 64) (8 * ((dw d 2).toNat / 2 ^ 60) + 4 * ((dw d 2).toNat / 2 ^ 56 % 2 ^ 4))) fun y =>
    okB (y.2.gangParts 0 ((taken s1 0 0 d).queue 0 0) (dw d 5) ((s.part 0).qnum 0 % 32 / 8) 0 (slices y.1 8 ((dw d 2).toNat / 2 ^ 60))) fun z =>
      decide (z.1.length = 1) && okB (z.2.gangPipes z.1 0 [] (slices (y.1.drop (8 * ((dw d 2).toNat / 2 ^ 60))) 4 ((dw d 2).toNat / 2 ^ 56 % 2 ^ 4))) fun _ => true

theorem witness_Gang : DecodesMet 2 fun s d s1 => ∃ (s2 s3 : State) (t : List Word) (parts : List Launch) (pipes : List Pipe) (a n m : Nat),
    a = (dw d 1).toNat / 64 % 2 ^ 46 * 64 ∧ n = (dw d 2).toNat / 2 ^ 60 ∧ m = (dw d 2).toNat / 2 ^ 56 % 2 ^ 4 ∧
    outside (s.queue 0 0).wbase (s.queue 0 0).wlen a (64 * n + 32 * m) = false ∧
    (taken s1 0 0 d).dRead 0 ((s.part 0).qdie 0) a (8 * n + 4 * m) = .ok (t, s2) ∧
    s2.gangParts 0 ((taken s1 0 0 d).queue 0 0) (dw d 5) ((s.part 0).qnum 0 % 32 / 8) 0 (slices t 8 n) = .ok (parts, s3) ∧
    s3.gangPipes parts 0 [] (slices (t.drop (8 * n)) 4 m) = .ok pipes ∧ parts.length = 1 := by
  have h : okB (gangState.hRead 0 0 (gangState.queue 0 0).packetAt 8) (fun y => gangOk gangState y.1 y.2) = true := by decide +kernel
  refine decodes_met gangState 2 _ rfl (by decide +kernel) (by decide +kernel) fun d s1 hd => ?_
  rw [hd] at h
  obtain ⟨h1, h2⟩ := both (show gangOk gangState d s1 = true from h)
  obtain ⟨⟨t, s2⟩, h3, h4⟩ := ok_and h2
  obtain ⟨⟨parts, s3⟩, h5, h6⟩ := ok_and h4
  obtain ⟨h7, h8⟩ := both h6
  obtain ⟨pipes, h9, _⟩ := ok_and h8
  exact ⟨s2, s3, t, parts, pipes, _, _, _, rfl, rfl, rfl, noT h1, h3, h5, h9, of_decide_eq_true h7⟩

/-- A gang of one part waits at the head of its queue; its partition runs or is frozen. -/
def aLaunch : Launch := { part := 0, kern := loadKernel, gx := 2, gy := 1, gz := 1, args := 7, lrec := 0, deadline := 0, budget := 0, maxblk := 0, prio := 0, strict := false, coop := true
                          place := [], skew := 0, seed := (1, 2), code := [] }
def reserveState (stage : Stage) (lrec : Nat) : State := ev (.queue 0 0) fun s => putDwords 0x50000 gangDesc { s with
  parts := [(0, { qPart true { pktQueue 1 with gang := [{ aLaunch with lrec := lrec }] } with stage := stage })] }
def ReserveMet (Q : Option State → Prop) : Prop := ∃ (s : State) (p j : Nat) (s1 : State) (key : List Nat), (p, j, key) ∈ s.waitingGangs ∧
    (s.waitingGangs.find? fun e => e.1 = p && e.2.1 = j) = some (p, j, key) ∧ (∀ e ∈ s.waitingGangs, e.2.2 < key → s.tryGang e.1 e.2.1 = none) ∧
    s.tryGang p j = some s1 ∧ s.cur = .event (.queue p j) ∧
    Q (s.gangRecords p j ((dw (s.peek p j) 0).toNat / 2 ^ 32 % 2 ^ 16) (s.queue p j).gang)
theorem reserve_met (lrec : Nat) (Q : Option State → Prop) (h : ((reserveState .run lrec).tryGang 0 0).isSome = true)
    (h2 : (reserveState .run lrec).waitingGangs = [(0, 0, [1, 0])]) (h3 : Q ((reserveState .run lrec).gangRecords 0 0
      ((dw ((reserveState .run lrec).peek 0 0) 0).toNat / 2 ^ 32 % 2 ^ 16) ((reserveState .run lrec).queue 0 0).gang)) : ReserveMet Q :=
  have ⟨s1, h1⟩ := Option.isSome_iff_exists.mp h
  ⟨reserveState .run lrec, 0, 0, s1, [1, 0], by rw [h2]; exact List.mem_singleton.mpr rfl, by rw [h2]; rfl,
    fun e he hk => by rw [h2, List.mem_singleton] at he; subst he; exact absurd hk (lt_irrefl _), h1, rfl, h3⟩
theorem witness_GangReserve : ReserveMet fun x => x = none :=
  reserve_met 0 _ (by decide +kernel) (by decide +kernel) (Option.isNone_iff_eq_none.mp (by decide +kernel))
/-- A launch record beyond the mapped gigabyte. -/
theorem witness_GangReserve_record : ReserveMet fun x => ∃ s2, x = some s2 :=
  reserve_met 0x40000000 _ (by decide +kernel) (by decide +kernel) (Option.isSome_iff_exists.mp (by decide +kernel))
theorem witness_GangReserve_not : ∃ (s : State) (p j : Nat), s.tryGang p j = none ∧ s.cur = .event (.queue p j) ∧ (s.queue p j).gang = [aLaunch] :=
  ⟨reserveState .freeze 0, 0, 0, Option.isNone_iff_eq_none.mp (by decide +kernel), rfl, by decide +kernel⟩

/-- A completion record is owed; 15 or 16 records stand unconsumed in the ring of 16. -/
def aCRec : CRec := ⟨0, 3, 0x1234, 0, 0, 0, 0, 0, true, []⟩
def recQueue (st : QueueSt) (index cbase : Nat) : Queue := { Queue.reset with st := st, kept := (qDesc 4).set 2 (BitVec.ofNat 64 (cbase + 4)), index := index, chead := 2 ^ 32 - 1, recs := [aCRec] }
def crecState (st : QueueSt) (index cbase : Nat) : State := stState (.queue 0 0) (recQueue st index cbase)
/-- The write of the record. -/
def recWrite (s : State) (q : Queue) : Except HErr State := s.hWrite 0 ((s.part 0).qdie 0) ((dw q.kept 2).toNat / 2 ^ 12 % 2 ^ 40 * 2 ^ 12 + 32 * (q.index % q.cslots))
  (recordBytes q aCRec ((s.part 0).qnum 0) s.time.dev)
theorem witness_CompletionRecord_full : ∃ (s : State) (p j : Nat) (q : Queue) (r : CRec) (rest : List CRec), q = s.queue p j ∧ q.recs = r :: rest ∧ r.after = [] ∧
    q.mute = false ∧ q.st ≠ .parked ∧ q.rseq = 0 ∧ q.cslots ≤ (q.index + 2 ^ 32 - q.chead) % 2 ^ 32 ∧ s.cur = .event (.queue p j) :=
  ⟨crecState .active 15 0x51000, 0, 0, recQueue .active 15 0x51000, aCRec, [], rfl, rfl, rfl, rfl, by decide, rfl, by decide +kernel, rfl⟩
def RecordMet (Q : Queue → Except HErr State → Prop) : Prop := ∃ (s : State) (p j : Nat) (q : Queue) (r : CRec) (rest : List CRec) (qn : Nat), q = s.queue p j ∧
    q.recs = r :: rest ∧ r.after = [] ∧ q.mute = false ∧ q.st ≠ .parked ∧ q.rseq = 0 ∧ qn = (s.part p).qnum j ∧ (q.index + 2 ^ 32 - q.chead) % 2 ^ 32 < q.cslots ∧
    Q q (s.hWrite p ((s.part p).qdie j) ((dw q.kept 2).toNat / 2 ^ 12 % 2 ^ 40 * 2 ^ 12 + 32 * (q.index % q.cslots)) (recordBytes q r qn s.time.dev)) ∧
    s.cur = .event (.queue p j)
theorem record_met (st : QueueSt) (cbase : Nat) (Q : Queue → Except HErr State → Prop) (h1 : recQueue st 14 cbase = (crecState st 14 cbase).queue 0 0 ∧ st ≠ .parked ∧
    ((recQueue st 14 cbase).index + 2 ^ 32 - (recQueue st 14 cbase).chead) % 2 ^ 32 < (recQueue st 14 cbase).cslots)
    (h2 : Q (recQueue st 14 cbase) (recWrite (crecState st 14 cbase) (recQueue st 14 cbase))) : RecordMet Q :=
  ⟨crecState st 14 cbase, 0, 0, recQueue st 14 cbase, aCRec, [], _, h1.1, rfl, rfl, rfl, h1.2.1, rfl, rfl, h1.2.2, h2, rfl⟩
theorem witness_CompletionRecord : RecordMet fun _ e => ∃ s1, e = .ok s1 :=
  have ⟨s1, h, _⟩ := ok_and (e := recWrite (crecState .active 14 0x51000) (recQueue .active 14 0x51000)) (P := fun _ => true) (by decide +kernel)
  record_met .active 0x51000 _ (by decide +kernel) ⟨s1, h⟩
/-- A record ring beyond the mapped gigabyte, of a queue at work and of one in ERROR. -/
def wPage (e : Except HErr State) : Bool := match e with
  | .error (.page _) => true
  | _ => false
theorem wPage_met {e : Except HErr State} (h : wPage e = true) : ∃ a, e = .error (.page a) := by
  unfold wPage at h
  split at h
  · exact ⟨_, rfl⟩
  · cases h
theorem witness_CompletionRecord_parks : RecordMet fun q e => (∃ a, e = .error (.page a)) ∧ q.st = .active :=
  record_met .active 0x40000000 _ (by decide +kernel) ⟨wPage_met (by decide +kernel), rfl⟩
theorem witness_CompletionRecord_leaves : RecordMet fun q e => (∃ a, e = .error (.page a)) ∧ q.st = .error :=
  record_met .error 0x40000000 _ (by decide +kernel) ⟨wPage_met (by decide +kernel), rfl⟩

/-! #### Blocks and grids -/

/-- Grid 1 of two blocks, none dispatched, in a partition of the clusters 0 and 36 with a region for block memory on each die; no
wave stands. -/
def twoBlocks : Grid := { loadGrid with id := 1, gx := 2, st := .queued }
def gridPart : Part := { loadPart with
  entry := [(0, 0x100#64), (1, 0x1000#64), (2, 0x10000000000000#64), (6, 0x1000000001#64)]
  ctx := [(5, 0x80000#64), (6, 0x180000#64), (9, 0x1000#64), (10, 0x1000#64)] }
def gridState (a : EvArg) (g : Grid) (p : Part) (b : List (Nat × Block)) : State := ev a fun s => { s with parts := [(0, p)], grids := [(1, g)], blocks := b, waves := [], nextId := 9 }

def placedB (x : Placed) : Bool := match x with
  | .ok _ => true
  | _ => false
theorem placed_met {x : Placed} (h : placedB x = true) : ∃ s, x = .ok s := by
  unfold placedB at h
  split at h
  · exact ⟨_, rfl⟩
  · cases h

theorem witness_BlockDispatch : ∃ (s : State) (gid idx core : Nat) (g : Grid) (l : List Nat) (s1 : State), aget s.grids gid = some g ∧ g.id = gid ∧
    (s.mayDispatch g = true ∧ g.coop = false ∧ g.nextOf (s.ncl g.part) (g.shareOf (s.ncl g.part) idx) = some idx ∧
    s.firstInOrder g (g.shareOf (s.ncl g.part) idx) = true ∧ s.chooseCores g idx core = some l ∧ l.Nodup) ∧ s.putBlock g idx l = .ok s1 ∧ newIds s s.nextId ∧
    s.cur = .event (.place gid idx core) :=
  have ⟨s1, h⟩ := placed_met (x := (gridState (.place 1 1 145) twoBlocks gridPart []).putBlock twoBlocks 1 [145]) (by decide +kernel)
  ⟨gridState (.place 1 1 145) twoBlocks gridPart [], 1, 1, 145, twoBlocks, [145], s1, rfl, rfl, by decide +kernel, h, nofun, rfl⟩
theorem witness_BlockDispatch_not : ∃ (s : State) (gid idx core : Nat) (g : Grid), aget s.grids gid = some g ∧ s.mayDispatch g = false ∧
    s.cur = .event (.place gid idx core) :=
  ⟨gridState (.place 1 0 0) twoBlocks { gridPart with stage := .soft } [], 1, 0, 0, twoBlocks, rfl, by decide +kernel, rfl⟩
/-- Die 1 has dispatched its one block; die 0 has one left, and no memory for it. -/
def stolenGrid (n : Nat) : Grid := { twoBlocks with next := (1, 2) :: if n = 0 then [] else [(0, n)] }
def stealPart : Part := { gridPart with ctx := [(5, 0x80000#64), (6, 0x180000#64), (10, 0x1000#64)] }
def stealState (p : Part) (n : Nat) (asks : List (Nat × Nat)) : State :=
  let s := gridState (.steal 1 1 0) (stolenGrid n) p []
  { s with hw := { s.hw with asks := asks } }
theorem witness_StealRequest : ∃ (s : State) (gid thief victim : Nat) (g : Grid) (idx : Nat) (l : List Nat) (s1 : State), (aget s.grids gid = some g ∧ g.id = gid ∧
    thief ≠ victim ∧ s.wants g thief = true ∧ s.asksNow thief = victim ∧ s.ownBlock g.part victim = false ∧
    (∀ e ∈ s.grids, s.together g.part e.2.part = true → s.gridBefore e.2 g = true → s.wants e.2 thief = false) ∧
    (∀ d, d < thief → s.asksNow d = victim → s.wants g d = false) ∧ (aget s.hw.stole victim).getD 0 ≠ s.clock + 1 ∧
    g.nextOf (s.ncl g.part) victim = some idx ∧ s.coresAmong g.part g.kern (s.clustersOn g.part thief) = some l ∧ l.Nodup) ∧
    s.putBlock g idx l = .ok s1 ∧ newIds s s.nextId ∧ s.cur = .event (.steal gid thief victim) :=
  have ⟨s1, h⟩ := placed_met (x := (stealState stealPart 0 []).putBlock (stolenGrid 0) 0 [144]) (by decide +kernel)
  ⟨stealState stealPart 0 [], 1, 1, 0, stolenGrid 0, 0, [144], s1, by decide +kernel, h, nofun, rfl⟩
/-- Die 2 asks die 0, which has nothing left; die 3, whose share is left, would be asked next. -/
theorem witness_StealRequest_none : ∃ (s : State) (gid thief victim : Nat) (g : Grid), (aget s.grids gid = some g ∧ g.id = gid ∧ thief ≠ victim ∧
    s.wants g thief = true ∧ s.asksNow thief = victim ∧ s.ownBlock g.part victim = false ∧
    (∀ e ∈ s.grids, s.together g.part e.2.part = true → s.gridBefore e.2 g = true → s.wants e.2 thief = false) ∧
    (∀ d, d < thief → s.asksNow d = victim → s.wants g d = false) ∧ (aget s.hw.stole victim).getD 0 ≠ s.clock + 1 ∧
    g.nextOf (s.ncl g.part) victim = none) ∧ s.cur = .event (.steal gid thief victim) :=
  ⟨{ stealState stealPart 0 [(1, 2)] with cur := .event (.steal 1 1 2) }, 1, 1, 2, stolenGrid 0, by decide +kernel, rfl⟩
theorem witness_StealRequest_not : ∃ (s : State) (gid thief victim : Nat) (g : Grid), aget s.grids gid = some g ∧ g.id = gid ∧ thief ≠ victim ∧
    (s.wants g thief = false ∨ s.asksNow thief ≠ victim ∨ s.ownBlock g.part victim = true) ∧ s.cur = .event (.steal gid thief victim) :=
  ⟨stealState gridPart 0 [], 1, 1, 0, stolenGrid 0, rfl, rfl, by decide, by decide +kernel, rfl⟩
def killedBlock : Block := { loadBlock with id := 4, grid := 1, killed := true }
def RelaunchMet (b : Block) (Q : State → Grid → Nat → Prop) : Prop := ∃ (s : State) (gid idx core : Nat) (g : Grid), aget s.grids gid = some g ∧ g.id = gid ∧ b.grid = gid ∧
    b.idx = idx ∧ b.killed = true ∧ (s.blocks.find? fun e => e.2.grid = gid && e.2.idx = idx && e.2.killed) = some (b.id, b) ∧ ((s.part g.part).stage = .run ∧
    (∀ e ∈ s.chans, e.2.block = b.id → e.2.busy = false) ∧ core / 144 = b.cluster / 36 ∧
    (s.part g.part).clusters.contains (core / 4) = true ∧ s.othersOn g.part = false) ∧ s.cur = .event (.place gid idx core) ∧ Q s g core
theorem witness_BlockRelaunch : RelaunchMet killedBlock fun s g core => ∃ l, killedBlock.cont = false ∧ g.strict = false ∧ s.coresFrom g core = some l ∧ l.Nodup ∧ newIds s killedBlock.id :=
  ⟨gridState (.place 1 0 3) twoBlocks gridPart [(4, killedBlock)], 1, 0, 3, twoBlocks, rfl, rfl, rfl, rfl, rfl, by decide +kernel, by decide +kernel, rfl,
    [3], rfl, rfl, by decide +kernel, by decide, nofun⟩
/-- The killed block is a resumption's: one wave, as it started. -/
def killedResumption : Block := { killedBlock with cont := true, first := some (loadWave 0) }
theorem witness_BlockRelaunch_resumption : RelaunchMet killedResumption fun s g core => ∃ sub, killedResumption.cont = true ∧
    killedResumption.first = some (loadWave 0) ∧ (g.strict = true → core / 4 = killedResumption.cluster) ∧ s.subFor core g.kern.vregs (loadWave 0).width = some sub :=
  ⟨gridState (.place 1 0 3) twoBlocks gridPart [(4, killedResumption)], 1, 0, 3, twoBlocks, rfl, rfl, rfl, rfl, rfl, by decide +kernel, by decide +kernel, rfl,
    0, rfl, rfl, nofun, by decide +kernel⟩

/-- A grid whose blocks have all been dispatched and are gone, or not; its queue is queue 0. -/
def endGrid (n : Nat) (fault : Option (Nat × Word)) : Grid := { loadGrid with id := 1, queue := some 0, next := [(0, n)], done := n, fault := fault, st := if fault.isSome then .faulted else .running }
def endState (g : Grid) : State := gridState (.grid 1) g { gridPart with queues := [(0, pktQueue 1)] } []
def EndMet (g : Grid) (Q : State → Prop) : Prop := ∃ (s : State) (gid j : Nat), aget s.grids gid = some g ∧ g.id = gid ∧ g.ended = false ∧ g.lrec = 0 ∧ g.cfut = 0 ∧
  g.launcher = none ∧ g.parent = none ∧ g.queue = some j ∧ g.gang = none ∧ s.cur = .event (.grid gid) ∧ Q s
theorem witness_GridCompletion : EndMet (endGrid 1 none) fun s => (endGrid 1 none).fault = none ∧ s.mayComplete (endGrid 1 none) = true ∧ s.portsClearOf (endGrid 1 none).part = true :=
  ⟨endState (endGrid 1 none), 1, 0, rfl, rfl, rfl, rfl, rfl, rfl, rfl, rfl, rfl, rfl, rfl, by decide +kernel⟩
theorem witness_GridCompletion_not : EndMet (endGrid 0 none) fun s => (endGrid 0 none).fault = none ∧ s.mayComplete (endGrid 0 none) = false :=
  ⟨endState (endGrid 0 none), 1, 0, rfl, rfl, rfl, rfl, rfl, rfl, rfl, rfl, rfl, rfl, rfl, by decide +kernel⟩
theorem witness_GridCompletion_faulted : EndMet (endGrid 0 (some (0x60, 0))) fun s => s.mayEnd (endGrid 0 (some (0x60, 0))) = true ∧ s.portsClearOf (endGrid 0 (some (0x60, 0))).part = true :=
  ⟨endState (endGrid 0 (some (0x60, 0))), 1, 0, rfl, rfl, rfl, rfl, rfl, rfl, rfl, rfl, rfl, rfl, by decide +kernel⟩
/-- A write of the partition stands in a port. -/
theorem witness_GridCompletion_ports : EndMet (endGrid 1 none) fun s => s.portsClearOf (endGrid 1 none).part = false :=
  ⟨let s := endState (endGrid 1 none); { s with msys := { s.msys with ports := [aHeld] } }, 1, 0, rfl, rfl, rfl, rfl, rfl, rfl, rfl, rfl, rfl, rfl, by decide +kernel⟩
/-- One nested grid has not ended. -/
theorem witness_GridCompletion_kids : EndMet { endGrid 0 (some (0x60, 0)) with kids := 1 } fun s => s.mayEnd { endGrid 0 (some (0x60, 0)) with kids := 1 } = false :=
  ⟨endState { endGrid 0 (some (0x60, 0)) with kids := 1 }, 1, 0, rfl, rfl, rfl, rfl, rfl, rfl, rfl, rfl, rfl, rfl, by decide +kernel⟩

/-- A limit of 3 µs; the grid started `n` nanoseconds ago. -/
def dogGrid : Grid := { endGrid 0 none with start := some 7 }
def dogQueue : Queue := { Queue.reset with st := .active, kept := [0x50004, 0x4000000000000003#64, 0x51004, 0, 1, 0, 0, 0] }
def dogState (n : Nat) (st : Stage) : State := { gridState (.grid 1) dogGrid { gridPart with queues := [(0, dogQueue)], stage := st, since := 7 } [] with
  time := ⟨0, BitVec.ofNat 64 (7 + n), 0, 0, 0, 0⟩ }
def DogMet (Q : Nat → State → Prop) : Prop := ∃ (s : State) (gid : Nat) (t : Word) (j limit : Nat), aget s.grids gid = some dogGrid ∧ dogGrid.start = some t ∧
  dogGrid.queue = some j ∧ dogGrid.launcher = none ∧ dogGrid.ended = false ∧ dogGrid.fault = none ∧ limit = (dw (s.queue dogGrid.qpart j).kept 1).toNat % 2 ^ 32 ∧
  limit ≠ 0 ∧ (s.part dogGrid.part).stage ≠ .saved ∧ s.cur = .event (.grid gid) ∧ t = 7 ∧ Q limit s
theorem witness_Watchdog : DogMet fun limit s => limit * 1000 < (s.time.elapsed - 7).toNat :=
  ⟨dogState 3001 .run, 1, 7, 0, 3, rfl, rfl, rfl, rfl, rfl, rfl, by decide +kernel, by decide, by decide +kernel, rfl, rfl, by decide⟩
theorem witness_Watchdog_early : DogMet fun limit s => (s.time.elapsed - 7).toNat ≤ limit * 1000 :=
  ⟨dogState 3000 .run, 1, 7, 0, 3, rfl, rfl, rfl, rfl, rfl, rfl, by decide +kernel, by decide, by decide +kernel, rfl, rfl, by decide⟩
/-- A wave of the grid in its drain handler. -/
def drainWave : Wave := { loadWave 0 with id := 1, grid := 1, trap := some ⟨0, 0, 0, 0, 0, 0, 0, 0, .run, false⟩ }
theorem witness_DrainWatchdog : ∃ (s : State) (gid : Nat) (g : Grid), aget s.grids gid = some g ∧ g.ended = false ∧ g.fault = none ∧ s.cur = .event (.grid gid) ∧
    (s.part g.part).stage = .freeze ∧ ∃ e ∈ s.waves, e.2.grid = gid ∧ (∃ t, e.2.trap = some t ∧ t.first = 0 ∧ t.addr = 0) ∧
    16000 * 33 < (s.time.elapsed - (s.part g.part).since).toNat * dieClock s e.2.die :=
  ⟨{ dogState 16001 .freeze with waves := [(1, drainWave)] }, 1, dogGrid, rfl, rfl, rfl, rfl, by decide +kernel, (1, drainWave), List.mem_singleton.mpr rfl, rfl, ⟨_, rfl, rfl, rfl⟩,
    by decide +kernel⟩
theorem witness_DrainWatchdog_early : ∃ (s : State) (gid : Nat) (g : Grid), aget s.grids gid = some g ∧ g.ended = false ∧ g.fault = none ∧ s.cur = .event (.grid gid) ∧
    s.waves ≠ [] ∧ ∀ e ∈ s.waves, (s.time.elapsed - (s.part g.part).since).toNat * dieClock s e.2.die ≤ 16000 * 33 :=
  ⟨{ dogState 16000 .freeze with waves := [(1, drainWave)] }, 1, dogGrid, rfl, rfl, rfl, rfl, nofun, by decide +kernel⟩

/-- Two contributions of window 0 to one location, out of order. -/
def aContrib (block : Nat) (x : Word) : Contrib := ⟨1, 0, 0x22000, true, x, block, 0, 0, 0, block⟩
def winState (g : Grid) : State := { gridState (.window 1 0) g gridPart [] with msys := { MemSys.reset with contribs := [aContrib 1 0x40400000#64, aContrib 0 0x3F800000#64] } }
def winGrid (n : Nat) : Grid := { endGrid n none with strict := true }
theorem witness_WindowApply : ∃ (s : State) (gid w : Nat) (g : Grid), aget s.grids gid = some g ∧ g.strict = true ∧ s.cur = .event (.window gid w) ∧
    s.windowClosed g w = true ∧ g.applied = w ∧ (∃ c ∈ s.msys.contribs, c.grid = gid) ∧
    (∀ c ∈ s.msys.contribs, c.grid = gid → c.win = w → s.poisoned (.glob c.pa) (contribBytes c) = false) ∧ ∃ l : List Contrib,
      l.Perm (s.msys.contribs.filter fun c => c.grid = gid && c.win = w) ∧ l.Pairwise (fun a b => a.before b = true) :=
  ⟨winState (winGrid 1), 1, 0, winGrid 1, rfl, rfl, rfl, by decide +kernel, rfl, by decide, by decide +kernel, [aContrib 0 0x3F800000#64, aContrib 1 0x40400000#64], by decide +kernel, by decide +kernel⟩
theorem witness_WindowApply_open : ∃ (s : State) (gid w : Nat) (g : Grid), aget s.grids gid = some g ∧ g.strict = true ∧ s.cur = .event (.window gid w) ∧
    s.windowClosed g w = false := ⟨winState (winGrid 0), 1, 0, winGrid 0, rfl, rfl, rfl, by decide +kernel⟩

/-- The loaded partition in a stage, with or without its block. -/
def stageState (st : Stage) (f : Part → Part) (h : State → State) : State := ev (.part 0) fun s => h (s.setPart 0 (f { loadPart with stage := st }))

/-- A list of one entry, slot 2 of the record at 0x30000, which waits for `n` futures. -/
def aSaved : Saved := ⟨1, 32, [(139, 32#64)], [], 0, 0⟩
def walkState (n : Nat) : State := ev (.part 0) fun s => withDwords [(0x30000, BitVec.ofNat 64 (2 ^ 62 + n * 2 ^ 59 + 0x12344))]
  { s with parts := [(0, { loadPart with walks := [0xC02], saves := [(0x30000, aSaved)] })] }
def WalkMet (Q : Nat → Prop) : Prop := ∃ (s : State) (p h : Nat) (rest : List Nat) (x y : Xlat) (n : Nat), (s.part p).walks = h :: rest ∧
  s.objXlat p (BitVec.ofNat 64 (h / 4 * 256 + 48 + 8 * (h % 4))) .atomic = .ok x ∧ s.objXlat p (BitVec.ofNat 64 (h / 4 * 256)) .atomic = .ok y ∧
  n = (s.dword y.pa).toNat / 2 ^ 59 % 8 ∧ 1 ≤ n ∧ s.cur = .event (.part p) ∧ aget (s.part p).saves (h / 4 * 256) = some aSaved ∧
    (s.part p).stage ≠ .freeze ∧ (s.part p).stage ≠ .saved ∧ s.poisoned (.glob y.pa) 8 = false ∧ Q n
theorem walk_met (s : State) (Q : Nat → Prop) [DecidablePred Q] (h0 : (s.part 0).walks = [0xC02]) (h1 : s.cur = .event (.part 0))
    (h2 : aget (s.part 0).saves 0x30000 = some aSaved) (h8 : (s.part 0).stage ≠ .freeze ∧ (s.part 0).stage ≠ .saved) (h : okB (s.objXlat 0 (BitVec.ofNat 64 0x30040) .atomic) (fun _ => okB (s.objXlat 0 (BitVec.ofNat 64 0x30000) .atomic) fun y =>
      decide (1 ≤ (s.dword y.pa).toNat / 2 ^ 59 % 8 ∧ s.poisoned (.glob y.pa) 8 = false ∧ Q ((s.dword y.pa).toNat / 2 ^ 59 % 8))) = true) : WalkMet Q :=
  have ⟨x, h3, h4⟩ := ok_and h
  have ⟨y, h5, h6⟩ := ok_and h4
  have h7 := of_decide_eq_true h6
  ⟨s, 0, 0xC02, [], x, y, _, h0, h3, h5, rfl, h7.1, h1, h2, h8.1, h8.2, h7.2.1, h7.2.2⟩
theorem witness_ListWalk_last : WalkMet fun n => n = 1 := walk_met (walkState 1) _ (by decide +kernel) rfl (by decide +kernel) (by decide +kernel) (by decide +kernel)
theorem witness_ListWalk : WalkMet fun n => n ≠ 1 := walk_met (walkState 5) _ (by decide +kernel) rfl (by decide +kernel) (by decide +kernel) (by decide +kernel)

theorem witness_ListWalk_frozen : ∃ (s : State) (p : Nat), ((s.part p).stage = .freeze ∨ (s.part p).stage = .saved) ∧ s.cur = .event (.part p) :=
  ⟨stageState .freeze id id, 0, by decide +kernel, rfl⟩

/-- The record at 0x30000 is ready: two registers from v3 on, for 32 lanes, of which 5 are in its mask. -/
def resumeState : State := { (gridState (.resume 0 0 2) (winGrid 1) { gridPart with ready := [(0x30000, 1)], saves := [(0x30000, aSaved)] } []) with
  mem := (withDwords [(0x30000, 0x8000000000012344#64), (0x30008, 0x83), (0x30050, 5)] (ev .none id)).mem }
/-- A resumption's record is read and its core has a slot. -/
def ResumeMet (Q : Got → Prop) : Prop := ∃ (s : State) (p i core rec gid : Nat) (g : Grid) (v : Saved) (sub : Nat) (d : List Word) (s1 s2 : State) (vals : List Word),
    ((s.part p).ready[i]? = some (rec, gid) ∧ aget s.grids gid = some g ∧ aget (s.part p).saves rec = some v ∧ g.part = p ∧
    s.mayDispatch g = true ∧ (s.part p).clusters.contains (core / 4) = true ∧ s.othersOn p = false ∧
    s.resumesBefore (s.readyWith p) g core = false ∧
    s.subFor core g.kern.vregs v.width = some sub) ∧ s.readDwords p (core / 144) (BitVec.ofNat 64 rec) 32 .atomic = .ok (d, s1) ∧
    s1.readDwords p (core / 144) (BitVec.ofNat 64 (rec + 256)) (recCount d * v.width) .atomic = .ok (vals, s2) ∧
    v.width ≤ 64 ∧ recFirst d + recCount d ≤ 128 ∧ s.cur = .event (.resume p i core) ∧
    Q (s2.alloc p (core / 144) (g.kern.rets * 8 * v.width) 256 (.spill s2.nextId)).1
theorem resume_met (s : State) (Q : Got → Prop) [DecidablePred Q] (h0 : (s.part 0).ready[0]? = some (0x30000, 1) ∧ aget s.grids 1 = some (winGrid 1) ∧
    aget (s.part 0).saves 0x30000 = some aSaved ∧ (winGrid 1).part = 0 ∧ s.mayDispatch (winGrid 1) = true ∧ (s.part 0).clusters.contains (2 / 4) = true ∧
    s.othersOn 0 = false ∧ s.resumesBefore (s.readyWith 0) (winGrid 1) 2 = false ∧ s.subFor 2 (winGrid 1).kern.vregs aSaved.width = some 0)
    (h1 : s.cur = .event (.resume 0 0 2)) (h : okB (s.readDwords 0 (2 / 144) (BitVec.ofNat 64 0x30000) 32 .atomic) (fun y =>
      decide (recFirst y.1 + recCount y.1 ≤ 128) && okB (y.2.readDwords 0 (2 / 144) (BitVec.ofNat 64 0x30100) (recCount y.1 * 32) .atomic) fun z =>
        decide (Q (z.2.alloc 0 0 ((winGrid 1).kern.rets * 8 * 32) 256 (.spill z.2.nextId)).1)) = true) : ResumeMet Q :=
  have ⟨⟨d, s1⟩, h2, h3⟩ := ok_and h
  have ⟨⟨vals, s2⟩, h4, h5⟩ := ok_and (both h3).2
  ⟨s, 0, 0, 2, 0x30000, 1, winGrid 1, aSaved, 0, d, s1, s2, vals, h0, h2, h4, by decide, of_decide_eq_true (both h3).1, h1, of_decide_eq_true h5⟩
def isAt (r : Got) : Bool := match r with
  | .at _ => true
  | _ => false
def isFull (r : Got) : Bool := match r with
  | .full => true
  | _ => false
theorem at_met {r : Got} (h : isAt r = true) : ∃ n, r = .at n := by
  unfold isAt at h
  split at h
  · exact ⟨_, rfl⟩
  · cases h
theorem full_met {r : Got} (h : isFull r = true) : r = .full := by
  unfold isFull at h
  split at h
  · rfl
  · cases h
theorem resume_mono {P Q : Got → Prop} (h : ResumeMet P) (k : ∀ r, P r → Q r) : ResumeMet Q :=
  have ⟨s, p, i, core, rec, gid, g, v, sub, d, s1, s2, vals, h1, h2, h3, h4, h5, h6, h7⟩ := h
  ⟨s, p, i, core, rec, gid, g, v, sub, d, s1, s2, vals, h1, h2, h3, h4, h5, h6, k _ h7⟩
theorem witness_Resumption : ResumeMet fun r => ∃ n, r = .at n :=
  resume_mono (resume_met resumeState (fun r => isAt r = true) (by decide +kernel) rfl (by decide +kernel)) fun _ => at_met
/-- Die 0 has no memory left for a spill area. -/
theorem witness_Resumption_full : ResumeMet fun r => r = .full :=
  resume_mono (resume_met (resumeState.modPart 0 fun q => { q with ctx := [(5, 0x80000#64), (6, 0x180000#64)] }) (fun r => isFull r = true) (by decide +kernel) rfl
    (by decide +kernel)) fun _ => full_met

/-! #### Fault records, pre-emption, partitions -/

/-- Record 17 waits for its slot, the first of 16; record 1 holds it or not. -/
def aRec (n : Nat) (w : Bool) (who : FWho) : FRec := ⟨n, 0x10, 0, 1, 0, 0x1000, 3, 0x10004, w, who, none⟩
def frecState (held : Bool) : State := ev (.seq 0 17) fun s => s.setPart 0 { loadPart with
  ctx := [(3, 0x60000#64), (4, 4)], recs := (if held then [aRec 1 true (.path 0 0)] else []) ++ [aRec 17 false (.path 0 0)] }
def RecMet (Q : State → Part → Nat → Prop) : Prop := ∃ (s : State) (p n : Nat) (r : FRec) (q : Part) (slot : Nat), q = s.part p ∧
  (q.recs.find? fun r => r.seq = n && !r.written) = some r ∧ slot = (n + 2 ^ 32 - 1) % 2 ^ 32 % 2 ^ ((sget q.ctx 4).toNat % 32) ∧
  (∀ x ∈ q.recs, x.verdict = none) ∧ s.cur = .event (.seq p n) ∧ Q s q slot
theorem witness_FaultRecord : RecMet fun _ q slot => ∀ x ∈ q.recs, x.written = true → (x.seq + 2 ^ 32 - 1) % 2 ^ 32 % 2 ^ ((sget q.ctx 4).toNat % 32) ≠ slot :=
  ⟨frecState false, 0, 17, aRec 17 false (.path 0 0), _, 0, rfl, by decide +kernel, by decide +kernel, by decide +kernel, rfl, by decide +kernel⟩
theorem witness_FaultRecord_held : RecMet fun _ q slot => ∃ x ∈ q.recs, x.written = true ∧ (x.seq + 2 ^ 32 - 1) % 2 ^ 32 % 2 ^ ((sget q.ctx 4).toNat % 32) = slot :=
  ⟨frecState true, 0, 17, aRec 17 false (.path 0 0), _, 0, rfl, by decide +kernel, by decide +kernel, by decide +kernel, rfl, by decide +kernel⟩

/-- Path 0 of wave 0, or channel 2, is parked on record 1. -/
def parkedWave : Wave := { loadWave 0 with paths := [⟨0, widthMask 32, loadAt, 1, some (loadClause 0), .parked 1, false, false, 0⟩] }
def verdictState (who : FWho) (st : Stage) : State := ev (.seq 0 1) fun s => ({ s with waves := [(0, parkedWave)]
                                                                                       chans := [(2, { Chan.reset with st := .parked, seq := 1 })] } : State).setPart 0
  { loadPart with stage := st, recs := [aRec 1 true who] }
def VerdictMet (who : FWho) (Q : State → Prop) : Prop := ∃ (s : State) (p n : Nat) (r : FRec), n < 2 ^ 32 ∧
  ((s.part p).recs.find? fun r => r.seq = n && r.written) = some r ∧ r.who = who ∧ p = 0 ∧ n = 1 ∧ s.cur = .event (.seq p n) ∧ Q s
/-- A path's verdict finds it parked on the record. -/
def PathVerdict (x : Wave) (st : Stage) (Q : Wave → Path → Prop) : Prop := VerdictMet (.path 0 0) fun s => ∃ q, aget s.waves 0 = some x ∧ x.id = 0 ∧
    (x.paths.find? fun q => q.st = .parked 1) = some q ∧ x.path q.id = some q ∧ (s.part 0).stage = st ∧ Q x q
def pathVerdictState (x : Wave) (st : Stage) : State := let s := verdictState (.path 0 0) st; { s with waves := [(0, x)] }
theorem path_verdict (x : Wave) (st : Stage) (Q : Wave → Path → Prop) (q : Path) (h1 : ((pathVerdictState x st).part 0).recs.find? (fun r => r.seq = 1 && r.written) = some (aRec 1 true (.path 0 0)))
    (h2 : x.id = 0) (h3 : (x.paths.find? fun q => q.st = .parked 1) = some q) (h4 : x.path q.id = some q) (h5 : ((pathVerdictState x st).part 0).stage = st) (h6 : Q x q) : PathVerdict x st Q :=
  ⟨pathVerdictState x st, 0, 1, aRec 1 true (.path 0 0), by decide, h1, rfl, rfl, rfl, rfl, q, rfl, h2, h3, h4, h5, h6⟩
def parkedPath : Path := ⟨0, widthMask 32, loadAt, 1, some (loadClause 0), .parked 1, false, false, 0⟩
theorem witness_Verdict_path : PathVerdict parkedWave .run fun x q => x.trap = none ∨ q.handler = true :=
  path_verdict _ _ _ parkedPath (by decide +kernel) rfl (by decide +kernel) (by decide +kernel) (by decide +kernel) (.inl rfl)
/-- The wave is in its handler: path 0 waits outside it, or is the handler's own. -/
def trapWave (p : Path) : Wave := { parkedWave with paths := [p], trap := some ⟨0, 0, 0, 0, 0, 0, 0, 0, .parked 1, false⟩ }
theorem witness_Verdict_handler : PathVerdict (trapWave { parkedPath with handler := true }) .run fun x q => x.trap = none ∨ q.handler = true :=
  path_verdict _ _ _ { parkedPath with handler := true } (by decide +kernel) rfl (by decide +kernel) (by decide +kernel) (by decide +kernel) (.inr rfl)
theorem witness_Verdict_outside : PathVerdict (trapWave parkedPath) .run fun x q => x.trap ≠ none ∧ q.handler = false :=
  path_verdict _ _ _ parkedPath (by decide +kernel) rfl (by decide +kernel) (by decide +kernel) (by decide +kernel) ⟨nofun, rfl⟩
theorem witness_Verdict_frozen : PathVerdict parkedWave .saved fun _ _ => True :=
  path_verdict _ _ _ parkedPath (by decide +kernel) rfl (by decide +kernel) (by decide +kernel) (by decide +kernel) trivial
/-- A drain entry has taken the parked path, which runs in the handler. -/
theorem witness_Verdict_taken : VerdictMet (.path 0 0) fun s => ∃ x t, aget s.waves 0 = some x ∧ x.id = 0 ∧ (∀ q ∈ x.paths, q.st ≠ .parked 1) ∧
    x.trap = some t ∧ t.held = .parked 1 ∧ (s.part 0).stage = .run :=
  ⟨pathVerdictState (trapWave { parkedPath with st := .run, handler := true }) .run, 0, 1, aRec 1 true (.path 0 0), by decide, by decide +kernel, rfl, rfl, rfl, rfl,
    _, _, rfl, rfl, by decide +kernel, rfl, rfl, by decide +kernel⟩
theorem witness_Verdict_held : ∃ (s : State) (p n : Nat) (r : FRec), n < 2 ^ 32 ∧ ((s.part p).recs.find? fun r => r.seq = n && r.written) = some r ∧
    ((s.part p).stage = .freeze ∨ (s.part p).stage = .saved) ∧ s.cur = .event (.seq p n) :=
  ⟨verdictState (.chan 2) .freeze, 0, 1, aRec 1 true (.chan 2), by decide, by decide +kernel, by decide +kernel, rfl⟩
theorem witness_Verdict_channel : VerdictMet (.chan 2) fun s => (s.part 0).stage = .run ∧ (s.chan 2).st = .parked ∧ (s.chan 2).seq = 1 ∧
    ∀ code, (s.chan 2).halt ≠ .fault code :=
  ⟨verdictState (.chan 2) .run, 0, 1, aRec 1 true (.chan 2), by decide, by decide +kernel, rfl, rfl, rfl, rfl, by decide +kernel, by decide +kernel, by decide +kernel, nofun⟩
theorem witness_Verdict_queue : VerdictMet (.queue 0) fun s => ∃ q, q = s.queue 0 0 ∧ (s.part 0).stage = .run ∧ q.st = .parked ∧ q.seq = 1 ∧ q.rseq ≠ 1 ∧ q.lseq ≠ 1 ∧
    q.left = .decode ∧ q.lrecs = [] ∧ q.tail ≠ q.head ∧ dist32 q.tail q.head ≤ q.slots :=
  ⟨(verdictState (.queue 0) .run).modPart 0 fun q => { q with queues := [(0, { pktQueue 0 with st := .parked, seq := 1 })] }, 0, 1, aRec 1 true (.queue 0),
    by decide, by decide +kernel, rfl, rfl, rfl, rfl, _, rfl, by decide +kernel⟩

theorem witness_SoftPreemption : ∃ (s : State) (p : Nat), (s.part p).stage = .run ∧ s.cur = .event (.part p) := ⟨stageState .run id id, 0, by decide +kernel, rfl⟩
theorem witness_SoftPreemption_waits : ∃ (s : State) (p : Nat), ((s.part p).stage = .soft ∨ (s.part p).stage = .freeze) ∧ s.cur = .event (.part p) :=
  ⟨stageState .freeze id id, 0, by decide +kernel, rfl⟩
theorem witness_SoftStopComplete : ∃ (s : State) (p : Nat), (s.part p).stage = .soft ∧ (s.part p).nextReq = 0 ∧ (∀ e ∈ s.grids, e.2.lrec = 0) ∧
    (s.grids.map Prod.fst).Nodup ∧ (∀ e ∈ s.blocks, s.partOf e.2 ≠ p) ∧ s.coopRuns p = false ∧ s.cur = .event (.part p) ∧ s.grids ≠ [] :=
  ⟨stageState .soft id fun s => { s with blocks := [] }, 0, by decide +kernel, by decide +kernel, by decide +kernel, by decide +kernel, by decide +kernel, by decide +kernel, rfl, by decide +kernel⟩
theorem witness_SoftStopComplete_not : ∃ (s : State) (p : Nat), (s.part p).stage = .soft ∧ (s.part p).nextReq = 0 ∧ (∀ e ∈ s.grids, e.2.lrec = 0) ∧
    (s.grids.map Prod.fst).Nodup ∧ (∃ e ∈ s.blocks, s.partOf e.2 = p) ∧ s.cur = .event (.part p) :=
  ⟨stageState .soft id id, 0, by decide +kernel, by decide +kernel, by decide +kernel, by decide +kernel, by decide +kernel, rfl⟩
/-- A cooperative grid has started and not ended. -/
theorem witness_SoftStopComplete_coop : ∃ (s : State) (p : Nat), (s.part p).stage = .soft ∧ (s.part p).nextReq = 0 ∧ (∀ e ∈ s.grids, e.2.lrec = 0) ∧
    (s.grids.map Prod.fst).Nodup ∧ s.coopRuns p = true ∧ s.cur = .event (.part p) :=
  ⟨stageState .soft id fun s => { s with grids := [(0, { loadGrid with coop := true, start := some 0 })] }, 0, by decide +kernel, by decide +kernel, by decide +kernel,
    by decide +kernel, by decide +kernel, rfl⟩
theorem witness_Resume_soft : ∃ (s : State) (p : Nat), (s.part p).stage = .stopped ∧ (∀ e ∈ s.grids, e.2.lrec = 0) ∧ s.cur = .event (.part p) ∧
    ∃ k g, aget s.grids k = some g ∧ g.part = p ∧ g.st = .stopped :=
  ⟨stageState .stopped id fun s => { s with grids := [(0, { loadGrid with st := .stopped })] }, 0, by decide +kernel, by decide +kernel, rfl, 0, _, rfl, rfl, rfl⟩

/-- A quantum of 5 µs that began `n` nanoseconds ago; partition 1 shares cluster 0. -/
def quantumState (n : Nat) : State := stageState .run (fun q => { q with entry := q.entry ++ [(11, 0x500000000#64)] }) fun s =>
  { s with parts := s.parts ++ [(1, loadPart)], time := ⟨0, BitVec.ofNat 64 n, 0, 0, 0, 0⟩ }
theorem witness_QuantumExpiry : ∃ (s : State) (p quantum : Nat), quantum = (sget (s.part p).entry 11).toNat / 2 ^ 32 ∧ (s.part p).state = 1 ∧ (s.part p).stage = .run ∧
    s.cur = .event (.part p) ∧ quantum ≠ 0 ∧ quantum * 1000 ≤ (s.time.elapsed - (s.part p).since).toNat ∧ (∃ b ∈ s.resident, s.partOf b = p) ∧
    ∃ e ∈ s.parts, e.1 ≠ p ∧ e.2.state = 1 ∧ e.2.group = (s.part p).group ∧ ∃ c ∈ e.2.clusters, c ∈ (s.part p).clusters :=
  ⟨quantumState 5000, 0, 5, by decide +kernel, by decide +kernel, by decide +kernel, rfl, by decide, by decide +kernel, by decide +kernel, by decide +kernel⟩
def QuantumRests (Q : State → Nat → Prop) : Prop := ∃ (s : State) (p quantum : Nat), quantum = (sget (s.part p).entry 11).toNat / 2 ^ 32 ∧ (s.part p).state = 1 ∧ (s.part p).stage = .run ∧
    s.cur = .event (.part p) ∧ p = 0 ∧ Q s quantum
theorem witness_QuantumExpiry_early : QuantumRests fun s quantum => quantum = 0 ∨ (s.time.elapsed - (s.part 0).since).toNat < quantum * 1000 :=
  ⟨quantumState 4999, 0, 5, by decide +kernel, by decide +kernel, by decide +kernel, rfl, rfl, by decide +kernel⟩
theorem witness_QuantumExpiry_away : QuantumRests fun s _ => ∀ b ∈ s.resident, s.partOf b ≠ 0 :=
  ⟨{ quantumState 5000 with blocks := [] }, 0, 5, by decide +kernel, by decide +kernel, by decide +kernel, rfl, rfl, by decide +kernel⟩

def HardMet (allowed : Bool) : Prop := ∃ (s : State) (p : Nat), ((s.part p).stage = .run ∨ (s.part p).stage = .stopped) ∧ s.hardAllowed p = allowed ∧ s.cur = .event (.part p)
theorem witness_HardPreemption : HardMet true := ⟨stageState .run id id, 0, by decide +kernel, by decide +kernel, rfl⟩
/-- A grid with a matrix wave, and no handler. -/
theorem witness_HardPreemption_soft : HardMet false :=
  ⟨stageState .stopped id fun s => { s with grids := [(0, { loadGrid with kern := { loadKernel with matrix := 1, general := 0 } })] }, 0, by decide +kernel, by decide +kernel, rfl⟩

/-- Core 0's engine belongs to block 0. -/
def ownedState (a : EvArg) (st : Stage) (h : State → State) : State := ev a fun s =>
  h ((s.setPart 0 { loadPart with stage := st }).setCore 0 { Core.reset with mx := { Matrix.reset with owner := some 0, frozen := decide (st = .saved) } })
def FreezeMet (done : Bool) : Prop := ∃ (s : State) (k p b : Nat) (bl : Block), (s.core k).mx.owner = some b ∧ aget s.blocks b = some bl ∧ s.partOf bl = p ∧
    (s.part p).stage = .freeze ∧ (s.part p).drained.contains k = done ∧ s.cur = .event (.core k)
theorem witness_MatrixFreeze : FreezeMet false :=
  ⟨ownedState (.core 0) .freeze id, 0, 0, 0, loadBlock, by decide +kernel, rfl, by decide +kernel, by decide +kernel, by decide +kernel, rfl⟩
theorem witness_MatrixFreeze_again : FreezeMet true :=
  ⟨ownedState (.core 0) .freeze fun s => s.modPart 0 fun q => { q with drained := [0] }, 0, 0, 0, loadBlock, by decide +kernel, rfl, by decide +kernel, by decide +kernel,
    by decide +kernel, rfl⟩
/-- A wave of the core in or out of its handler, for the entry of a freeze. -/
def roleWave (t : Option Trap) : Wave := { loadWave 0 with launch := sset (loadWave 0).launch 149 2, trap := t }
theorem witness_MatrixFreeze_wave (t : Option Trap) (ht : t = none ∨ t = some ⟨0, 0, 0, 0, 0, 0, 0, 0, .run, false⟩) : ∃ (s : State) (k p b : Nat) (bl : Block),
    (s.core k).mx.owner = some b ∧ aget s.blocks b = some bl ∧ s.partOf bl = p ∧ (s.part p).stage = .freeze ∧ (s.part p).drained.contains k = false ∧
    s.cur = .event (.core k) ∧ ∃ w x, aget s.waves w = some x ∧ x.part = p ∧ x.core = k ∧ x.role = 2 ∧ x.twin = none ∧ x.trap = t ∧ x.paths ≠ [] := by
  rcases ht with rfl | rfl
  · exact ⟨ownedState (.core 0) .freeze fun s => { s with waves := [(0, roleWave none)] }, 0, 0, 0, loadBlock, by decide +kernel, rfl, by decide +kernel, by decide +kernel,
      by decide +kernel, rfl, 0, _, rfl, rfl, rfl, rfl, rfl, rfl, nofun⟩
  · exact ⟨ownedState (.core 0) .freeze fun s => { s with waves := [(0, roleWave (some ⟨0, 0, 0, 0, 0, 0, 0, 0, .run, false⟩))] }, 0, 0, 0, loadBlock, by decide +kernel, rfl,
      by decide +kernel, by decide +kernel, by decide +kernel, rfl, 0, _, rfl, rfl, rfl, rfl, rfl, rfl, nofun⟩
/-- The drain entry that wave 0 owed from inside its handler. -/
theorem witness_MatrixFreeze_owed : ∃ (s : State) (k p b : Nat) (bl : Block) (w a : Nat) (x : Wave), (s.core k).mx.owner = some b ∧ aget s.blocks b = some bl ∧ s.partOf bl = p ∧
    (s.part p).stage = .run ∧ (s.part p).drains = [(w, a)] ∧ aget s.waves w = some x ∧ x.core = k ∧ x.trap = none ∧ x.paths ≠ [] ∧ s.cur = .event (.core k) :=
  ⟨(ownedState (.core 0) .run id).modPart 0 fun q => { q with drains := [(0, 0)] }, 0, 0, 0, loadBlock, 0, 0, loadWave 0, by decide +kernel, rfl, by decide +kernel,
    by decide +kernel, by decide +kernel, rfl, rfl, rfl, nofun, rfl⟩
theorem witness_SaddlebagSave_early : ∃ (s : State) (p : Nat), (s.part p).stage = .freeze ∧ s.atRest p = false ∧ s.cur = .event (.part p) :=
  ⟨ownedState (.part 0) .freeze id, 0, by decide +kernel, by decide +kernel, rfl⟩
theorem witness_SaddlebagSave : ∃ (s : State) (p : Nat), (s.part p).stage = .freeze ∧ s.atRest p = true ∧ (s.part p).nextReq = 0 ∧ s.cur = .event (.part p) ∧ s.enginesOf p ≠ [] :=
  ⟨ownedState (.part 0) .freeze fun s => (s.modMx 0 fun m => { m with frozen := true }).modPart 0 fun q => { q with drained := [0] }, 0, by decide +kernel, by decide +kernel, by decide +kernel, rfl, by decide +kernel⟩

/-- A saved partition; another one's block stands on its cluster or not. -/
def savedState (other : Bool) : State := stageState .saved (fun q => { q with image := [(64, 7), (65, 8)] }) fun s => if other then { s with
  grids := s.grids ++ [(1, { loadGrid with id := 1, part := 1 })], blocks := s.blocks ++ [(1, { loadBlock with id := 1, grid := 1 })], parts := s.parts ++ [(1, loadPart)] } else s
theorem witness_Resume_saved_waits (r : Bool) : ∃ (s : State) (p : Nat), (s.part p).stage = .saved ∧ s.placesFree p = false ∧ (s.part p).resuming = r ∧ s.cur = .event (.part p) := by
  cases r
  · exact ⟨savedState true, 0, by decide +kernel, by decide +kernel, by decide +kernel, rfl⟩
  · exact ⟨(savedState true).modPart 0 fun q => { q with resuming := true }, 0, by decide +kernel, by decide +kernel, by decide +kernel, rfl⟩
theorem witness_SoftPreemption_saved : ∃ (s : State) (p : Nat), (s.part p).stage = .saved ∧ (s.part p).resuming = true ∧ s.cur = .event (.part p) :=
  ⟨(savedState true).modPart 0 fun q => { q with resuming := true }, 0, by decide +kernel, by decide +kernel, rfl⟩
theorem witness_Resume_saved : ∃ (s : State) (p : Nat), (s.part p).stage = .saved ∧ s.placesFree p = true ∧ (s.part p).nextReq = 0 ∧ (s.part p).recs = [] ∧
    (s.part p).engines = [] ∧ (s.part p).imageBad = false ∧ keysFrom 0 (s.part p).image = true ∧ s.cur = .event (.part p) ∧ (s.part p).image ≠ [] :=
  ⟨savedState false, 0, by decide +kernel, by decide +kernel, by decide +kernel, by decide +kernel, by decide +kernel, by decide +kernel, by decide +kernel, rfl, by decide +kernel⟩

/-- Partition 0 in state `n`. -/
def entryState (n : Nat) (bad : Bool) (h : State → State) : State := ev (.part 0) fun s => h (s.setPart 0 { loadPart with
  entry := [(0, BitVec.ofNat 64 (n * 256)), (2, 0x10000000000000#64), (6, 1#64), (9, if bad then 0x800#64 else 0)] })
theorem witness_PartitionEnable : ∃ (s : State) (p : Nat), s.hw.ready = true ∧ s.hw.off = false ∧ s.cur = .event (.part p) ∧ (s.part p).state = 0 ∧ s.enableBad p = false :=
  ⟨entryState 0 false id, 0, rfl, rfl, rfl, by decide +kernel, by decide +kernel⟩
theorem witness_PartitionEnable_bad : ∃ (s : State) (p : Nat), s.hw.ready = true ∧ s.hw.off = false ∧ s.cur = .event (.part p) ∧ (s.part p).state = 0 ∧ s.enableBad p = true :=
  ⟨entryState 0 true id, 0, rfl, rfl, rfl, by decide +kernel, by decide +kernel⟩
theorem witness_PartitionEnable_on : ∃ (s : State) (p : Nat), s.hw.ready = true ∧ s.hw.off = false ∧ s.cur = .event (.part p) ∧ (s.part p).state ≠ 0 :=
  ⟨entryState 1 false id, 0, rfl, rfl, rfl, by decide +kernel⟩
theorem witness_PartitionReset : ∃ (s : State) (p : Nat) (i : Instr) (off : Bool), (i = .partitionReset ∧ off = false ∨ i = .partitionDisable ∧ off = true) ∧
    s.cur = .event (.part p) ∧ (s.part p).state = 1 := ⟨entryState 1 false id, 0, .partitionDisable, true, .inr ⟨rfl, rfl⟩, rfl, by decide +kernel⟩
theorem witness_PartitionReset_not : ∃ (s : State) (p : Nat) (i : Instr) (off : Bool), (i = .partitionReset ∧ off = false ∨ i = .partitionDisable ∧ off = true) ∧
    s.cur = .event (.part p) ∧ (s.part p).state ≠ 1 := ⟨entryState 2 false id, 0, .partitionReset, false, .inl ⟨rfl, rfl⟩, rfl, by decide +kernel⟩
theorem witness_PartitionResetComplete : ∃ (s : State) (p : Nat), (s.part p).state = 2 ∧ s.cur = .event (.part p) ∧ ∀ e ∈ s.chans, e.2.part = p → e.2.busy = false :=
  ⟨entryState 2 false id, 0, by decide +kernel, rfl, by decide +kernel⟩
theorem witness_PartitionResetComplete_waits : ∃ (s : State) (p : Nat), (s.part p).state = 2 ∧ s.cur = .event (.part p) ∧ ∃ e ∈ s.chans, e.2.part = p ∧ e.2.busy = true :=
  ⟨entryState 2 false fun s => { s with chans := [(5, { Chan.reset with st := .running })] }, 0, by decide +kernel, rfl, by decide +kernel⟩

theorem witness_ColdReset : ∃ (s : State) (f m : Bool), s.cur = .event (.boot f m) := ⟨ev (.boot true false) id, true, false, rfl⟩
/-- Bring-up has not ended. -/
theorem witness_WarmReset_early : ∃ (s : State) (f m : Bool), s.hw.ready = false ∧ s.hw.fwerr = false ∧ s.hw.memerr = false ∧ s.cur = .event (.boot f m) :=
  ⟨ev (.boot true true) fun s => { s with hw := { s.hw with ready := false } }, true, true, rfl, rfl, rfl, rfl⟩
/-- A module that has tripped, its die 2 at 85 °C or just below; bring-up has ended, or has stopped at the firmware or the memory. -/
def warmState (t : Nat) : State := ev (.boot true true) fun s => { s with hw := { s.hw with off := true, mons := [(2, { Monitor.reset with temp := t })] } }
def warmStopped (t : Nat) (f m : Bool) : State := let s := warmState t; { s with hw := { s.hw with ready := false, fwerr := f, memerr := m } }
theorem witness_WarmReset_saddlebag : region 0x11FFFFFFFF = .saddlebag 0 := by decide +kernel
def WarmMet (Q : State → Prop) : Prop := ∃ (s : State) (f m : Bool), (s.hw.ready = true ∨ s.hw.fwerr = true ∨ s.hw.memerr = true) ∧ s.cur = .event (.boot f m) ∧ Q s
theorem witness_WarmReset_hot : WarmMet fun s => s.hw.off = true ∧ ∃ e ∈ s.hw.mons, 680 ≤ e.2.temp := ⟨warmState 680, true, true, .inl rfl, rfl, rfl, by decide⟩
def cool (s : State) : Prop := s.hw.off = false ∨ ∀ e ∈ s.hw.mons, e.2.temp < 680
theorem witness_WarmReset : WarmMet cool := ⟨warmState 679, true, true, .inl rfl, rfl, .inr (by decide)⟩
theorem witness_WarmReset_fwerr : WarmMet cool := ⟨warmStopped 679 true false, true, true, .inr (.inl rfl), rfl, .inr (by decide)⟩
theorem witness_WarmReset_memerr : WarmMet cool := ⟨warmStopped 679 false true, true, true, .inr (.inr rfl), rfl, .inr (by decide)⟩

/-! #### Channels -/

/-- Channel 2 of core 0, changed by `f`, with `l` at 0x21000. -/
def chanState (f : Chan → Chan) (l : List Word) (h : State → State) : State := ev (.chan 2) fun s => h (putDwords 0x21000 l
  { s with chans := [(2, f { Chan.reset with st := .running, nextRec := 0x21000, block := 0, size := 0x10000 })] })
def StartMet (Q : Chan → List Word → Prop) : Prop := ∃ (s : State) (c : Nat) (runs : List (List (Loc × Nat))) (s1 : State) (d : List Word), chanRuns (s.chan c) .start ∧
  (s.chan c).stop = false ∧
  s.engineX (s.chan c) [⟨.glob, (s.chan c).nextRec, 64, .load, 1⟩] = .ok (runs, s1) ∧ d = dwordsOf (s1.readRuns (dieOfCore (s.chan c).core) runs.flatten) ∧
  s.cur = .event (.chan c) ∧ Q (s.chan c) d
theorem start_met (l : List Word) (Q : Chan → List Word → Prop) [∀ k d, Decidable (Q k d)] (h0 : (chanState id l id).cur = .event (.chan 2))
    (hr : chanRuns ((chanState id l id).chan 2) .start) (hs : ((chanState id l id).chan 2).stop = false)
    (h : okB ((chanState id l id).engineX ((chanState id l id).chan 2) [⟨.glob, ((chanState id l id).chan 2).nextRec, 64, .load, 1⟩]) (fun y =>
      decide (Q ((chanState id l id).chan 2) (dwordsOf (y.2.readRuns (dieOfCore ((chanState id l id).chan 2).core) y.1.flatten)))) = true) : StartMet Q :=
  have ⟨⟨runs, s1⟩, h1, h2⟩ := ok_and h
  ⟨chanState id l id, 2, runs, s1, _, hr, hs, h1, rfl, h0, of_decide_eq_true h2⟩

theorem witness_RecordStart_stop : ∃ (s : State) (c : Nat), chanRuns (s.chan c) .start ∧ (s.chan c).stop = true ∧ s.cur = .event (.chan c) :=
  ⟨chanState (fun k => { k with stop := true }) [] id, 2, ⟨.inl rfl, rfl, rfl⟩, rfl, rfl⟩
theorem witness_RecordStart_end : StartMet fun _ d => (dw d 0).getLsbD 63 = false := start_met [0x22000] _ rfl ⟨.inl rfl, rfl, rfl⟩ rfl (by decide +kernel)
/-- An action without its object. -/
theorem witness_RecordStart_bad : StartMet fun k d => (dw d 0).getLsbD 63 = true ∧ k.recordBad d = true := start_met [0xB000000000022000#64, 0x10000] _ rfl ⟨.inl rfl, rfl, rfl⟩ rfl (by decide +kernel)
theorem witness_RecordStart : StartMet fun k d => (dw d 0).getLsbD 63 = true ∧ k.recordBad d = false ∧ (dw d 1).toNat / 2 ^ 62 = 0 :=
  start_met [0x8000000000022000#64, 0x10000] _ rfl ⟨.inl rfl, rfl, rfl⟩ rfl (by decide +kernel)

/-- A record of one range, 0x22000 on, with `n` other ranges in the core's table of 64. -/
def lockedState (n : Nat) (f : Wave → Wave) : State := chanState (fun k => { k with ph := .lock, dwords := [0x8000000000000000#64, 0x4000000000010000#64, 0, 0, 0, 0x22000, 0, 0] }) []
  fun s => { s with waves := [(0, f (loadWave 0))], msys := { s.msys with locks := (List.range n).map fun k => ⟨0, false, 0x100000 + 64 * k, 32, 3⟩ } }
def LockMet (Q : State → Chan → Prop) : Prop := ∃ (s : State) (c : Nat), chanRuns (s.chan c) .lock ∧ (s.chan c).ranges c (s.chan c).dwords ≠ [] ∧
  (∀ l ∈ s.msys.locks, l.owner ≠ c) ∧ s.cur = .event (.chan c) ∧ c = 2 ∧ Q s (s.chan c)
theorem witness_LockEntry : LockMet fun s k => (k.ranges 2 k.dwords).length ≤ s.lockRoom k.core ∧ ∀ l ∈ k.ranges 2 k.dwords, s.admitted k.part l = false :=
  ⟨lockedState 63 id, 2, ⟨.inl rfl, rfl, rfl⟩, by decide +kernel, by decide +kernel, rfl, rfl, by decide +kernel⟩
/-- A store to 0x22000 stands in a wave's queue. -/
theorem witness_LockEntry_waits : LockMet fun s k => (k.ranges 2 k.dwords).length ≤ s.lockRoom k.core ∧ ∃ l ∈ k.ranges 2 k.dwords, s.admitted k.part l = true :=
  ⟨lockedState 0 fun w => { w with queue := [⟨7, 0, .glob 0x22000, [1], none, false⟩] }, 2, ⟨.inl rfl, rfl, rfl⟩, by decide +kernel, by decide +kernel, rfl, rfl, by decide +kernel⟩
theorem witness_LockEntry_full : LockMet fun s k => s.lockRoom k.core < (k.ranges 2 k.dwords).length :=
  ⟨lockedState 64 id, 2, ⟨.inl rfl, rfl, rfl⟩, by decide +kernel, by decide +kernel, rfl, rfl, by decide +kernel⟩

/-- A record that ends, at `recd`, with its next one; the chain has its own write left, or `ph`. -/
def finishChan (next : Word) (stop : Bool) (ph : ChanPh) (k : Chan) : Chan := { k with ph := ph, recd := 0x21000, stop := stop, done := 63
                                                                                       dwords := [0x8000000000000000#64 + next, 0x10000, 0, 0, 0, 0, 0, 0] }
def finishing (next : Word) (stop : Bool) (ph : ChanPh) : State := chanState (finishChan next stop ph) [] id
def afterAction (ph : ChanPh) (s : State) : State := if ph = .finish then (s.dropLocks 2).modChan 2 (fun k => { k with ph := .own, st := .running }) else s
def FinishMet (Q : Chan → Prop) : Prop := ∃ (s : State) (c : Nat) (k : Chan) (runs : List (List (Loc × Nat))) (s1 s2 : State), k = s.chan c ∧
  (chanRuns k .finish ∧ recAction k.dwords = 0 ∧ s2 = (s.dropLocks c).modChan c (fun k => { k with ph := .own, st := .running }) ∨ chanRuns k .own ∧ s2 = s) ∧
  s2.engineX (s2.chan c) [⟨.glob, (k.recd + 4 : Nat), 4, .store, 1⟩] = .ok (runs, s1) ∧ s.cur = .event (.chan c) ∧ Q k
theorem finish_met (next : Word) (stop : Bool) (ph : ChanPh) (Q : Chan → Prop) (hp : ph = .finish ∨ ph = .own)
    (h : okB ((afterAction ph (finishing next stop ph)).engineX ((afterAction ph (finishing next stop ph)).chan 2)
      [⟨.glob, (((finishing next stop ph).chan 2).recd + 4 : Nat), 4, .store, 1⟩]) (fun _ => true) = true)
    (h1 : recAction ((finishing next stop ph).chan 2).dwords = 0) (h2 : Q ((finishing next stop ph).chan 2)) : FinishMet Q := by
  obtain ⟨⟨runs, s1⟩, h3, _⟩ := ok_and h
  rcases hp with rfl | rfl
  · exact ⟨finishing next stop .finish, 2, _, runs, s1, _, rfl, .inl ⟨⟨.inl rfl, rfl, rfl⟩, h1, rfl⟩, h3, rfl, h2⟩
  · exact ⟨finishing next stop .own, 2, _, runs, s1, _, rfl, .inr ⟨⟨.inl rfl, rfl, rfl⟩, rfl⟩, h3, rfl, h2⟩
theorem witness_RecordComplete_stop : FinishMet fun k => k.stop = true := finish_met 0x22000 true .finish _ (.inl rfl) (by decide +kernel) (by decide +kernel) rfl
theorem witness_RecordComplete_last : FinishMet fun k => k.stop = false ∧ recNext k.dwords = 0 := finish_met 0 false .finish _ (.inl rfl) (by decide +kernel) (by decide +kernel) ⟨rfl, by decide +kernel⟩
theorem witness_RecordComplete_next : FinishMet fun k => k.stop = false ∧ recNext k.dwords ≠ 0 := finish_met 0x22000 false .finish _ (.inl rfl) (by decide +kernel) (by decide +kernel) ⟨rfl, by decide +kernel⟩
/-- After a park, the action performed already. -/
theorem witness_RecordComplete_own : FinishMet fun k => k.ph = .own ∧ k.stop = false ∧ recNext k.dwords ≠ 0 :=
  finish_met 0x22000 false .own _ (.inr rfl) (by decide +kernel) (by decide +kernel) ⟨rfl, rfl, by decide +kernel⟩
/-- The record resolves a future, and the die's port holds a write. -/
theorem witness_RecordComplete_waits : ∃ (s : State) (c : Nat) (k : Chan), k = s.chan c ∧ chanRuns k .finish ∧ recAction k.dwords = 3 ∧
    (∃ p ∈ s.msys.ports, p.die = dieOfCore k.core) ∧ s.cur = .event (.chan c) :=
  ⟨chanState (fun k => { k with ph := .finish, dwords := [0xB000000000000000#64, 0x10000, 0, 0, 0, 0, 0, 0x20000] }) []
    fun s => { s with msys := { s.msys with ports := [aHeld] } }, 2, _, rfl, ⟨.inl rfl, rfl, rfl⟩, by decide +kernel, by decide +kernel, rfl⟩

def HaltMet (Q : Chan → Prop) : Prop := ∃ (s : State) (c : Nat) (k : Chan), k = s.chan c ∧ (k.st = .running ∨ k.st = .waiting ∨ k.st = .parked ∨ k.st = .frozen) ∧ s.cur = .event (.chan c) ∧ Q k
theorem halt_met (f : Chan → Chan) (Q : Chan → Prop) (h : ((chanState f [] id).chan 2).st = .running ∨ ((chanState f [] id).chan 2).st = .waiting ∨
    ((chanState f [] id).chan 2).st = .parked ∨ ((chanState f [] id).chan 2).st = .frozen) (h1 : Q ((chanState f [] id).chan 2)) : HaltMet Q := ⟨_, 2, _, rfl, h, rfl, h1⟩
theorem witness_ChannelHalt_none : HaltMet fun k => k.halt = .none := halt_met id _ (.inl rfl) rfl
theorem witness_ChannelHalt_fault : HaltMet fun k => ∃ code, k.halt = .fault code := halt_met (fun k => { k with halt := .fault 0x14, st := .parked }) _ (.inr (.inr (.inl rfl))) ⟨_, rfl⟩
/-- A chain that its grid's fault ends between its record's action and its own write; the record at `recd`. -/
def halting (recd : Nat) (f : Chan → Chan) : State := chanState (fun k => f { finishChan 0 false .own k with halt := .fault 0x14, recd := recd }) [] id
def HaltOwnMet (Q : State → Nat → Chan → Prop) : Prop := ∃ (s : State) (c : Nat) (k : Chan) (code : Nat), k = s.chan c ∧
  (k.st = .running ∨ k.st = .waiting ∨ k.st = .parked ∨ k.st = .frozen) ∧ k.ph = .own ∧ k.halt = .fault code ∧ s.cur = .event (.chan c) ∧ Q s c k
theorem witness_ChannelHalt_own : HaltOwnMet fun s _ k => ∃ (runs : List (List (Loc × Nat))) (s1 : State),
    s.engineX k [⟨.glob, (k.recd + 4 : Nat), 4, .store, 1⟩] = .ok (runs, s1) :=
  have ⟨⟨runs, s1⟩, h, _⟩ := ok_and (e := (halting 0x21000 id).engineX ((halting 0x21000 id).chan 2) [⟨.glob, 0x21004, 4, .store, 1⟩]) (P := fun _ => true) (by decide +kernel)
  ⟨halting 0x21000 id, 2, _, 0x14, rfl, .inl rfl, rfl, rfl, rfl, runs, s1, h⟩
def pageB (e : Except AErr (List (List (Loc × Nat)) × State)) : Bool := match e with
  | .error (.page _ _) => true
  | _ => false
theorem page_met {e : Except AErr (List (List (Loc × Nat)) × State)} (h : pageB e = true) : ∃ access a, e = .error (.page access a) := by
  unfold pageB at h
  split at h
  · exact ⟨_, _, rfl⟩
  · cases h
/-- Beyond the first gigabyte nothing is mapped. -/
theorem witness_ChannelHalt_own_parks : HaltOwnMet fun s _ k => k.st ≠ .parked ∧ ∃ access a, s.engineX k [⟨.glob, (k.recd + 4 : Nat), 4, .store, 1⟩] = .error (.page access a) :=
  ⟨halting 0x40000000 id, 2, _, 0x14, rfl, .inl rfl, rfl, rfl, rfl, nofun, page_met (by decide +kernel)⟩
theorem witness_ChannelHalt_own_parked : HaltOwnMet fun s c k => k.st = .parked ∧ (∃ r ∈ (s.part k.part).recs, r.seq = k.seq ∧ r.who = .chan c) ∧
    ∃ access a, s.engineX k [⟨.glob, (k.recd + 4 : Nat), 4, .store, 1⟩] = .error (.page access a) :=
  ⟨(halting 0x40000000 fun k => { k with st := .parked, seq := 1 }).setPart 0 { loadPart with recs := [aRec 1 true (.chan 2)] }, 2, _, 0x14, rfl, .inr (.inr (.inl rfl)),
    rfl, rfl, rfl, rfl, by decide +kernel, page_met (by decide +kernel)⟩
theorem witness_ChannelHalt_reset : HaltMet fun k => k.halt = .reset := halt_met (fun k => { k with halt := .reset, st := .frozen }) _ (.inr (.inr (.inr rfl))) rfl
theorem witness_ChannelHalt_freeze : HaltMet fun k => k.halt = .freeze ∧ (k.st = .running ∨ k.st = .waiting) :=
  halt_met (fun k => { k with halt := .freeze, st := .waiting }) _ (.inr (.inl rfl)) ⟨rfl, .inr rfl⟩

/-! #### Fetches -/

/-- A wave whose path stands at `a`, where `h` is read. -/
def fetchWave (a : Nat) : Wave := { loadWave 0 with paths := [⟨0, widthMask 32, a, 0, none, .run, false, false, 0⟩] }
def fetchState (a : Nat) (h : BitVec 32) : State := ev (.path 0 0) fun s => ({ s with waves := [(0, fetchWave a)] } : State).setBytes (.glob a) (bytesOf 4 h.toNat)
def FetchMet (Q : Wave → Path → BitVec 32 → Prop) : Prop := ∃ (s : State) (w p : Nat) (x : Wave) (q : Path) (y : Xlat) (h : BitVec 32), aget s.waves w = some x ∧ x.id = w ∧
  x.path p = some q ∧ q.id = p ∧ q.clause = none ∧ q.idx = 0 ∧ x.mayRun q = true ∧ x.twin = none ∧ x.forks = [] ∧ x.strict = false ∧
  s.frozenPart x = false ∧ s.scheduled x = true ∧ q.hdr % 4 = 0 ∧
  s.translate x.part (BitVec.ofNat 64 q.hdr) .fetch = .ok y ∧ s.msys.poison = [] ∧
  h = ({ s.touch x.part y false with fresh := s.fresh + 1 } : State).codeWord x.grid y.pa ∧ s.cur = .event (.path w p) ∧ Q x q h
theorem fetch_met (a : Nat) (h : BitVec 32) (Q : Wave → Path → BitVec 32 → Prop) [∀ x q h, Decidable (Q x q h)] (h0 : a % 4 = 0)
    (h1 : (fetchWave a).mayRun ⟨0, widthMask 32, a, 0, none, .run, false, false, 0⟩ = true ∧ (fetchWave a).strict = false ∧ (fetchState a h).frozenPart (fetchWave a) = false ∧
      (fetchState a h).scheduled (fetchWave a) = true) (hw : aget (fetchState a h).waves 0 = some (fetchWave a)) (hp : (fetchState a h).msys.poison = [])
    (h2 : okB ((fetchState a h).translate (fetchWave a).part (BitVec.ofNat 64 a) .fetch) (fun y => decide (Q (fetchWave a) ⟨0, widthMask 32, a, 0, none, .run, false, false, 0⟩
      (({ (fetchState a h).touch (fetchWave a).part y false with fresh := (fetchState a h).fresh + 1 } : State).codeWord (fetchWave a).grid y.pa))) = true) : FetchMet Q :=
  have ⟨y, h3, h4⟩ := ok_and h2
  ⟨fetchState a h, 0, 0, fetchWave a, ⟨0, widthMask 32, a, 0, none, .run, false, false, 0⟩, y, _, hw, rfl, rfl, rfl, rfl, rfl, h1.1, rfl, rfl, h1.2.1, h1.2.2.1, h1.2.2.2,
    h0, h3, hp, rfl, rfl, of_decide_eq_true h4⟩
theorem fetch_mono {P Q : Wave → Path → BitVec 32 → Prop} (h : FetchMet P) (k : ∀ x q h, P x q h → Q x q h) : FetchMet Q :=
  have ⟨s, w, p, x, q, y, h, h1, h2, h3, h4, h5, h6, h7, h8, h9, h10, h11, h12, h13, h14, h15, h16, h17, h18⟩ := h
  ⟨s, w, p, x, q, y, h, h1, h2, h3, h4, h5, h6, h7, h8, h9, h10, h11, h12, h13, h14, h15, h16, h17, k _ _ _ h18⟩
/-- No lane of the wave has a meeting point. -/
def noMeeting (x : Wave) (q : Path) : Prop := ∀ l, inLanes q.lanes l = true → q.hdr = 0 ∨ sget x.mtg l ≠ BitVec.ofNat 64 q.hdr
theorem no_meeting {x : Wave} {q : Path} (h : x.mtg = [] ∧ BitVec.ofNat 64 q.hdr ≠ 0) : noMeeting x q := fun l _ => .inr (by rw [h.1]; exact fun e => h.2 e.symm)
theorem fetch_free {Q : Wave → Path → BitVec 32 → Prop} (k : FetchMet fun x q h => (x.mtg = [] ∧ BitVec.ofNat 64 q.hdr ≠ 0) ∧ Q x q h) :
    FetchMet fun x q h => noMeeting x q ∧ Q x q h := fetch_mono k fun _ _ _ y => ⟨no_meeting y.1, y.2⟩
theorem witness_CodeWord : ∃ (s : State) (g pa : Nat) (gr : Grid) (m : Sparse 8), aget s.grids g = some gr ∧ gr.code = some m ∧ ∀ k, k < 4 → sget m (pa + k) = sget s.mem (pa + k) :=
  ⟨{ State.reset with grids := [(0, { loadGrid with code := some [] })] }, 0, 0, { loadGrid with code := some [] }, [], by decide, rfl, fun _ _ => rfl⟩
/-- The grid has written elsewhere. -/
theorem witness_CodeWord_own : ∃ (s : State) (g pa : Nat) (gr : Grid) (m : Sparse 8), aget s.grids g = some gr ∧ gr.code = some m ∧ gr.own ≠ [] ∧
    ∀ w ∈ gr.own, overlaps w.1 w.2 pa 4 = false :=
  ⟨{ State.reset with grids := [(0, { loadGrid with code := some [], own := [(4, 8)] })] }, 0, 0, { loadGrid with code := some [], own := [(4, 8)] }, [], by decide, rfl,
    by decide, by decide⟩
theorem witness_ClauseFetch_pad : FetchMet fun _ _ h => h = 0 := fetch_met 0x2017C 0 _ (by decide) (by decide +kernel) rfl rfl (by decide +kernel)
/-- Three words behind the header fill the block. -/
theorem witness_ClauseFetch : FetchMet fun x q h => noMeeting x q ∧ h ≠ 0 ∧ hdrFits q.hdr h = true ∧ hdrOk h = true ∧ roleOk x.role (hdrClass h) = true :=
  fetch_free (fetch_met 0x20170 0x30000000 _ (by decide) (by decide +kernel) rfl rfl (by decide +kernel))
theorem witness_ClauseFetch_misfit : FetchMet fun x q h => noMeeting x q ∧ h ≠ 0 ∧ hdrFits q.hdr h = false :=
  fetch_free (fetch_met 0x20174 0x30000000 _ (by decide) (by decide +kernel) rfl rfl (by decide +kernel))
/-- Class 7 is reserved; class 3 is the matrix engines'. -/
theorem witness_ClauseFetch_format : FetchMet fun x q h => noMeeting x q ∧ h ≠ 0 ∧ hdrFits q.hdr h = true ∧ hdrOk h = false :=
  fetch_free (fetch_met 0x20170 0x3E000000 _ (by decide) (by decide +kernel) rfl rfl (by decide +kernel))
theorem witness_ClauseFetch_role : FetchMet fun x q h => noMeeting x q ∧ h ≠ 0 ∧ hdrFits q.hdr h = true ∧ hdrOk h = true ∧ roleOk x.role (hdrClass h) = false :=
  fetch_free (fetch_met 0x20170 0x36000000 _ (by decide) (by decide +kernel) rfl rfl (by decide +kernel))

/-- The header at 0x20174 is the meeting point of lane 3. -/
theorem witness_ClauseFetch_meet : ∃ (s : State) (w p : Nat) (x : Wave) (q : Path) (y : Xlat) (h : BitVec 32), aget s.waves w = some x ∧ x.id = w ∧ x.path p = some q ∧
    q.clause = none ∧ x.mayRun q = true ∧ s.translate x.part (BitVec.ofNat 64 q.hdr) .fetch = .ok y ∧
    h = ({ s.touch x.part y false with fresh := s.fresh + 1 } : State).codeWord x.grid y.pa ∧ s.cur = .event (.path w p) ∧ h ≠ 0 ∧
    ∃ l, inLanes q.lanes l = true ∧ l < 64 ∧ q.hdr ≠ 0 ∧ sget x.mtg l = BitVec.ofNat 64 q.hdr :=
  let s : State := (fetchState 0x20174 0x30000000).modWave 0 fun w => { w with mtg := [(3, 0x20174#64)] }
  have ⟨y, h1, h2⟩ := ok_and (e := s.translate 0 (BitVec.ofNat 64 0x20174) .fetch)
    (P := fun y => decide (({ s.touch 0 y false with fresh := s.fresh + 1 } : State).codeWord 0 y.pa ≠ 0)) (by decide +kernel)
  ⟨s, 0, 0, { fetchWave 0x20174 with mtg := [(3, 0x20174#64)] }, ⟨0, widthMask 32, 0x20174, 0, none, .run, false, false, 0⟩, y, _, by decide +kernel, rfl, rfl, rfl, by decide +kernel,
    h1, rfl, rfl, of_decide_eq_true h2, 3, by decide +kernel, by decide, by decide, by decide +kernel⟩

def progState (h : BitVec 32) : State := chanState (fun k => { k with ph := .run, hdr := 0x20170 }) [] fun s => s.setBytes (.glob 0x20170) (bytesOf 4 h.toNat)
def ProgMet (Q : Chan → BitVec 32 → Prop) : Prop := ∃ (s : State) (c : Nat) (y : Xlat) (h : BitVec 32), chanRuns (s.chan c) .run ∧ (s.chan c).clause = none ∧ (s.chan c).hdr % 4 = 0 ∧
  s.translate (s.chan c).part (BitVec.ofNat 64 (s.chan c).hdr) .fetch = .ok y ∧ s.msys.poison = [] ∧
  h = ({ s.touch (s.chan c).part y false with fresh := s.fresh + 1 } : State).codeWord (s.chan c).grid y.pa ∧ s.cur = .event (.chan c) ∧ Q (s.chan c) h
theorem prog_met (h : BitVec 32) (Q : Chan → BitVec 32 → Prop) [∀ k h, Decidable (Q k h)] (h1 : okB ((progState h).translate ((progState h).chan 2).part (BitVec.ofNat 64 ((progState h).chan 2).hdr) .fetch)
    (fun y => decide (Q ((progState h).chan 2) (({ (progState h).touch ((progState h).chan 2).part y false with fresh := (progState h).fresh + 1 } : State).codeWord ((progState h).chan 2).grid y.pa))) = true)
    (h2 : ((progState h).chan 2).st = .running ∧ ((progState h).chan 2).halt = .none ∧ ((progState h).chan 2).ph = .run) (h3 : ((progState h).chan 2).clause = none ∧
      ((progState h).chan 2).hdr % 4 = 0) (h4 : (progState h).msys.poison = []) (h5 : (progState h).cur = .event (.chan 2)) : ProgMet Q :=
  have ⟨y, h6, h7⟩ := ok_and h1
  ⟨progState h, 2, y, _, ⟨.inl h2.1, h2.2⟩, h3.1, h3.2, h6, h4, rfl, h5, of_decide_eq_true h7⟩
theorem witness_ProgramFetch_pad : ProgMet fun _ h => h = 0 := prog_met 0 _ (by decide +kernel) (by decide +kernel) (by decide +kernel) rfl rfl
theorem witness_ProgramFetch : ProgMet fun k h => h ≠ 0 ∧ hdrFits k.hdr h = true ∧ hdrOk h = true ∧ hdrClass h = 4 ∧ (h.extractLsb 24 19).toNat = 0 :=
  prog_met 0x38000000 _ (by decide +kernel) (by decide +kernel) (by decide +kernel) rfl rfl

theorem witness_ProgramFetch_bad : ProgMet fun k h => h ≠ 0 ∧ (hdrFits k.hdr h = false ∨ hdrOk h = false ∨ hdrClass h ≠ 4 ∨ (h.extractLsb 24 19).toNat ≠ 0) :=
  prog_met 0x30000000 _ (by decide +kernel) (by decide +kernel) (by decide +kernel) rfl rfl

/-- Channel 2 waits at an MV.MC with `n` credits. -/
def mcWord : BitVec 32 := ((encode (.mvMc oE)).getD ⟨none, 0, none⟩).word
def mcState (n : Nat) : State := chanState (fun k => { mcChan n k with st := .waiting, ph := .run, hdr := loadAt, idx := 1, clause := some (loadClause mcWord) }) [] id
def mcIssued (n : Nat) : State := { (mcState n).modChan 2 (fun k => { k with issued := (mcState n).clock + 1 }) with cur := .chan 2 loadAt (loadClause mcWord).hdr 1 2 }
def mcCtx (n : Nat) : ECtx := ⟨2, (mcIssued n).chan 2, loadAt, (loadClause mcWord).hdr, 1, 2⟩
def McReserveMet (n : Nat) (Q : State → ECtx → Prop) : Prop := ∃ (s s0 : State) (c : Nat) (cl : Clause) (words : Words) (next : Nat) (o : OpsG) (e : ECtx) (m : Multicast),
  (s.chan c).st = .waiting ∧ (s.chan c).ph = .run ∧ (s.chan c).halt = .none ∧ (s.chan c).clause = some cl ∧ cl.next (s.chan c).idx = .words words next ∧
  words.pfx = none ∧ decode (.engine (cl.restLit next)) words = .ok (.mvMc o) ∧ (∀ e ∈ s.chans, e.1 / 4 = c / 4 → e.2.issued ≠ s.clock + 1) ∧
  s0 = { s.modChan c (fun k => { k with issued := s.clock + 1 }) with cur := .chan c (s.chan c).hdr cl.hdr (s.chan c).idx next } ∧
  e = ⟨c, s0.chan c, (s.chan c).hdr, cl.hdr, (s.chan c).idx, next⟩ ∧ s.cur = .event (.chan c) ∧ e.ch.mc = some m ∧ m = theMc n ∧ o = oE ∧
  m.desc = (e.x oE.d).toNat ∧ ordersBad e.ch [⟨.glob, (e.x oE.d).toInt, 64, .load, 64⟩, ⟨.reg, (e.x oE.a).toInt, (e.x oE.b).toNat, .load, 1⟩] = none ∧
  (e.x oE.d).toNat % 64 = 0 ∧ (∀ r ∈ groupRings m.dwords, (e.x oE.b).toNat ≤ 2 ^ r.2.lsize) ∧ Q s0 e
theorem mc_reserve_met (n : Nat) (Q : State → ECtx → Prop) (h : decode (.engine ((loadClause mcWord).restLit 2)) ⟨none, mcWord, none⟩ = .ok (.mvMc oE))
    (h1 : (loadClause mcWord).next 1 = .words ⟨none, mcWord, none⟩ 2) (h2 : ∀ e ∈ (mcState n).chans, e.1 / 4 = 2 / 4 → e.2.issued ≠ (mcState n).clock + 1)
    (h3 : ((mcCtx n).ch.mc = some (theMc n) ∧ (theMc n).desc = ((mcCtx n).x oE.d).toNat ∧
      ordersBad (mcCtx n).ch [⟨.glob, ((mcCtx n).x oE.d).toInt, 64, .load, 64⟩, ⟨.reg, ((mcCtx n).x oE.a).toInt, ((mcCtx n).x oE.b).toNat, .load, 1⟩] = none ∧
      ((mcCtx n).x oE.d).toNat % 64 = 0 ∧ ∀ r ∈ groupRings (theMc n).dwords, ((mcCtx n).x oE.b).toNat ≤ 2 ^ r.2.lsize)) (h4 : Q (mcIssued n) (mcCtx n)) : McReserveMet n Q :=
  ⟨mcState n, mcIssued n, 2, loadClause mcWord, ⟨none, mcWord, none⟩, 2, oE, mcCtx n, theMc n, rfl, rfl, rfl, rfl, h1, rfl, h, h2, rfl, rfl, rfl, h3.1, rfl, rfl,
    h3.2.1, h3.2.2.1, h3.2.2.2.1, h3.2.2.2.2, h4⟩
theorem witness_McReserve_waits : McReserveMet 0 fun _ _ => ∃ r ∈ groupRings (theMc 0).dwords, (theMc 0).credits.getD r.1 0 = 0 :=
  mc_reserve_met 0 _ (by decide +kernel) (by decide +kernel) (by decide +kernel) (by decide +kernel) (by decide +kernel)
theorem witness_McReserve : McReserveMet 1 McFull :=
  mc_reserve_met 1 _ (by decide +kernel) (by decide +kernel) (by decide +kernel) (by decide +kernel) (mc_full _ _ (by decide +kernel) (by decide +kernel))

/-! #### Matrix engines -/

/-- Core 0's engine runs `o`, with `pops` in its pop queue. -/
def headState (o : MxOp) (pops : List (Nat × Nat)) (h : State → State) : State := ev (.core 0) fun s =>
  h { s.setCore 0 { Core.reset with mx := { Matrix.reset with ops := [o, anOp 4], pops := pops, accepted := 4, completed := 2 } } with blocks := [(0, mxBlk)] }
/-- A product of tile 2: M = N = 2, K = 40, in two chunks; with a gate on ring 0. -/
def mulDesc (gate : Bool) : List Word := [BitVec.ofNat 64 (2 * 2 ^ 40 + 2 * 2 ^ 23 + 2 * 2 ^ 16 + 40), 0x5000000000#64, 0x5000001000#64, 0, 0, 0, if gate then 0x8000000000000000#64 else 0, 0]
def mulOp (step : Nat) (gate : Bool) : MxOp := { anOp 3 with kind := .mul (mulDesc gate) 5, step := step, table := 0x20000, size := 0x10000 }
def HeadMet (step : Nat) (Q : State → MxOp → Prop) : Prop := ∃ (s : State) (k : Nat) (o : MxOp) (rest : List MxOp), mxAt s k o rest step ∧ s.cur = .event (.core k) ∧ k = 0 ∧ Q s o

theorem witness_MatrixStart_row : HeadMet 1 fun s o => ∃ d seq, o.kind = .mul d seq ∧ ∃ e ∈ (s.core 0).mx.pops, e.1 = mxAcc d :=
  ⟨headState (mulOp 1 false) [(2, 63)] id, 0, mulOp 1 false, [anOp 4], ⟨rfl, rfl, rfl, rfl⟩, rfl, rfl, mulDesc false, 5, rfl, by decide +kernel⟩
theorem witness_MatrixStart : HeadMet 1 fun s o => ∃ d seq, o.kind = .mul d seq ∧ ∀ e ∈ (s.core 0).mx.pops, e.1 ≠ mxAcc d :=
  ⟨headState (mulOp 1 false) [(3, 63)] id, 0, mulOp 1 false, [anOp 4], ⟨rfl, rfl, rfl, rfl⟩, rfl, rfl, mulDesc false, 5, rfl, by decide +kernel⟩
theorem witness_MatrixStart_zero : HeadMet 1 fun s o => o.kind = .zero 7 ∧ ∀ e ∈ (s.core 0).mx.pops, e.1 ≠ 7 :=
  ⟨headState { anOp 3 with kind := .zero 7 } [(3, 63)] id, 0, { anOp 3 with kind := .zero 7 }, [anOp 4], ⟨rfl, rfl, rfl, rfl⟩, rfl, rfl, rfl, by decide +kernel⟩
theorem witness_MatrixStart_loadacc : HeadMet 1 fun s o => o.kind = .loadacc 7 0xC000 ∧ (∀ e ∈ (s.core 0).mx.pops, e.1 ≠ 7) ∧ s.msys.eccBad = [] :=
  ⟨headState { anOp 3 with kind := .loadacc 7 0xC000 } [(3, 63)] id, 0, { anOp 3 with kind := .loadacc 7 0xC000 }, [anOp 4], ⟨rfl, rfl, rfl, rfl⟩, rfl, rfl, rfl, by decide +kernel, rfl⟩
theorem witness_MatrixStart_stacc : HeadMet 1 fun _ o => o.kind = .stacc 7 0xC000 :=
  ⟨headState { anOp 3 with kind := .stacc 7 0xC000 } [] id, 0, { anOp 3 with kind := .stacc 7 0xC000 }, [anOp 4], ⟨rfl, rfl, rfl, rfl⟩, rfl, rfl, rfl⟩

/-- The gate's count 5 is slot 1 in the odd phase. -/
def gateState (byte1 : Nat) : State := headState (mulOp 2 true) [] fun s => (ringMem false 0 0 s).setBytes (.glob 0x21041) [BitVec.ofNat 8 byte1]
def GateMet (pass : Bool) : Prop := HeadMet 2 fun s o => ∃ (d : List Word) (seq : Nat) (r : Ring) (i : Nat) (ph : Bool) (s1 : State) (x : Xlat), o.kind = .mul d seq ∧
  s.mxGateSlot 0 o d seq = .ok (r, i, ph, s1) ∧ s1.ringMem o.part r = .ok x ∧
  s1.poisoned (.glob (x.pa + 64 + i)) 1 = false ∧ (s1.slotByte x.pa i).toNat < 4 ∧
  decide (s1.slotByte x.pa i = BitVec.ofNat 8 (1 + if ph then 2 else 0)) = pass
theorem gate_met (byte1 : Nat) (pass : Bool) (hm : mxAt (gateState byte1) 0 (mulOp 2 true) [anOp 4] 2) (hc : (gateState byte1).cur = .event (.core 0))
    (h : okB ((gateState byte1).mxGateSlot 0 (mulOp 2 true) (mulDesc true) 5) (fun y => okB (y.2.2.2.ringMem 0 y.1) fun x =>
      decide (y.2.2.2.poisoned (.glob (x.pa + 64 + y.2.1)) 1 = false ∧ (y.2.2.2.slotByte x.pa y.2.1).toNat < 4 ∧ decide (y.2.2.2.slotByte x.pa y.2.1 = BitVec.ofNat 8 (1 + if y.2.2.1 then 2 else 0)) = pass)) = true) : GateMet pass :=
  have ⟨⟨r, i, ph, s1⟩, h1, h2⟩ := ok_and h
  have ⟨x, h3, h4⟩ := ok_and h2
  have h5 := of_decide_eq_true h4
  ⟨gateState byte1, 0, mulOp 2 true, [anOp 4], hm, hc, rfl, mulDesc true, 5, r, i, ph, s1, x, rfl, h1, h3, h5.1, h5.2.1, h5.2.2⟩
theorem witness_GateObserve : GateMet true := gate_met 3 _ (by unfold mxAt; decide +kernel) rfl (by decide +kernel)
theorem witness_GateObserve_waits : GateMet false := gate_met 1 _ (by unfold mxAt; decide +kernel) rfl (by decide +kernel)
theorem witness_MatrixLockEntry : HeadMet 3 fun s o => ∃ d seq t ok, o.kind = .mul d seq ∧
    s.lockStep (1152 + 0) o.part [o.lockOf 0 (mxA d) (mxK d), o.lockOf 0 (mxB d) (mxK d)] = (t, ok) :=
  ⟨headState (mulOp 3 false) [] id, 0, mulOp 3 false, [anOp 4], ⟨rfl, rfl, rfl, rfl⟩, rfl, rfl, mulDesc false, 5, _, _, rfl, rfl⟩
theorem witness_KChunk : HeadMet 4 fun s o => ∃ d seq, o.kind = .mul d seq ∧ s.msys.eccBad = [] ∧ o.chunk + 1 < mxChunks d ∧ mxM d ≤ 64 ∧ mxN d ≤ 64 :=
  ⟨headState (mulOp 4 false) [] id, 0, mulOp 4 false, [anOp 4], ⟨rfl, rfl, rfl, rfl⟩, rfl, rfl, mulDesc false, 5, rfl, rfl, by decide +kernel, by decide +kernel, by decide +kernel⟩
theorem witness_MatrixCompletion : HeadMet 5 fun _ o => ∃ d seq, o.kind = .mul d seq ∧ mxGrel d = false ∧ mxAction d = 0 :=
  ⟨headState (mulOp 5 false) [] id, 0, mulOp 5 false, [anOp 4], ⟨rfl, rfl, rfl, rfl⟩, rfl, rfl, mulDesc false, 5, rfl, by decide +kernel, by decide +kernel⟩
theorem witness_MatrixCompletion_other : HeadMet 7 fun _ o => ∀ d seq, o.kind ≠ .mul d seq :=
  ⟨headState { anOp 3 with step := 7 } [] id, 0, { anOp 3 with step := 7 }, [anOp 4], ⟨rfl, rfl, rfl, rfl⟩, rfl, rfl, nofun⟩

/-! ### Words that the spec writes out -/

/-- The word alone decodes to the instruction. -/
def reads (w : BitVec 32) (i : Instr) : Bool := decide (decode .bare ⟨none, w, none⟩ = .ok i)
def g (d a b : BitVec 7) : OpsG := ⟨0, d, a, b, none⟩

/-- The examples of the integer and uniform reference. -/
theorem test_decode_integer : (reads 0x00414286 (.add .i32 ⟨0, 5, 5, 6, none, none⟩) && reads 0x0AC04103 (.cmpLt .i32 ⟨0, 1, 2, 3, none, none⟩) &&
    reads 0x0FE28103 (.lea 3 ⟨0, 10, 2, 3, none, none⟩) && reads 0x22A0C082 (.ucmpLt .n (g 3 1 2)) && reads 0x22010880 (.movl (g 4 17 0)) &&
    reads 0x22218482 (.ulane (g 6 9 2))) = true := by decide +kernel
/-- MAD's example, with its prefix. -/
theorem test_decode_prefix : decode .bare ⟨some 0x3E000260, 0x86020103, none⟩ =
    .ok (.mad .i32 ⟨2, 8, 2, 3, none, some ⟨0, false, false, false, 0, 9, true⟩⟩) := by decide +kernel
/-- The examples of the floating-point and cross-lane reference. -/
theorem test_decode_float : (reads 0x91A20103 (.fma .f32 ⟨2, 8, 2, 3, none, none⟩) && reads 0x94A04103 (.fcmpLt .f32 ⟨2, 1, 2, 3, none, none⟩) &&
    reads 0x9B618103 (.kqdec ⟨2, 6, 2, 3, none, none⟩) && reads 0xDE214201 (.shflX ⟨3, 5, 4, 1, none, none⟩) &&
    reads 0xDF218200 (.redux .maxixF32 ⟨3, 6, 4, 0, none, none⟩)) = true := by decide +kernel
/-- DOT's mandatory control word. -/
theorem test_decode_control_word : decode .bare ⟨none, 0x9C428103, some 0x5414⟩ = .ok (.dot .e4m3 ⟨2, 10, 2, 3, some 0x5414, none⟩) ∧
    (decode .bare ⟨none, 0x9C428103, none⟩).isOk = false := by decide +kernel
/-- The examples of the control reference. -/
theorem test_decode_control : (reads 0x2EA00181 (.brx (g 0 3 1)) && reads 0x2EE00380 (.callx (g 0 7 0)) && reads 0x2F000000 (.ret ⟨0, 0⟩) &&
    reads 0x30000480 (.meetV (g 0 9 0)) && reads 0x30800012 (.trap ⟨0, 0x12⟩) && reads 0x2FA00003 (.barSync ⟨0, 3⟩) && reads 0x30210500 (.barArrive (g 4 10 0)) &&
    reads 0x30400504 (.barWait (g 0 10 4)) && reads 0x30C20380 (.rng (g 8 7 0)) && reads 0x30E00304 (.icPf (g 0 6 4)) &&
    reads 0xB1610001 (.forkStat ⟨2, 4, 0, 1, none⟩) && reads 0x31800001 (.forkKill (g 0 0 1)) && reads 0x31A00301 (.forkClr (g 0 6 1))) = true := by decide +kernel
theorem test_decode_literal : decode .bare ⟨none, 0x30600500, some 0x1000⟩ = .ok (.barExpect ⟨0, 0, 10, 0, some 0x1000⟩) := by decide +kernel
/-- The examples of the memory reference. -/
theorem test_decode_memory : (reads 0x27614348 (.ldo .n64 ⟨0, 5, 6, .dev, .acq, 0⟩) && reads 0x2780C330 (.sto .n32 ⟨0, 3, 6, .blk, .rel, 0⟩) &&
    reads 0x27C0000A (.fence ⟨0, 10⟩) && reads 0x27E00000 (.fenceScSys ⟨0, 0⟩) && reads 0x2A210340 (.atomAdd .n64 ⟨0, 4, 6, .dev, .rlx, 0⟩) &&
    reads 0x2BA10358 (.cas .n64 ⟨0, 4, 6, .dev, .acqrel, 0⟩) && reads 0x2BC08340 (.redAddF32 ⟨0, 2, 6, .dev, .rlx, 0⟩) && reads 0x2CA00203 (.send (g 0 4 3)) &&
    reads 0x2CC14003 (.recv (g 5 0 3))) = true := by decide +kernel
/-- The examples of the Awl chapters. -/
theorem test_decode_awl : (reads 0x3C00C301 (.awlGo (g 3 6 1)) && reads 0x3C214006 (.awlStat (g 5 0 6)) && reads 0x3C400001 (.awlStop (g 0 0 1)) &&
    reads 0x3600C082 (.aAdd (g 3 1 2)) && reads 0x37C08001 (.aArg (g 2 0 1)) && reads 0x37A10103 (.aLdx .n64 (g 4 2 3)) && reads 0x38000005 (.aB ⟨0, 5⟩) &&
    reads 0x38A117FD (.aLoop ⟨0, 1, 2, -3⟩) && reads 0x38E00000 (.aHalt ⟨0, 0⟩) && reads 0x39000007 (.aTrap ⟨0, 7⟩) && reads 0x3A000085 (.tdSet (g 0 1 5)) &&
    reads 0x3A608205 (.tdStep (g 2 4 5)) && reads 0x3AA04103 (.mvBytes (g 1 2 3)) && reads 0x3AC04008 (.mvTile (g 1 0 8)) && reads 0x3B004008 (.mvReblk (g 1 0 8)) &&
    reads 0x3B224103 (.mvMc (g 9 2 3)) && reads 0x3B400202 (.aPost (g 0 4 2)) && reads 0x3B81C300 (.aArrive (g 7 6 0)) && reads 0x3BA0031F (.aResolve (g 0 6 31))) = true := by decide +kernel
/-- The examples of the matrix chapter. -/
theorem test_decode_matrix : (reads 0x3400C307 (.mxIssue (g 3 6 7)) && reads 0x34220000 (.mxPop (g 8 0 0)) && reads 0x34400002 (.mxZero (g 0 0 2)) &&
    reads 0x34604200 (.mxLoadacc (g 1 4 0)) && reads 0x34804200 (.mxStacc (g 1 4 0)) && reads 0x34E00500 (.mxDrain (g 0 10 0)) && reads 0x35000500 (.mxRestore (g 0 10 0)) &&
    reads 0x35200000 (.mxFence (g 0 0 0)) && reads 0x35600180 (.mxWait (g 0 3 0)) && reads 0x35414001 (.mxStat (g 5 0 1))) = true := by decide +kernel
/-- The examples of the Tree unit's chapter. -/
theorem test_decode_tree : (reads 0x32010300 (.nlaunch (g 4 6 0)) && reads 0xB2C14001 (.movd ⟨2, 5, 0, 1, none⟩) && reads 0x32E00300 (.futNew (g 0 6 0)) &&
    reads 0x33000307 (.futResolve (g 0 6 7)) && reads 0x33600307 (.futFail (g 0 6 7)) && reads 0x33220300 (.futAwait (g 8 6 0)) && reads 0x33420300 (.futPoll (g 8 6 0)) &&
    reads 0x3382450B (.contSave (g 9 10 11)) && reads 0x33A24500 (.contWake (g 9 10 0))) = true := by decide +kernel
/-- A word and its encoding: add.i32 v5, v5, v6 and MAD with its prefix. -/
theorem test_encode : encode (.add .i32 ⟨0, 5, 5, 6, none, none⟩) = some ⟨none, 0x00414286, none⟩ ∧
    encode (.mad .i32 ⟨2, 8, 2, 3, none, some ⟨0, false, false, false, 0, 9, true⟩⟩) = some ⟨some 0x3E000260, 0x86020103, none⟩ := by decide +kernel
/-- Unassigned opcodes (R47, R48): 0x06F and 0x1FF. -/
theorem test_decode_unassigned : reads 0x0DE00000 (.unassignedEntry 0x0DE00000) = true ∧ reads 0x3FE00000 (.unassignedEntry 0x3FE00000) = true := by decide +kernel

/-! ### Terms that the form checks refuse -/

/-- An unused field that is not 0. -/
theorem test_wf_zero : (Instr.not ⟨0, 1, 2, 3, none, none⟩).wf = false := by decide
/-- p8, x32, td4, acc8 and a display register beyond 15. -/
theorem test_wf_files : (Instr.cmpLt .i32 ⟨0, 8, 2, 3, none, none⟩).wf = false ∧ (Instr.aAdd (g 32 0 0)).wf = false ∧ (Instr.tdSet (g 4 0 0)).wf = false ∧
    (Instr.mxZero (g 0 0 8)).wf = false ∧ (Instr.movd (g 0 0 16)).wf = false := by decide
/-- An odd pair. -/
theorem test_wf_pair : (Instr.ldGN64X2 .v (g 5 2 0)).wf = false := by decide
/-- A literal where the entry takes none, beside the field it replaces, or missing where it is mandatory. -/
theorem test_wf_literal : (Instr.movp ⟨0, 1, 2, 0, some 5, none⟩).wf = false ∧ (Instr.add .i32 ⟨0, 1, 2, 3, some 5, none⟩).wf = false ∧
    (Instr.dot .e4m3 ⟨0, 1, 2, 3, none, none⟩).wf = false := by decide
/-- A compare accepts zero; sat, rnd and the fourth register are refused where the entry does not accept them. -/
def pfx (zero sat rnd four : Bool) : Pfx := ⟨1, zero, sat, rnd, 0, 0, four⟩
theorem test_wf_prefix : (Instr.cmpLt .i32 ⟨0, 1, 2, 3, none, some (pfx true false false false)⟩).wf = true ∧ (Instr.cmpLt .i32 ⟨0, 1, 2, 3, none, some (pfx true true false false)⟩).wf = false ∧
    (Instr.and ⟨0, 1, 2, 3, none, some (pfx false true false false)⟩).wf = false ∧ (Instr.add .i32 ⟨0, 1, 2, 3, none, some (pfx false false true false)⟩).wf = false ∧
    (Instr.add .i32 ⟨0, 1, 2, 3, none, some (pfx false false false true)⟩).wf = false := by decide
theorem test_wf_unassigned : (Instr.unassignedEntry 0x00414286).wf = false ∧ (Instr.unassignedEntry 0x0DE00000).wf = true := by decide
theorem test_wf_reserved : (Instr.atomAdd .n64 ⟨0, 4, 6, .dev, .rlx, 1⟩).wf = false := by decide

/-! ### One step, with results from the spec's examples -/

/-- Lane 0's register `r` after the word, its registers being `l` before. -/
def lane0 (i : Instr) (l : List (Nat × Word)) (r : Nat) : Option Word := match exec i (standing i (fun w => { w with v := l }) id) with
  | .next t => some (t.regIn 0 (.v r) 0)
  | _ => none

/-- `add.n8` of 200 and 100 gives 255 under sat, and wraps to 44 without. -/
theorem test_add_sat : lane0 (.add .n8 ⟨0, 1, 2, 3, none, some ⟨0, false, true, false, 0, 0, false⟩⟩) [(2, 200), (3, 100)] 1 = some 255 := by decide +kernel
theorem test_add_wraps : lane0 (.add .n8 ⟨0, 1, 2, 3, none, none⟩) [(2, 200), (3, 100)] 1 = some 44 := by decide +kernel
/-- `mulhi.n32` of 0xFFFFFFFF and 0xFFFFFFFF gives 0xFFFFFFFE. -/
theorem test_mulhi : lane0 (.mulhi .n32 ⟨0, 1, 2, 3, none, none⟩) [(2, 0xFFFFFFFF), (3, 0xFFFFFFFF)] 1 = some 0xFFFFFFFE := by decide +kernel
/-- `min.n8` of 0xFF and 0x01 gives 0x01, `min.i8` 0xFF. -/
theorem test_min : lane0 (.min .n8 ⟨0, 1, 2, 3, none, none⟩) [(2, 0xFF), (3, 1)] 1 = some 1 ∧
    lane0 (.min .i8 ⟨0, 1, 2, 3, none, none⟩) [(2, 0xFF), (3, 1)] 1 = some 0xFF := by decide +kernel
/-- `clz.n32` of an element 0x00008000 gives 16. -/
theorem test_clz : lane0 (.clz .n32 ⟨0, 1, 2, 0, none, none⟩) [(2, 0x8000)] 1 = some 0x2000000010#64 := by decide +kernel
/-- `bfe.i32 v2, v1, 0x0804` on the element 0x00000F70 gives 0xFFFFFFF7. -/
theorem test_bfe : lane0 (.bfe .i32 ⟨0, 2, 1, 0, some 0x0804, none⟩) [(1, 0xF70)] 2 = some 0xFFFFFFF7#64 := by decide +kernel
/-- NAR's table: va = (70000, -5), vb = (-40000, 12). -/
theorem test_nar : lane0 (.nar .i16 ⟨0, 6, 2, 3, none, none⟩) [(2, 0xFFFFFFFB00011170#64), (3, 0x0000000CFFFF63C0#64)] 6 = some 0x000C63C0FFFB1170#64 := by decide +kernel
theorem test_nar_sat : lane0 (.nar .i16 ⟨0, 6, 2, 3, none, some ⟨0, false, true, false, 0, 0, false⟩⟩)
    [(2, 0xFFFFFFFB00011170#64), (3, 0x0000000CFFFF63C0#64)] 6 = some 0x000C8000FFFB7FFF#64 := by decide +kernel
/-- `kqdec`: index 0x85A3 in element 0 and control 0 give (-1.5, -0.5, 1.5, 0.5). -/
theorem test_kqdec : lane0 (.kqdec ⟨0, 6, 2, 3, none, none⟩) [(2, 0x85A3)] 6 = some 0x3F003FC0BF00BFC0#64 := by decide +kernel
/-- A source that is the destination, and lane 31 beside lane 0: each lane reads its own. -/
theorem test_add_in_place : (match exec (.add .i32 ⟨0, 5, 5, 6, none, none⟩) (standing (.add .i32 ⟨0, 5, 5, 6, none, none⟩)
      (fun w => { w with v := [(5, 0xFFFFFFFF#64), (6, 1), (31 * 128 + 5, 7), (31 * 128 + 6, 8)] }) id) with
    | .next t => some (t.regIn 0 (.v 5) 0, t.regIn 0 (.v 5) 31)
    | _ => none) = some (0, 15) := by decide +kernel
/-- The clock step at 95 °C: 3,300 MHz falls to 3,200. -/
theorem test_thermal : (match exec .thermalWarning (ev (.die 1 760) id) with
    | .next t => (aget t.hw.mons 1).map Monitor.fstep
    | _ => none) = some 32 := by decide +kernel

end Sys2Proof.Tests
end

/-!
SUPPORT. The direct branches of R170: where a branch leaves its path, how its words decode, and when p0 reads true.
-/
namespace Sys2Proof.Machine
open Sys2Proof.Claims

/-! ### Where a branch leaves its path -/

/-- The model's branch target is the spec's H + 4 × offset, modulo `2^64` (R33). -/
theorem WCtx.target_eq_branchTarget (c : WCtx) (off : Int) : c.target off = branchTarget c off := by
  unfold WCtx.target branchTarget addOff
  rw [BitVec.toNat_add, BitVec.toNat_ofNat, BitVec.toNat_ofInt]
  omega

/-- Past the last word of its clause a path goes to the next clause header (R169). -/
theorem WCtx.advanced_of_last (c : WCtx) (h : (c.hword.extractLsb 31 28).toNat < c.next) :
    c.advanced = c.p.goto (c.hdr + 4 * ((c.hword.extractLsb 31 28).toNat + 1)) := by
  unfold WCtx.advanced
  rw [if_neg (Nat.not_le.2 h)]
  rfl

/-- A wave whose data are those of another has its special registers, operations and paths. -/
theorem Wave.eq_of_data {a b : Wave} (h : a.data = b.data) :
    a.special = b.special ∧ a.ops = b.ops ∧ ∀ k, a.path k = b.path k :=
  ⟨(congrArg Wave.special h : a.data.special = b.data.special), (congrArg Wave.ops h : a.data.ops = b.data.ops),
    fun k => (congrArg (Wave.path · k) h : a.data.path k = b.data.path k)⟩

/-- Retiring leaves a wave that has its data. -/
theorem aget_retire {i : Instr} {g : Sig} {c : WCtx} {s : State} {k : Nat} {w : Wave} (h : aget s.waves k = some w) :
    ∃ u, aget (retire i g c s).waves k = some u ∧ u.data = w.data := by
  have hd := (retire_keeps i g c s).2.1 k
  rw [h] at hd
  exact Option.map_eq_some_iff.1 hd

/-- Replacing a path leaves the special registers. -/
@[simp] theorem Wave.setPath_special (w : Wave) (p : Path) : (w.setPath p).special = w.special := rfl

/-- So does the move past a word. -/
@[simp] theorem WCtx.moved_special (c : WCtx) : c.moved.special = c.w.special := rfl

variable {i : Instr} {g : Sig} {s : State} {c : WCtx}

/-- A word that moves its path past itself and does nothing else. -/
theorem retire_advance (ha : AtWord i g s c) : OnlyRegs (fun _ _ => False) s (retire i g c (c.advance s)) c :=
  have ⟨hw, ho⟩ := WCtx.aget_advance ha
  (retire_done ha (c.advance s) c.moved (fun _ _ => False) (.modWave ..) hw ho rfl rfl rfl
    fun r l _ _ => c.moved_regs.reg r l).1

/-- A branch's state before it retires: its wave alone has changed, and of that the path, which stands at the address. -/
theorem aget_advance_pathTo (ha : AtWord i g s c) (a : Nat) :
    WavesOnly s ((c.advance s).pathTo c a) ∧
    aget ((c.advance s).pathTo c a).waves c.w.id = some (c.moved.setPath (c.p.goto a)) ∧
    ∀ k, k ≠ c.w.id → aget ((c.advance s).pathTo c a).waves k = aget s.waves k := by
  obtain ⟨hown, hother⟩ := WCtx.aget_advance ha
  refine ⟨.trans (.modWave ..) (.modWave ..), ?_, fun k hk => ?_⟩
  · unfold State.pathTo
    rw [State.aget_modWave, if_pos rfl, hown, Option.map_some]
  · unfold State.pathTo
    rw [State.aget_modWave, if_neg hk, hother k hk]

/-- Its path stands at the address, and every other path where it stood. -/
theorem path_moved_setPath (ha : AtWord i g s c) (a : Nat) :
    (c.moved.setPath (c.p.goto a)).path c.p.id = some (c.p.goto a) ∧
    ∀ k, k ≠ c.p.id → (c.moved.setPath (c.p.goto a)).path k = c.w.path k := by
  obtain ⟨hown, hother⟩ := WCtx.moved_path ha
  have hid : (c.p.goto a).id = c.p.id := rfl
  refine ⟨?_, fun k hk => ?_⟩
  · rw [Wave.path_setPath, if_pos hid.symm, hown, Option.map_some]
  · rw [Wave.path_setPath, if_neg (hid ▸ hk), hother k hk]

/-- A word that sends its whole path to an address and does nothing else. -/
theorem retire_pathTo (ha : AtWord i g s c) (a : Nat) :
    Keeps (fun _ _ => False) (some (c.p.goto a)) s (retire i g c ((c.advance s).pathTo c a)) c := by
  obtain ⟨hrest, hown, hother⟩ := aget_advance_pathTo ha a
  obtain ⟨hpath, hpaths⟩ := path_moved_setPath ha a
  generalize (c.advance s).pathTo c a = t at hrest hown hother ⊢
  obtain ⟨hretire, _, hforks⟩ := retire_keeps i g c t
  obtain ⟨u, hu, hdata⟩ := aget_retire (i := i) (g := g) (c := c) hown
  obtain ⟨hspecial, hops, hsame⟩ := Wave.eq_of_data hdata
  refine ⟨(hrest.trans hretire).sameElse, fun r l _ _ => ?_, ⟨u, hu, by simp [hspecial], by rw [hops]; rfl, ?_, fun k hk => ?_⟩,
    fun k hk => ?_⟩
  · rw [retire_reg, State.regIn, State.regIn, hown, ha.wave]
    exact (Wave.SameRegs.mk rfl rfl rfl rfl rfl rfl rfl : (c.moved.setPath (c.p.goto a)).SameRegs c.w).reg r l
  · rw [hsame, hpath]
  · rw [hsame, hpaths k hk]
  · rw [hforks k hk, hother k hk]

/-- A branch that is taken sends its whole path to its target. -/
theorem branch_taken (b : WCtx → Bool) (off : Int) (ha : AtWord i g s c) (hc : Clear i g c) (hb : b c = true) :
    ∃ u, branch i b off s = .next u ∧ Keeps (fun _ _ => False) (some (c.p.goto (branchTarget c off))) s u c :=
  ⟨_, guarded_ok _ _ ha hc (by rw [hb, c.target_eq_branchTarget]; rfl), retire_pathTo ha _⟩

/-- A branch that is not taken moves its path past itself. -/
theorem branch_not_taken (b : WCtx → Bool) (off : Int) (ha : AtWord i g s c) (hc : Clear i g c) (hb : b c = false) :
    ∃ u, branch i b off s = .next u ∧ OnlyRegs (fun _ _ => False) s u c :=
  ⟨_, guarded_ok _ _ ha hc (by rw [hb]; rfl), retire_advance ha⟩

/-- The direct branches run as `branch`, with the test that R170's table gives. -/
theorem exec_of_branchForm {off : Int} {taken : WCtx → Prop} (h : branchForm i = some (off, taken)) :
    ∃ b : WCtx → Bool, (∀ s, exec i s = branch i b off s) ∧ ∀ c, b c = true ↔ taken c := by
  unfold branchForm at h
  split at h <;> cases h
  case h_1 o => exact ⟨_, fun _ => rfl, fun _ => Iff.of_eq (eq_self true)⟩
  case h_2 o => exact ⟨_, fun _ => rfl, fun c => by simp [WCtx.lanes, mem_laneList]⟩
  case h_3 o => exact ⟨_, fun _ => rfl, fun c => by simp [WCtx.lanes, mem_laneList]⟩
  case h_4 o => exact ⟨_, fun _ => rfl, fun c => decide_eq_true_iff⟩
  case h_5 o => exact ⟨_, fun _ => rfl, fun c => decide_eq_true_iff⟩

/-! ### The words of R170 -/

/-- The opcode field of a word made of its fields (R31). -/
theorem opcodeOf_append (st : BitVec 2) (opc : BitVec 9) (x : BitVec 21) : opcodeOf (st ++ opc ++ x) = opc.toNat := by
  unfold opcodeOf
  congr 1
  ext k hk
  simp
  grind

/-- A word alone, whose opcode is assigned and is not 0x1F0, decodes to the instruction its row stands for when that has
no fields or literal to refuse. -/
theorem decode_bare_of_build {w : BitVec 32} {i : Instr} {g : Sig} (hopc : assignedOpc (opcodeOf w) = true)
    (hpfx : opcodeOf w ≠ 0x1F0) (hi : Decode.build w none none = i) (hg : i.sig = some g) (hf : g.fieldsOk = true)
    (hl : g.litWordOk = true) : decode .bare ⟨none, w, none⟩ = .ok i := by
  simp [decode, hopc, Decode.isPfx, hpfx, hi, hg, hf, hl, Decode.sideOk, Decode.placeOk]

/-- The fields of a B word. -/
theorem opsB_append (st : BitVec 2) (opc : BitVec 9) (x : BitVec 21) : Decode.opsB (st ++ opc ++ x) = ⟨st, x⟩ := by
  unfold Decode.opsB
  congr 1 <;> ext k hk <;> simp <;> grind

/-- The fields of a BP word. -/
theorem opsBP_append (st : BitVec 2) (opc : BitVec 9) (p : BitVec 3) (y : BitVec 18) :
    Decode.opsBP (st ++ opc ++ (p ++ y)) = ⟨st, p, y⟩ := by
  unfold Decode.opsBP
  congr 1 <;> ext k hk <;> simp <;> grind

/-- The fields of a BS word. -/
theorem opsBS_append (st : BitVec 2) (opc : BitVec 9) (n : BitVec 7) (z : BitVec 14) :
    Decode.opsBS (st ++ opc ++ (n ++ z)) = ⟨st, n, z⟩ := by
  unfold Decode.opsBS
  congr 1 <;> ext k hk <;> simp <;> grind

/-- The operand fields of a BP word, taken together. -/
theorem append_bp (st : BitVec 2) (opc : BitVec 9) (p : BitVec 3) (y : BitVec 18) :
    st ++ opc ++ p ++ y = st ++ opc ++ (p ++ y) := by
  rw [BitVec.append_assoc (x₁ := st ++ opc)]
  exact BitVec.cast_eq rfl _

/-- The operand fields of a BS word, taken together. -/
theorem append_bs (st : BitVec 2) (opc : BitVec 9) (n : BitVec 7) (z : BitVec 14) :
    st ++ opc ++ n ++ z = st ++ opc ++ (n ++ z) := by
  rw [BitVec.append_assoc (x₁ := st ++ opc)]
  exact BitVec.cast_eq rfl _

/-- A BP row refuses none of its operands: a predicate field of 3 bits names a predicate. -/
theorem bpRow_fieldsOk (opc : Nat) (o : OpsBP) : (Table.bpRow opc o).fieldsOk = true := by
  have hp : o.p.toNat < 8 := o.p.isLt
  simp [Sig.fieldsOk, Table.bpRow, Table.plain, Fld.ok, hp]

theorem decode_bra (st : BitVec 2) (x : BitVec 21) : decode .bare ⟨none, st ++ 0x170#9 ++ x, none⟩ = .ok (.bra ⟨st, x⟩) :=
  decode_bare_of_build (by rw [opcodeOf_append]; decide) (by rw [opcodeOf_append]; decide)
    (by simp [Decode.build, Decode.buildSys, opcodeOf_append, opsB_append]) rfl rfl rfl

theorem decode_braAny (st : BitVec 2) (p : BitVec 3) (y : BitVec 18) :
    decode .bare ⟨none, st ++ 0x171#9 ++ p ++ y, none⟩ = .ok (.braAny ⟨st, p, y⟩) := by
  rw [append_bp]
  exact decode_bare_of_build (by rw [opcodeOf_append]; decide) (by rw [opcodeOf_append]; decide)
    (by simpa [Decode.build, Decode.buildSys, opcodeOf_append] using opsBP_append st _ p y) rfl (bpRow_fieldsOk ..) rfl

theorem decode_braAll (st : BitVec 2) (p : BitVec 3) (y : BitVec 18) :
    decode .bare ⟨none, st ++ 0x172#9 ++ p ++ y, none⟩ = .ok (.braAll ⟨st, p, y⟩) := by
  rw [append_bp]
  exact decode_bare_of_build (by rw [opcodeOf_append]; decide) (by rw [opcodeOf_append]; decide)
    (by simpa [Decode.build, Decode.buildSys, opcodeOf_append] using opsBP_append st _ p y) rfl (bpRow_fieldsOk ..) rfl

theorem decode_braNz (st : BitVec 2) (n : BitVec 7) (z : BitVec 14) :
    decode .bare ⟨none, st ++ 0x173#9 ++ n ++ z, none⟩ = .ok (.braNz ⟨st, n, z⟩) := by
  rw [append_bs]
  exact decode_bare_of_build (by rw [opcodeOf_append]; decide) (by rw [opcodeOf_append]; decide)
    (by simpa [Decode.build, Decode.buildSys, opcodeOf_append] using opsBS_append st _ n z) rfl rfl rfl

theorem decode_braZ (st : BitVec 2) (n : BitVec 7) (z : BitVec 14) :
    decode .bare ⟨none, st ++ 0x174#9 ++ n ++ z, none⟩ = .ok (.braZ ⟨st, n, z⟩) := by
  rw [append_bs]
  exact decode_bare_of_build (by rw [opcodeOf_append]; decide) (by rw [opcodeOf_append]; decide)
    (by simpa [Decode.build, Decode.buildSys, opcodeOf_append] using opsBS_append st _ n z) rfl rfl rfl

/-! ### When p0 reads true

`WCtx.pred` is the early read of R43: it may take an old value or a value still to come, by a free choice. A context
whose wave holds such a value 0 for p0 reads p0 as those choices fall. -/

/-- A free choice takes one of its values. -/
theorem freeOf_mem (fresh key : Nat) (now : Word) (olds : List Word) : freeOf fresh key now olds ∈ now :: olds := by
  induction olds generalizing key now with
  | nil => exact List.mem_singleton.2 rfl
  | cons x olds ih =>
    unfold freeOf
    split
    · exact List.mem_cons_self
    · exact List.mem_cons_of_mem _ (ih ..)

/-- p0 reads true where no value that is old or to come for it is 0 (R20, R43). -/
theorem WCtx.pred_p0 (c : WCtx) (l : Nat) (hold : ∀ x ∈ c.w.earlyOlds c.t (.p 0) l, x ≠ 0)
    (hcoming : ∀ x, c.w.coming (.p 0) l = some x → x ≠ 0) : c.pred l 0 = true := by
  have hread : c.w.readAt c.t c.fresh (.p 0) l ≠ 0 := by
    rcases List.mem_cons.1 (freeOf_mem c.fresh (regKey (.p 0) l) (c.w.reg (.p 0) l) (c.w.earlyOlds c.t (.p 0) l)) with h | h
    · rw [Wave.readAt, h, Wave.reg_p0]; decide
    · exact hold _ h
  unfold WCtx.pred WCtx.rd
  simp only [decide_eq_true_eq]
  split
  · exact hread
  · split
    · exact hread
    · split
      exacts [hcoming _ ‹_›, hread]

/-- The free choices that let p0 read true in every context there is: no choice takes an old value of p0, and none a
value to come. -/
def KeepsP0 (free : Nat → Nat → Bool) : Prop :=
  (∀ fresh l, l < 64 → free fresh (regKey (.p 0) l) = true) ∧ ∀ fresh l, free fresh (32768 + regKey (.p 0) l) = false

/-- Some choices are of that kind and others are not. -/
theorem keepsP0_open : (∃ free, KeepsP0 free) ∧ ∃ free, ¬ KeepsP0 free :=
  ⟨⟨fun _ key => decide (key < 32768), fun _ l hl => decide_eq_true (by simp only [regKey]; omega),
      fun _ l => decide_eq_false (by omega)⟩,
    fun _ _ => false, fun h => absurd (h.1 0 0 (by decide)) (by decide)⟩

/-- A context of a wave with early results and operations of one's own. -/
def p0Ctx (fresh : Nat) (late : List Late) (ops : List PendOp) : WCtx where
  w     := { loadWave 0 with late := late, ops := ops }
  p     := ⟨0, 1, 0, 0, none, .run, false, false, 0⟩
  t     := 0
  fresh := fresh
  hdr   := 0
  hword := 0
  idx   := 0
  next  := 0
  pfx   := none
  lat   := 1
  ctr   := none
  act   := 1

/-- p0's old value in a lane is 0. -/
def oldP0 (l : Nat) : Late := ⟨.p 0, laneBit l, [], 1⟩

/-- An operation that is to write 0 to p0 in a lane. -/
def comingP0 (l : Nat) : PendOp := ⟨0, none, 0, 1, 0, false, .store, [⟨.p 0, l, 0⟩], [.p 0], [], 0⟩

theorem pred_p0Ctx_old (fresh l : Nat) (hl : l < 64) :
    (p0Ctx fresh [oldP0 l] []).pred l 0 = Config.freeBit fresh (regKey (.p 0) l) := by
  have holds : (p0Ctx fresh [oldP0 l] []).w.earlyOlds 0 (.p 0) l = [0] := by
    simp [p0Ctx, Wave.earlyOlds, oldP0, inLanes, getLsbD_laneBit l l hl]
  unfold WCtx.pred WCtx.rd Wave.readAt
  simp only [show (p0Ctx fresh [oldP0 l] []).t = 0 from rfl, holds]
  cases h : Config.freeBit fresh (regKey (.p 0) l) <;> simp [p0Ctx, freeOf, h, Wave.reg_p0]

theorem pred_p0Ctx_coming (fresh l : Nat) :
    (p0Ctx fresh [] [comingP0 l]).pred l 0 = !Config.freeBit fresh (32768 + regKey (.p 0) l) := by
  have hcoming : (p0Ctx fresh [] [comingP0 l]).w.coming (.p 0) l = some 0 := by
    simp [p0Ctx, Wave.coming, comingP0, PendOp.coming]
  unfold WCtx.pred WCtx.rd Wave.readAt
  simp only [hcoming]
  cases h : Config.freeBit fresh (32768 + regKey (.p 0) l) <;>
    simp [p0Ctx, h, freeOf, Wave.earlyOlds, Wave.reg_p0]

/-- An old value is read in a lane of the machine alone. -/
theorem Wave.earlyOlds_of_le (w : Wave) (t : Nat) (r : RegName) (l : Nat) (hl : 64 ≤ l) : w.earlyOlds t r l = [] := by
  simp [Wave.earlyOlds, inLanes, BitVec.getLsbD_of_ge _ l hl]

/-- p0 reads true in every context exactly if the free choices are of that kind. -/
theorem pred_p0_iff : (∀ (c : WCtx) l, c.pred l 0 = true) ↔ KeepsP0 Config.freeBit := by
  constructor
  · exact fun h => ⟨fun fresh l hl => (pred_p0Ctx_old fresh l hl) ▸ h _ l,
      fun fresh l => by simpa [pred_p0Ctx_coming] using h (p0Ctx fresh [] [comingP0 l]) l⟩
  · rintro ⟨hold, hcoming⟩ c l
    have hread : c.w.readAt c.t c.fresh (.p 0) l = 1 := by
      unfold Wave.readAt
      by_cases hl : l < 64
      · cases c.w.earlyOlds c.t (.p 0) l <;> simp [freeOf, hold c.fresh l hl, Wave.reg_p0]
      · rw [Wave.earlyOlds_of_le _ _ _ _ (Nat.not_lt.1 hl)]; rfl
    unfold WCtx.pred WCtx.rd
    simp only [hread, hcoming c.fresh l]
    split
    · decide
    · split
      exacts [by decide, decide_eq_true (by simp)]

/-- Why O18 is left unsettled. All its clauses but the last hold, and are proved here. The last, that p0 reads true, is said of
every context, with no condition on what its wave holds, and so comes to this question about the free choices (R43, log
entry 2). They are opaque, and `keepsP0_open` shows choices of both kinds: neither O18 nor its negation follows from the
model. `WCtx.pred_p0` is the clause with the condition it lacks. -/
theorem branchesGoTheirWay_iff_keepsP0 : Obligations.BranchesGoTheirWay ↔ KeepsP0 Config.freeBit := by
  rw [← pred_p0_iff]
  refine ⟨fun h => h.2.2.2.2.2, fun h => ⟨fun i off taken g s c hi ha hc => ?_, fun st p n x y z => ?_, ?_, ?_, ?_, h⟩⟩
  · obtain ⟨b, hexec, hb⟩ := exec_of_branchForm hi
    rw [hexec]
    exact ⟨fun ht => branch_taken b off ha hc ((hb c).2 ht),
      fun ht => branch_not_taken b off ha hc (Bool.eq_false_iff.2 fun h => ht ((hb c).1 h)), c.advanced_of_last⟩
  · exact ⟨decode_bra .., decode_braAny .., decode_braAll .., decode_braNz .., decode_braZ ..⟩
  · simpa using decode_bra 0 (-3)
  · simpa using decode_braAny 0 2 4
  · simpa using decode_braNz 0 5 (-2)

end Sys2Proof.Machine

/-!
SUPPORT. The engine branches of R284: a word that changes only its own channel, where a branch sends its channel, and
how the branches' words decode.
-/
namespace Sys2Proof.Machine
open Sys2Proof.Claims

variable {s t : State} {e : ECtx} {k : Chan}

/-! ### Words that change only their own channel -/

/-- A change of the word's own channel. -/
theorem engOnly_modChan (h : EngOnly k s t e) (f : Chan → Chan) : EngOnly (f k) s (t.modChan e.c f) e where
  own    := by rw [State.chan_modChan, if_pos rfl, h.own]
  chans  := fun c hc => by rw [State.chan_modChan, if_neg hc, h.chans c hc]
  mem    := h.mem
  scr    := h.scr
  waves  := h.waves
  blocks := h.blocks
  grids  := h.grids
  cores  := h.cores
  parts  := h.parts
  msys   := h.msys
  hw     := h.hw
  time   := h.time

/-- A word at which the cursor stands has changed nothing yet. -/
theorem engOnly_start (ha : AtEng s e) : EngOnly e.ch s s e :=
  ⟨ha.2.symm, fun _ _ => rfl, fun _ => rfl, fun _ => rfl, rfl, rfl, rfl, rfl, rfl, rfl, rfl, rfl⟩

/-- The move past a word. -/
theorem engOnly_advance (ha : AtEng s e) : EngOnly (engNext e) s (e.advance s) e :=
  engOnly_modChan (engOnly_start ha) fun x => engNext { e with ch := x }

/-- A word whose meaning answers with a state that differs in its channel alone. -/
theorem engine_only (body : ECtx → State → ERes) (ha : AtEng s e) (hb : body e (e.advance s) = .ok t)
    (ht : EngOnly k s t e) : ∃ u, engine body s = .next u ∧ EngOnly k s u e := by
  obtain ⟨hcur, hch⟩ := ha
  refine ⟨{ t with fresh := t.fresh + 1 }, ?_,
    ht.own, ht.chans, ht.mem, ht.scr, ht.waves, ht.blocks, ht.grids, ht.cores, ht.parts, ht.msys, ht.hw, ht.time⟩
  unfold engine engineWord
  simp only [hcur, ← hch, hb]

/-- The move past a word leaves the channel's registers. -/
@[simp] theorem engNext_x (e : ECtx) : (engNext e).x = e.ch.x := by
  unfold engNext
  split <;> rfl

/-- Past the last word of its clause a channel goes to the next clause header (R30, R284). -/
theorem engNext_of_last (h : (e.hword.extractLsb 31 28).toNat < e.next) :
    (engNext e).hdr = e.hdr + 4 * ((e.hword.extractLsb 31 28).toNat + 1) ∧ (engNext e).idx = 0 ∧
    (engNext e).clause = none := by
  unfold engNext
  rw [if_neg (Nat.not_le.2 h)]
  exact ⟨rfl, rfl, rfl⟩

/-! ### Where a branch sends its channel -/

/-- The sum of an address and an offset, modulo `2^64` (R33). -/
theorem toNat_addOff (a : Nat) (off : Int) : (addOff (BitVec.ofNat 64 a) off).toNat = ((a + off) % 2 ^ 64).toNat := by
  unfold addOff
  rw [BitVec.toNat_add, BitVec.toNat_ofNat, BitVec.toNat_ofInt]
  omega

/-- The model's jump sends the channel to the spec's H + 4 × offset. -/
theorem ECtx.jump_eq (e : ECtx) (s : State) (off : Int) : e.jump s off = s.modChan e.c (engGoto e off) := by
  unfold ECtx.jump
  rw [toNat_addOff]
  rfl

/-- A jump of a word that has changed its channel alone. -/
theorem engOnly_jump (h : EngOnly k s t e) (off : Int) : EngOnly (engGoto e off k) s (e.jump t off) e :=
  e.jump_eq t off ▸ engOnly_modChan h _

/-- The branches jump as R284's table says, and otherwise do nothing. -/
theorem exec_of_engBranch {i : Instr} {off : Int} {taken : ECtx → Prop} (h : engBranch i = some (off, taken)) :
    ∃ b : ECtx → Bool, (∀ s, exec i s = engine (fun e t => .ok (if b e then e.jump t off else t)) s) ∧
      ∀ e, b e = true ↔ taken e := by
  unfold engBranch at h
  split at h <;> cases h
  case h_1 o => exact ⟨fun _ => true, fun _ => rfl, fun _ => Iff.of_eq (eq_self true)⟩
  case h_2 o => exact ⟨_, fun _ => rfl, fun e => decide_eq_true_iff⟩
  case h_3 o => exact ⟨_, fun _ => rfl, fun e => decide_eq_true_iff⟩
  case h_4 o => exact ⟨_, fun _ => rfl, fun e => decide_eq_true_iff⟩
  case h_5 o => exact ⟨_, fun _ => rfl, fun e => decide_eq_true_iff⟩

/-- A branch sends its channel to its target when it is taken, and past itself when it is not. -/
theorem engBranch_goes {i : Instr} {off : Int} {taken : ECtx → Prop} (h : engBranch i = some (off, taken))
    (ha : AtEng s e) :
    (taken e → ∃ u, exec i s = .next u ∧ EngOnly (engGoto e off (engNext e)) s u e) ∧
    (¬ taken e → ∃ u, exec i s = .next u ∧ EngOnly (engNext e) s u e) := by
  obtain ⟨b, hexec, hb⟩ := exec_of_engBranch h
  rw [hexec, ← hb e]
  exact ⟨fun ht => engine_only _ ha (by rw [if_pos ht]) (engOnly_jump (engOnly_advance ha) off),
    fun ht => engine_only _ ha (by rw [if_neg ht]) (engOnly_advance ha)⟩

/-- A register field of 5 bits names its x register. -/
@[simp] theorem toNat_x5 (n : BitVec 5) : (x5 n).toNat = n.toNat :=
  BitVec.toNat_setWidth_of_le (by decide)

/-- What A.LOOP compares with its count: x[b], or the count itself where both are one register (R284). -/
def loopBound (e : ECtx) (o : OpsAB) (a : Word) : Word := if o.a = o.b then a else e.x (x5 o.b)

/-- The channel past A.LOOP, with its count. -/
def loopNext (e : ECtx) (o : OpsAB) (a : Word) : Chan := { engNext e with x := sset e.ch.x o.a.toNat a }

/-- A.LOOP's count, written past the word. -/
theorem engOnly_setX (ha : AtEng s e) (o : OpsAB) (a : Word) :
    EngOnly (loopNext e o a) s ((e.advance s).setX e (x5 o.a) a) e := by
  have h := engOnly_modChan (engOnly_advance ha) fun k => { k with x := sset k.x (x5 o.a).toNat a }
  rwa [toNat_x5, engNext_x] at h

/-- A.LOOP writes its count, and goes back exactly while the count is below its bound. -/
theorem aLoop_goes (o : OpsAB) (ha : AtEng s e) {a : Word} (hcount : a = e.x (x5 o.a) + 1) :
    (a.toNat < (loopBound e o a).toNat → ∃ u, exec (.aLoop o) s = .next u ∧
      EngOnly (engGoto e o.off.toInt (loopNext e o a)) s u e) ∧
    ((loopBound e o a).toNat ≤ a.toNat → ∃ u, exec (.aLoop o) s = .next u ∧ EngOnly (loopNext e o a) s u e) := by
  subst hcount
  exact ⟨fun hlt => engine_only _ ha (congrArg ERes.ok (if_pos hlt)) (engOnly_jump (engOnly_setX ha o _) _),
    fun hle => engine_only _ ha (congrArg ERes.ok (if_neg (Nat.not_lt.2 hle))) (engOnly_setX ha o _)⟩

/-! ### The words of R284 -/

/-- A word of an engine's clause that decodes as the clause's last word, and nowhere else (R38). -/
def DecodesLast (w : BitVec 32) (i : Instr) : Prop :=
  decode (.engine true) ⟨none, w, none⟩ = .ok i ∧ decode (.engine false) ⟨none, w, none⟩ = .error .clauseFormat

/-- The word of an engine's control transfer, with no fields or literal to refuse, decodes as its clause's last word
alone. -/
theorem decodesLast_of_build {w : BitVec 32} {i : Instr} {g : Sig} (hopc : assignedOpc (opcodeOf w) = true)
    (hpfx : opcodeOf w ≠ 0x1F0) (hi : Decode.build w none none = i) (hg : i.sig = some g) (hf : g.fieldsOk = true)
    (hl : g.litWordOk = true) (hcls : g.cls = .eng) (hctl : g.ctl = true) : DecodesLast w i := by
  constructor <;> simp [decode, hopc, Decode.isPfx, hpfx, hi, hg, hf, hl, Decode.sideOk, Decode.placeOk, hcls, hctl]

/-- The operand fields of an AB word, taken together. -/
theorem append_ab (st : BitVec 2) (opc : BitVec 9) (a b : BitVec 5) (y : BitVec 11) :
    st ++ opc ++ a ++ b ++ y = st ++ opc ++ (a ++ b ++ y) := by
  ext n hn
  simp
  grind

/-- The fields of an AB word. -/
theorem opsAB_append (st : BitVec 2) (opc : BitVec 9) (a b : BitVec 5) (y : BitVec 11) :
    Decode.opsAB (st ++ opc ++ (a ++ b ++ y)) = ⟨st, a, b, y⟩ := by
  unfold Decode.opsAB
  congr 1 <;> ext n hn <;> simp <;> grind

/-- An AB row refuses none of its operands: a field of 5 bits names an x register. -/
theorem abRow_fieldsOk (opc : Nat) (o : OpsAB) : (Table.abRow opc o).fieldsOk = true := by
  have ha : o.a.toNat < 32 := o.a.isLt
  have hb : o.b.toNat < 32 := o.b.isLt
  simp [Sig.fieldsOk, Table.abRow, Table.plain, Fld.ok, ha, hb]

/-- The words of an AB row, from its opcode's line in the decoder and its line in the table. -/
theorem decodesLast_abRow {opc : BitVec 9} {f : OpsAB → Instr} (hopc : assignedOpc opc.toNat = true) (hpfx : opc.toNat ≠ 0x1F0)
    (hbuild : ∀ w, opcodeOf w = opc.toNat → Decode.build w none none = f (Decode.opsAB w))
    (hsig : ∀ o, (f o).sig = some (Table.abRow opc.toNat o)) (st : BitVec 2) (a b : BitVec 5) (y : BitVec 11) :
    DecodesLast (st ++ opc ++ a ++ b ++ y) (f ⟨st, a, b, y⟩) := by
  have hword := opcodeOf_append st opc (a ++ b ++ y)
  rw [append_ab]
  exact decodesLast_of_build (by rwa [hword]) (by rwa [hword])
    ((hbuild _ hword).trans (congrArg f (opsAB_append ..))) (hsig _) (abRow_fieldsOk ..) rfl rfl rfl

theorem decodesLast_aB (st : BitVec 2) (x : BitVec 21) : DecodesLast (st ++ 0x1C0#9 ++ x) (.aB ⟨st, x⟩) :=
  decodesLast_of_build (by rw [opcodeOf_append]; decide) (by rw [opcodeOf_append]; decide)
    (by simp [Decode.build, Decode.buildEng, opcodeOf_append, opsB_append]) rfl rfl rfl rfl rfl

section
variable (st : BitVec 2) (a b : BitVec 5) (y : BitVec 11)

theorem decodesLast_aBeq : DecodesLast (st ++ 0x1C1#9 ++ a ++ b ++ y) (.aBeq ⟨st, a, b, y⟩) :=
  decodesLast_abRow (by decide) (by decide) (fun w hw => by simp [Decode.build, Decode.buildEng, hw]) (fun _ => rfl) ..

theorem decodesLast_aBne : DecodesLast (st ++ 0x1C2#9 ++ a ++ b ++ y) (.aBne ⟨st, a, b, y⟩) :=
  decodesLast_abRow (by decide) (by decide) (fun w hw => by simp [Decode.build, Decode.buildEng, hw]) (fun _ => rfl) ..

theorem decodesLast_aBlt : DecodesLast (st ++ 0x1C3#9 ++ a ++ b ++ y) (.aBlt ⟨st, a, b, y⟩) :=
  decodesLast_abRow (by decide) (by decide) (fun w hw => by simp [Decode.build, Decode.buildEng, hw]) (fun _ => rfl) ..

theorem decodesLast_aBge : DecodesLast (st ++ 0x1C4#9 ++ a ++ b ++ y) (.aBge ⟨st, a, b, y⟩) :=
  decodesLast_abRow (by decide) (by decide) (fun w hw => by simp [Decode.build, Decode.buildEng, hw]) (fun _ => rfl) ..

theorem decodesLast_aLoop : DecodesLast (st ++ 0x1C5#9 ++ a ++ b ++ y) (.aLoop ⟨st, a, b, y⟩) :=
  decodesLast_abRow (by decide) (by decide) (fun w hw => by simp [Decode.build, Decode.buildEng, hw]) (fun _ => rfl) ..

end

/-- Settles O35: a branch jumps or moves past itself by `engBranch_goes` and `aLoop_goes`, and each of the six words
decodes by its own lemma. -/
theorem engineControl : Obligations.EngineControl := by
  refine ⟨fun i off taken s e hi ha => engBranch_goes hi ha, fun o s e a k ha hcount hk => ?_,
    fun e => engNext_of_last, fun st x a b y w i hw => ?_, ?_, ?_⟩
  · subst hk
    exact aLoop_goes o ha hcount
  · rcases hw with ⟨rfl, rfl⟩ | ⟨rfl, rfl⟩ | ⟨rfl, rfl⟩ | ⟨rfl, rfl⟩ | ⟨rfl, rfl⟩ | ⟨rfl, rfl⟩
    exacts [decodesLast_aB st x, decodesLast_aBeq st a b y, decodesLast_aBne st a b y, decodesLast_aBlt st a b y,
      decodesLast_aBge st a b y, decodesLast_aLoop st a b y]
  · simpa using (decodesLast_aB 0 5).1
  · simpa using (decodesLast_aLoop 0 1 2 (-3)).1

end Sys2Proof.Machine
